-- ==== Sys2Proof/Word.lean ====
section
/-!
DEFINITION. The word types and their plainest arithmetic (R5, R6, R9).
-/
namespace Sys2Proof

/-- A 64-bit register, address or bundle. -/
abbrev Word := BitVec 64

/-- One byte of memory. -/
abbrev Byte := BitVec 8

/-- One 32-bit lane of a vector register, or one instruction word. -/
abbrev Lane := BitVec 32

end Sys2Proof
end

