-- ==== Sys2Proof/Syntax.lean ====
section
/-!
DEFINITION. The steps of the machine: one constructor for each row of the opcode table. Rows with an encoding
are Rulis instructions (R36 to R38, R48); the others are the indivisible events of the module's own agents, of the
host and of rudb, whose operands name the agent and the object concerned.
-/
namespace Sys2Proof

/-- A register source: its number, and the mark of a synchronised read (R10, R25). For a vector register the number is K. -/
structure Src where
  r : Nat
  bang : Bool
  deriving DecidableEq, Repr, Inhabited

/-- Scalar float types (R89). -/
inductive FTy where
  | f64 | f32
  deriving DecidableEq, Repr, Inhabited

/-- Lane types of the vector instructions (R93, R95). -/
inductive VTy where
  | f32 | i32 | n32
  deriving DecidableEq, Repr, Inhabited

/-- How the debugger prints lanes (R345). -/
inductive PrintFmt where
  | f32 | i32 | n32 | hex
  deriving DecidableEq, Repr, Inhabited

/-- What `vreg` prints (R345): lanes l0 to l1 of vector register v, in a format. -/
structure LaneRange where
  v : Nat
  fmt : PrintFmt
  l0 : Nat
  l1 : Nat
  deriving DecidableEq, Repr, Inhabited

/-- Integer types of the atomics and of BFX (R50, R117). -/
inductive ITy where
  | i32 | n32 | i64 | n64
  deriving DecidableEq, Repr, Inhabited

/-- Data formats (R40, R50). -/
inductive Fmt where
  | f64 | f32 | bf16 | f16 | code8 | mx | i8 | n8 | i32 | n32 | i16 | n16 | i64 | n64
  deriving DecidableEq, Repr, Inhabited

/-- Rounding modes (R59). -/
inductive Rnd where
  | rne | rtz | rdn | rup | rna
  deriving DecidableEq, Repr, Inhabited

/-- The formats and modes of a conversion (R52): from its own literal, or from a pending format descriptor. -/
inductive Conv where
  | lit (dst src : Fmt) (ovf : Bool) (rnd : Rnd) (dt : Bool)
  | pend
  deriving DecidableEq, Repr, Inhabited

/-- Comparison relations (R91, R95). -/
inductive Rel where
  | eq | ne | lt | le | un
  deriving DecidableEq, Repr, Inhabited

/-- Reductions of VRED (R71). -/
inductive RedOp where
  | sum | max | min
  deriving DecidableEq, Repr, Inhabited

/-- Scans of VSCAN (R72). -/
inductive ScanOp where
  | sum | sumx | max
  deriving DecidableEq, Repr, Inhabited

/-- Scopes (R119). -/
inductive Scope where
  | thread | core | die | package | system
  deriving DecidableEq, Repr, Inhabited

/-- Levels of completion counters (R149). -/
inductive Level where
  | thread | launch | wave | phase | job
  deriving DecidableEq, Repr, Inhabited

/-- Presets of DTLD (R65). -/
inductive Preset where
  | e4m3 | e5m2 | int8 | e3m4
  deriving DecidableEq, Repr, Inhabited

/-- Shapes named by MSHAPE and ACCLD (R240, R257). -/
inductive Shape where
  | f32 | i32 | f64
  deriving DecidableEq, Repr, Inhabited

/-- The form field of MMA and MMAZ (R251, R252): `pend` is form 0. -/
inductive MForm where
  | pend | f64 | f32 | bf16 | f16 | code8 | mx | i8
  deriving DecidableEq, Repr, Inhabited

/-- The mode fields of an atomic (R117): acquire, release, scope, signed offset in units. -/
structure AtomMode where
  acq : Bool
  rel : Bool
  scope : Scope
  off : Int
  deriving DecidableEq, Repr, Inhabited

/-- The engines that an engine reset names (R348). -/
inductive Engine where
  | transfer (core : Nat) | sequencer (die : Nat) | assay (unit : Nat)
  | remelt | prefixTree | command (n : Nat) | daward
  deriving DecidableEq, Repr, Inhabited

/-- The four firmware images and the Daward firmware (R354, R355). -/
inductive Image where
  | transfer | sequencer | command | daward
  deriving DecidableEq, Repr, Inhabited

/-- Control registers (R35). -/
inductive Csr where
  | st | trapvec | epc | cause | tval | ssplit | vgroup | waitlim | msglim | viewlim | unack
  | ctxid | thid | wbase | wlim | dtsel | prio | cyc | mb (k : Nat)
  deriving DecidableEq, Repr, Inhabited

/-- The steps of the machine: first the rows with an encoding, then the rows that are events, each in the order of the
opcode table. -/
inductive Instr where
  -- integer, register forms (R84, R85)
  | add (d : Nat) (a b : Src)
  | sub (d : Nat) (a b : Src)
  | and (d : Nat) (a b : Src)
  | or (d : Nat) (a b : Src)
  | xor (d : Nat) (a b : Src)
  | andn (d : Nat) (a b : Src)
  | shl (d : Nat) (a b : Src)
  | shr (d : Nat) (a b : Src)
  | sra (d : Nat) (a b : Src)
  | rot (d : Nat) (a b : Src)
  | min (d : Nat) (a b : Src)
  | max (d : Nat) (a b : Src)
  | minn (d : Nat) (a b : Src)
  | maxn (d : Nat) (a b : Src)
  | slt (d : Nat) (a b : Src)
  | sltn (d : Nat) (a b : Src)
  | seq (d : Nat) (a b : Src)
  | sel (d : Nat) (a b : Src)
  | mul (d : Nat) (a b : Src)
  | mulh (d : Nat) (a b : Src)
  | mulhn (d : Nat) (a b : Src)
  | popc (d : Nat) (a : Src)
  | clz (d : Nat) (a : Src)
  | mov (d : Nat) (a : Src)
  | div (d : Nat) (a b : Src)
  | divn (d : Nat) (a b : Src)
  | rem (d : Nat) (a b : Src)
  | remn (d : Nat) (a b : Src)
  | addsh (d : Nat) (a b : Src) (s : Nat)
  -- integer, immediate forms (R86, R87)
  | addImm (d : Nat) (a : Src) (imm : Int)
  | andImm (d : Nat) (a : Src) (imm : Int)
  | orImm (d : Nat) (a : Src) (imm : Int)
  | xorImm (d : Nat) (a : Src) (imm : Int)
  | mulImm (d : Nat) (a : Src) (imm : Int)
  | shlImm (d : Nat) (a : Src) (amt : Nat)
  | shrImm (d : Nat) (a : Src) (amt : Nat)
  | sraImm (d : Nat) (a : Src) (amt : Nat)
  | rotImm (d : Nat) (a : Src) (amt : Nat)
  | sltImm (d : Nat) (a : Src) (v : Int)
  | sltnImm (d : Nat) (a : Src) (v : Nat)
  | seqImm (d : Nat) (a : Src) (v : Int)
  | movImm (d : Nat) (imm : Int)
  | li (d : Nat) (hi lit : Nat)
  | liN (d : Nat) (hi lit : Nat)
  | liHi (d : Nat) (hi : Nat)
  -- scalar float (R89 to R92) and bit fields (R88)
  | fadd (t : FTy) (d : Nat) (a b : Src)
  | fsub (t : FTy) (d : Nat) (a b : Src)
  | fmul (t : FTy) (d : Nat) (a b : Src)
  | ffma (t : FTy) (d : Nat) (a b : Src)
  | fmin (t : FTy) (d : Nat) (a b : Src)
  | fmax (t : FTy) (d : Nat) (a b : Src)
  | fneg (t : FTy) (d : Nat) (a : Src)
  | fabs (t : FTy) (d : Nat) (a : Src)
  | fsqrt (t : FTy) (d : Nat) (a : Src)
  | fclass (t : FTy) (d : Nat) (a : Src)
  | fdiv (t : FTy) (d : Nat) (a b : Src)
  | fcmp (t : FTy) (r : Rel) (d : Nat) (a b : Src)
  | fcvt (c : Conv) (d : Nat) (a : Src)
  | bfx (signed : Bool) (d : Nat) (a : Src) (pos len : Nat)
  | bfi (d : Nat) (a : Src) (pos len : Nat)
  -- vector (R93, R94)
  | vadd (t : VTy) (d : Nat) (a b : Src)
  | vsub (t : VTy) (d : Nat) (a b : Src)
  | vmul (t : VTy) (d : Nat) (a b : Src)
  | vfma (t : VTy) (d : Nat) (a b : Src)
  | vmin (t : VTy) (d : Nat) (a b : Src)
  | vmax (t : VTy) (d : Nat) (a b : Src)
  | vand (d : Nat) (a b : Src)
  | vor (d : Nat) (a b : Src)
  | vxor (d : Nat) (a b : Src)
  | vmov (d : Nat) (a : Src)
  | vshl (d : Nat) (a b : Src)
  | vshrN32 (d : Nat) (a b : Src)
  | vshrI32 (d : Nat) (a b : Src)
  | vabs (t : VTy) (d : Nat) (a : Src)
  | vneg (t : VTy) (d : Nat) (a : Src)
  | vexp2 (d : Nat) (a : Src)
  | vlog2 (d : Nat) (a : Src)
  | vrcp (d : Nat) (a : Src)
  | vrsq (d : Nat) (a : Src)
  -- extended vector (R95 to R102)
  | vcvt (c : Conv) (d : Nat) (a : Src)
  | vcmp (t : VTy) (r : Rel) (d : Nat) (a b : Src)
  | vsel (d : Nat) (a b : Src) (m : Nat)
  | vred (t : VTy) (op : RedOp) (d : Nat) (a : Src)
  | vscan (t : VTy) (op : ScanOp) (d : Nat) (a : Src)
  | vperm (d : Nat) (a b : Src)
  | vbcast (d : Nat) (a : Src)
  | vext (t : VTy) (d : Nat) (a : Src) (lane : Nat)
  | vins (d : Nat) (a : Src) (lane : Nat)
  | vsort (t : VTy) (desc : Bool) (d : Nat) (a b : Src)
  | viota (d : Nat) (a : Src)
  | vquant (c : Conv) (d : Nat) (a : Src)
  | vdeq (c : Conv) (d : Nat) (a : Src)
  | rand (d : Nat) (a b : Src)
  | randV (d : Nat) (a b : Src)
  -- format prefix (R103), decode tables (R74 to R77)
  | fmt (lit : Nat)
  | dtldMem (d : Nat) (a : Src) (n : Nat)
  | dtldPreset (d : Nat) (p : Preset) (n : Nat)
  -- control (R80 to R83, R165)
  | beq (d : Nat) (a : Src) (off : Int)
  | bne (d : Nat) (a : Src) (off : Int)
  | blt (d : Nat) (a : Src) (off : Int)
  | bge (d : Nat) (a : Src) (off : Int)
  | bltn (d : Nat) (a : Src) (off : Int)
  | bgen (d : Nat) (a : Src) (off : Int)
  | bz (a : Nat) (off : Int)
  | bnz (a : Nat) (off : Int)
  | jal (link : Nat) (off : Int)
  | jalr (link : Nat) (a : Src) (imm : Int)
  | jmpf (link : Nat) (idx : Nat)
  | nop
  -- loads and stores (R110 to R116)
  | ldI8 (t : Nat) (base : Src) (off : Int)
  | ldN8 (t : Nat) (base : Src) (off : Int)
  | ldI16 (t : Nat) (base : Src) (off : Int)
  | ldN16 (t : Nat) (base : Src) (off : Int)
  | ldI32 (t : Nat) (base : Src) (off : Int)
  | ldN32 (t : Nat) (base : Src) (off : Int)
  | ldI64 (t : Nat) (base : Src) (off : Int)
  | stI8 (t : Nat) (base : Src) (off : Int)
  | stI16 (t : Nat) (base : Src) (off : Int)
  | stI32 (t : Nat) (base : Src) (off : Int)
  | stI64 (t : Nat) (base : Src) (off : Int)
  | ldv (t : Nat) (base : Src) (off : Int)
  | stv (t : Nat) (base : Src) (off : Int)
  | ldaI64 (t : Nat) (base : Src) (off : Int)
  | stlI64 (t : Nat) (base : Src) (off : Int)
  | ldmx (d : Nat) (a b : Src)
  | stmx (d : Nat) (a b : Src)
  | pfl (a : Src) (off : Int)
  | pflW (a : Src) (off : Int)
  -- atomics (R117)
  | aadd (t : ITy) (m : AtomMode) (d : Nat) (a b : Src)
  | aand (t : ITy) (m : AtomMode) (d : Nat) (a b : Src)
  | aor (t : ITy) (m : AtomMode) (d : Nat) (a b : Src)
  | axor (t : ITy) (m : AtomMode) (d : Nat) (a b : Src)
  | amin (t : ITy) (m : AtomMode) (d : Nat) (a b : Src)
  | amax (t : ITy) (m : AtomMode) (d : Nat) (a b : Src)
  | aswp (t : ITy) (m : AtomMode) (d : Nat) (a b : Src)
  | acas (t : ITy) (m : AtomMode) (d : Nat) (a b : Src)
  | afadd (t : FTy) (m : AtomMode) (d : Nat) (a b : Src)
  -- fences (R121)
  | drain
  | ifence
  | fence (s : Scope)
  -- control registers (R134) and the effects of writes to them (R132, R133, R189, R192, R222)
  | csrr (d : Nat) (r : Csr)
  | csrw (d : Nat) (r : Csr) (a : Nat)
  | csrs (d : Nat) (r : Csr) (a : Nat)
  | csrc (d : Nat) (r : Csr) (a : Nat)
  -- traps (R139, R140), save and restore (R142 to R144)
  | trap (code : Nat)
  | bkpt
  | eret
  | idle
  | tsave (d : Nat) (a b : Src)
  | tload (d : Nat) (a b : Src)
  -- groups (R149 to R158)
  | yield
  | exit
  | launch (d : Nat) (a b : Src)
  | cntrd (l : Level) (d : Nat) (a : Src)
  | cntwait (l : Level) (d : Nat) (a : Src)
  | cancel (l : Level) (d : Nat) (a : Src)
  | tid (d : Nat) (sel : Nat)
  -- code store and messages (R162 to R169)
  | ofetch (n : Nat) (a : Src)
  | ostat (d : Nat) (n : Nat)
  | send (a : Src) (b : Nat) (n : Nat) (slot : Nat)
  | wmsg
  | pmsg (d : Nat)
  | mstat (d : Nat)
  -- line instructions (R179, R200, R201)
  | wback (d : Nat) (a b : Src)
  | linv (d : Nat) (a b : Src)
  | discard (d : Nat) (a b : Src)
  | lclr (d : Nat) (a b : Src)
  -- pager instructions (R188)
  | pgharv (d : Nat) (a : Src)
  | pgharvClr (d : Nat) (a : Src)
  | pginvPage (d : Nat) (a : Src)
  | pginvCtx (d : Nat)
  | pginvRevive (d : Nat) (a : Src)
  | pgwake (d : Nat) (a : Src)
  | pgwakeFatal (d : Nat) (a : Src) (c : Nat)
  | pgqry (d : Nat) (a : Src)
  -- full/empty words and waiter queues (R202 to R208)
  | ldfe (d : Nat) (a : Src) (off : Int)
  | ldf (d : Nat) (a : Src) (off : Int)
  | stfe (a b : Src) (off : Int)
  | stf (a b : Src) (off : Int)
  | feclr (d : Nat) (a : Src) (off : Int)
  | festat (d : Nat) (a : Src) (off : Int)
  -- barriers (R209 to R214)
  | binit (d : Nat) (a b : Src)
  | barv (d : Nat) (a : Src)
  | bexp (d : Nat) (a b : Src)
  | bwait (d : Nat) (a b : Src)
  | btest (d : Nat) (a b : Src)
  | bcpl (d : Nat) (a : Src)
  -- transfer thread and streams (R221 to R237)
  | xwpt (d : Nat) (n : Nat)
  | xsubs (d : Nat) (a b : Src) (ch : Nat)
  | xunsub (d : Nat) (a : Src)
  | sbind (x : Nat) (a : Src) (off : Int)
  | sunb (x : Nat)
  | scfgCount (d x : Nat) (b : Src)
  | scfgSkip (d x : Nat) (b : Src)
  | sstat (d x : Nat)
  -- tile (R238 to R258)
  | mshape (acc : Nat) (s : Shape)
  | mskr (m : Nat) (a : Src)
  | mskc (m : Nat) (a : Src)
  | rcfg (ring : Nat) (base : Src) (off : Int)
  | rstat (d ring : Nat)
  | rpopHead (d ring : Nat) (b : Src)
  | rpopTail (d ring : Nat) (b : Src)
  | tldt (ring : Nat) (a b : Src)
  | mma (form : MForm) (acc qa qb : Nat) (keepb : Bool)
  | mmaz (form : MForm) (acc qa qb : Nat) (keepb : Bool)
  | accmv (d acc : Nat) (b : Src)
  | accz (acc : Nat)
  | accld (acc : Nat) (s : Shape) (a : Src)
  | accst (acc : Nat) (a : Src)
  -- cells (R259 to R288)
  | cbind (d : Nat) (a : Src)
  | cedit (d : Nat) (a h : Src)
  | cunb (d : Nat) (h : Src)
  | cst (d : Nat) (a h : Src) (off : Int)
  | cbatch (d : Nat)
  | cseal (d : Nat) (a : Src)
  | cld (win : Nat) (a h : Src) (off : Int)
  | cwr (win : Nat) (a h : Src) (off : Int)
  | cfin
  | cviewNow (d : Nat)
  | cviewFence (d : Nat)
  | cvend
  | cstat (d : Nat) (h : Src) (sel : Nat)
  -- handles, remelt engine, prefix tree (R292 to R308)
  | hnew (d : Nat) (a b : Src)
  | hnewKv (d : Nat) (a b : Src)
  | hweak (d : Nat) (a : Src)
  | hdup (d : Nat) (a : Src)
  | hdrop (a : Src)
  | hup (d : Nat) (a : Src)
  | hldw (d p : Nat) (a : Src) (n : Nat)
  | hpri (a b : Src)
  | hinfo (d : Nat) (a : Src) (sel : Nat)
  | pfxfind (d : Nat) (a : Src)
  | pfxins (d : Nat) (a : Src)
  | pfxdel (d : Nat) (a : Src)
  -- taps (R309 to R323)
  | taparm (d : Nat) (a h : Src)
  | tapoff (d : Nat) (h : Src)
  | taprel (d : Nat) (a h : Src)
  | tapkill (d : Nat) (a h : Src)
  | taprd (d : Nat) (a h : Src) (sel : Nat)
  -- combining (R332 to R338)
  | cmbmax (t : VTy) (d : Nat) (a b : Src)
  | cmbsum (t : Fmt) (d : Nat) (a b : Src)
  | cmbrecv (d s : Nat) (a : Src)
  -- EVENTS: rows of the table without an encoding
  -- format prefix (R103), decode tables (R74 to R77)
  | tableReplacement (core n : Nat)
  -- control registers (R134) and the effects of writes to them (R132, R133, R189, R192, R222)
  | stRegisterWrite (v : Nat)
  | windowWrite (lim : Bool) (v : Nat)
  | ssplitWrite (v : Nat)
  | vgroupWrite (v : Nat)
  | mailboxWrite (k v : Nat)
  | mailboxWaitLimit (core slot : Nat)
  -- traps (R139, R140), save and restore (R142 to R144)
  | preemptionRequest (core slot : Nat)
  -- groups (R149 to R158)
  | cntwaitLimit (core slot : Nat)
  | threadStart (core slot : Nat)
  | replyArrive (id : Nat)
  | bundleReissue (core slot : Nat)
  | waitlimitExpiry (core slot : Nat)
  | streamElementDeliver (core slot reg : Nat)
  -- code store and messages (R162 to R169)
  | segmentLand (core seg : Nat)
  | segmentFail (core seg : Nat)
  | messageAccept (core : Nat)
  | handlerStart (core : Nat)
  | msglimit (core : Nat)
  | coreGate (core : Nat)
  | blockClockStep (block clock : Nat)
  -- queues and contexts (R128, R170 to R179, R347, R360)
  | tailLineSnoop (ctx q tail : Nat)
  | entryTake (ctx q : Nat)
  | launchEntry (ctx q : Nat)
  | sealEntry (ctx q : Nat)
  | fenceEntry (ctx q : Nat)
  | signalEntry (ctx q : Nat)
  | create (record : Nat)
  | suspend (ctx : Nat)
  | resume (ctx : Nat)
  | destroy (ctx : Nat)
  | contextFree (ctx : Nat)
  -- accesses in flight (R108, R111, R186, R193 to R199)
  | accessAtWalkSlice (id : Nat)
  | globalStoreAccept (id : Nat)
  | fabricAccessArrive (id : Nat)
  | fabricStoreAck (id : Nat)
  | readRequest (id : Nat)
  | fillArrive (id : Nat)
  | evictionNotice (core ctx line : Nat)
  | registrationRequest (id : Nat)
  | invalidation (core ctx line : Nat)
  | invalidationAck (core ctx line : Nat)
  | registrationGrant (id : Nat)
  | recall (core ctx line mask : Nat)
  | forwardedLoad (id : Nat)
  | uncorrectableError (key : Nat)
  -- line instructions (R179, R200, R201)
  | deadRangeDiscard (ctx addr len : Nat)
  -- full/empty words and waiter queues (R202 to R208)
  | memoryWaitLimit (core slot : Nat)
  | withdraw (core slot : Nat)
  | retry (core line : Nat)
  | parkedRetryTimeout (core slot : Nat)
  -- transfer thread and streams (R221 to R237)
  | transferCopy (core : Nat)
  | transferMulticast (core : Nat)
  | transferSave (core : Nat)
  | transferRestore (core : Nat)
  | transferPiece (core ch : Nat)
  | transferFinish (core ch : Nat)
  | multicastPieceArrive (core id : Nat)
  -- tile (R238 to R258)
  | mmaStart (core slot : Nat)
  | mmaRetire (core : Nat)
  | ringWaitLimit (core slot : Nat)
  -- cells (R259 to R288)
  | viewExpired (core slot : Nat)
  | workItemDispatch (ctx : Nat)
  | repairDispatch (ctx cell stamp : Nat)
  | waveCommit (ctx : Nat)
  -- handles, remelt engine, prefix tree (R292 to R308)
  | sweep (tier die : Nat)
  | objectDestruction (ctx obj : Nat)
  | cellBufferDestruction (ctx cell stamp : Nat)
  -- combining (R332 to R338)
  | cmbrecvLimit (core slot : Nat)
  | combineMerge (p q : Nat)
  | combineArrive (id : Nat)
  | loopBypass (die loop : Nat)
  -- host port (R127, R339 to R341)
  | hostMemWrite (tier pa : Nat) (data : List Byte)
  | hostMemRead (tier pa len : Nat)
  | cxlLinkTraining (flit256 : Bool)
  | packageLinkTraining (port : Nat)
  -- management (R346 to R355)
  | configRecordWrite (record : List Nat)
  | engineReset (e : Engine)
  | coreReset (core : Nat)
  | blockReset (block : Nat)
  | dieReset (die : Nat)
  | packageReset
  | moduleReset
  | burnishing (key : Nat) (ok : Bool)
  | calibration (die loop : Nat)
  | coreRetirement (core : Nat) (lost : List Nat)
  | telemetrySample (type : Nat)
  | getVersion
  | getCapabilities
  | negotiateAlgorithms (algs : Nat)
  | getDigests
  | getCertificate (slot : Nat)
  | challenge (slot nonce : Nat)
  | getMeasurements (index : Nat)
  | firmwareUpdate (img : Image) (version : Nat) (signed : Bool)
  | imageActivation (img : Image)
  -- rudb (R217, R220, R291, R326, R345)
  /-- a thread as core and slot, and a context with a code address -/
  | breakpointStop (thread point : Nat × Nat)
  | cont (core slot : Nat)
  | step (core slot : Nat)
  | dir (ctx va : Nat)
  | trace (slice ctx va : Nat)
  | fe (ctx va : Nat)
  /-- a slice or target core, and a context -/
  | waiters (place : Nat × Nat) (va : Nat)
  /-- a context, and one of its cells for `sheet n` -/
  | sheet (what : Nat × Option Nat)
  | views (ctx : Nat)
  /-- a tier and a die, the count, and the `cont` list -/
  | remeltSweep (place : Nat × Nat) (n : Nat) (conts : List (Nat × Nat))
  | obj (ctx handle : Nat)
  | tap (ctx handle : Nat)
  | vreg (core slot : Nat) (v : LaneRange)
  | comb (core : Nat)
  -- further events (R171, R339, R349, R350)
  | queueResetRequest (ctx q : Nat)
  | correctedError (core : Nat)
  | hostSnoop (pa : Nat)
  | refresh
  deriving DecidableEq, Repr, Inhabited

/-- A bundle (R22, R27): one instruction alone, or a C-class head with an A-class tail. -/
inductive Bundle where
  | lone (i : Instr)
  | pair (c a : Instr)
  deriving DecidableEq, Repr, Inhabited

end Sys2Proof
end

