-- ==== Sys2Proof/WellFormed.lean ====
section
/-!
DEFINITION. The operand ranges that the encodings allow (R29 to R53): `Instr.wf`. Rows without an encoding have
ranges on the agents they name only.
-/
namespace Sys2Proof

/-- A signed value of `w + 1` bits. -/
def sfit (w : Nat) (i : Int) : Bool := decide (-(2 ^ w : Nat) ≤ i) && decide (i < (2 ^ w : Nat))

/-- A scalar register field, 7 bits (R32). -/
def xok (n : Nat) : Bool := decide (n < 128)

/-- A scalar source (R32). -/
def Src.xok (s : Src) : Bool := decide (s.r < 128)

/-- A vector register field, bits 6:4 zero (R32). -/
def vok (n : Nat) : Bool := decide (n < 16)

/-- A vector source (R32). -/
def Src.vok (s : Src) : Bool := decide (s.r < 16)

/-- An even vector register, the first of a pair (R95). -/
def vpair (n : Nat) : Bool := decide (n < 16) && decide (n % 2 = 0)

/-- The number of a format in ty, fa, fb and fd (R40, R50). -/
def Fmt.code : Fmt → Nat
  | .f64 => 1 | .f32 => 2 | .bf16 => 3 | .f16 => 4 | .code8 => 5 | .mx => 6 | .i8 => 7 | .n8 => 8
  | .i32 => 9 | .n32 => 10 | .i16 => 11 | .n16 => 12 | .i64 => 13 | .n64 => 14

/-- The format of a code (R40, R50). -/
def Fmt.ofCode : Nat → Option Fmt
  | 1 => some .f64 | 2 => some .f32 | 3 => some .bf16 | 4 => some .f16 | 5 => some .code8 | 6 => some .mx
  | 7 => some .i8 | 8 => some .n8 | 9 => some .i32 | 10 => some .n32 | 11 => some .i16 | 12 => some .n16
  | 13 => some .i64 | 14 => some .n64 | _ => none

/-- The float formats and code8: one side of a scalar conversion is one of these (R92). -/
def Fmt.floatLike : Fmt → Bool
  | .f64 | .f32 | .bf16 | .f16 | .code8 => true
  | _ => false

/-- The pairs that FCVT accepts (R92). -/
def fcvtPair (dst src : Fmt) : Bool :=
  dst != src && dst != .mx && src != .mx && (dst.floatLike || src.floatLike)

/-- The formats that VCVT pairs with f32 (R99). -/
def vcvtOther : Fmt → Bool
  | .bf16 | .f16 | .code8 | .i8 | .n8 | .i16 | .n16 | .i32 | .n32 => true
  | _ => false

/-- The pairs that VCVT accepts (R99). -/
def vcvtPair (dst src : Fmt) : Bool :=
  (dst == .f32 && vcvtOther src) || (src == .f32 && vcvtOther dst)

/-- The pair that VQUANT accepts (R101). -/
def vquantPair (dst src : Fmt) : Bool := dst == .mx && src == .f32

/-- The pair that VDEQ accepts (R102). -/
def vdeqPair (dst src : Fmt) : Bool := dst == .f32 && src == .mx

/-- A conversion's own formats are an accepted pair; var[9] is reserved in VDEQ (R52, R102). -/
def Conv.ok (pair : Fmt → Fmt → Bool) (ovfOk : Bool) : Conv → Bool
  | .lit dst src ovf _ _ => pair dst src && (ovfOk || !ovf)
  | .pend => true

/-- An unconsumed part of an atomic's mode fits (R117). -/
def AtomMode.ok (m : AtomMode) : Bool := sfit 10 m.off

/-- The format descriptor of FMT (R40): assigned codes, an assigned rounding, reserved bits zero. -/
def fmtLitOk (l : Nat) : Bool :=
  decide (l < 2 ^ 32) && decide (l / 2 ^ 28 % 16 ≤ 12) && decide (l / 2 ^ 24 % 16 ≤ 12) && decide (l / 2 ^ 20 % 16 ≤ 12)
    && decide (l / 2 ^ 16 % 8 ≤ 4) && decide (l % 2 ^ 15 = 0)

/-- The compute cores of the part (R13). -/
def coreCount : Nat := 8192

/-- A core and a slot exist (R13, R16). -/
def slotOk (c s : Nat) : Bool := decide (c < coreCount) && decide (s < 64)

/-- The relation .un belongs to float comparisons (R95). -/
def vcmpOk (t : VTy) (r : Rel) : Bool := t == .f32 || r != .un

/-- The types of CMBSUM (R333). -/
def cmbsumTy (t : Fmt) : Bool := t == .f32 || t == .i64 || t == .n64

/-- Mailbox numbers (R35). -/
def Csr.ok : Csr → Bool
  | .mb k => decide (k < 4)
  | _ => true

/-- Control registers that CSRS and CSRC may name (R134). -/
def Csr.setOk : Csr → Bool
  | .mb _ => false
  | _ => true

/-- The operands of a step lie in the ranges its encoding admits. -/
def Instr.wf : Instr → Bool
  | .add d a b | .sub d a b | .and d a b | .or d a b | .xor d a b | .andn d a b | .shl d a b | .shr d a b
  | .sra d a b | .rot d a b | .min d a b | .max d a b | .minn d a b | .maxn d a b | .slt d a b | .sltn d a b
  | .seq d a b | .sel d a b | .mul d a b | .mulh d a b | .mulhn d a b
  | .div d a b | .divn d a b | .rem d a b | .remn d a b => xok d && a.xok && b.xok
  | .popc d a | .clz d a | .mov d a => xok d && a.xok
  | .addsh d a b s => xok d && a.xok && b.xok && decide (1 ≤ s) && decide (s ≤ 4)
  | .addImm d a i | .andImm d a i | .orImm d a i | .xorImm d a i | .mulImm d a i => xok d && a.xok && sfit 9 i
  | .shlImm d a n | .shrImm d a n | .sraImm d a n | .rotImm d a n => xok d && a.xok && decide (n < 64)
  | .sltImm d a v | .seqImm d a v => xok d && a.xok && sfit 7 v
  | .sltnImm d a v => xok d && a.xok && decide (v < 256)
  | .movImm d i => xok d && sfit 17 i
  | .li d hi lit | .liN d hi lit => xok d && decide (hi < 2 ^ 16) && decide (lit < 2 ^ 32)
  | .liHi d hi => xok d && decide (hi < 2 ^ 16)
  | .fadd _ d a b | .fsub _ d a b | .fmul _ d a b | .ffma _ d a b | .fmin _ d a b | .fmax _ d a b
  | .fdiv _ d a b | .fcmp _ _ d a b => xok d && a.xok && b.xok
  | .fneg _ d a | .fabs _ d a | .fsqrt _ d a | .fclass _ d a => xok d && a.xok
  | .fcvt c d a => c.ok fcvtPair true && xok d && a.xok
  | .bfx _ d a pos len | .bfi d a pos len =>
    xok d && a.xok && decide (pos < 64) && decide (1 ≤ len) && decide (pos + len ≤ 64)
  | .vmin _ d a b | .vmax _ d a b | .vand d a b | .vor d a b | .vxor d a b | .vshl d a b | .vshrN32 d a b
  | .vshrI32 d a b | .vperm d a b => vok d && a.vok && b.vok
  | .vadd t d a b | .vsub t d a b | .vmul t d a b | .vfma t d a b => t != .n32 && vok d && a.vok && b.vok
  | .vmov d a | .vexp2 d a | .vlog2 d a | .vrcp d a | .vrsq d a => vok d && a.vok
  | .vabs t d a | .vneg t d a => t != .n32 && vok d && a.vok
  | .vcvt c d a => c.ok vcvtPair true && vok d && a.vok
  | .vcmp t r d a b => vcmpOk t r && vok d && a.vok && b.vok
  | .vsel d a b m => vok d && a.vok && b.vok && vok m
  | .vred _ _ d a => xok d && a.vok
  | .vscan _ _ d a => vok d && a.vok
  | .vbcast d a | .viota d a => vok d && a.xok
  | .vext _ d a l => xok d && a.vok && decide (l < 16)
  | .vins d a l => vok d && a.xok && decide (l < 16)
  | .vsort _ _ d a b => vpair d && a.vok && b.vok
  | .vquant c d a => c.ok vquantPair true && vok d && vpair a.r
  | .vdeq c d a => c.ok vdeqPair false && vpair d && a.vok
  | .rand d a b => xok d && a.xok && b.xok
  | .randV d a b => vok d && a.xok && b.xok
  | .fmt l => fmtLitOk l
  | .dtldMem d a n => xok d && a.xok && decide (n < 2)
  | .dtldPreset d _ n => xok d && decide (n < 2)
  | .tableReplacement c n => decide (c < coreCount) && decide (n < 2)
  | .beq d a o | .bne d a o | .blt d a o | .bge d a o | .bltn d a o | .bgen d a o => xok d && a.xok && sfit 9 o
  | .bz a o | .bnz a o | .jal a o => xok a && sfit 17 o
  | .jalr l a i => xok l && a.xok && sfit 9 i
  | .jmpf l i => xok l && decide (i < 4096)
  | .nop | .drain | .ifence | .fence _ | .bkpt | .eret | .idle | .yield | .exit | .wmsg => true
  | .ldI8 t b o | .ldN8 t b o | .ldI16 t b o | .ldN16 t b o | .ldI32 t b o | .ldN32 t b o | .ldI64 t b o
  | .stI8 t b o | .stI16 t b o | .stI32 t b o | .stI64 t b o | .ldaI64 t b o | .stlI64 t b o =>
    xok t && b.xok && sfit 9 o
  | .ldv t b o | .stv t b o | .rcfg t b o => vok t && b.xok && sfit 9 o
  | .ldmx d a b | .stmx d a b => vok d && a.xok && b.xok
  | .pfl a o | .pflW a o => a.xok && sfit 10 o
  | .aadd _ m d a b | .aand _ m d a b | .aor _ m d a b | .axor _ m d a b | .amin _ m d a b | .amax _ m d a b
  | .aswp _ m d a b | .acas _ m d a b | .afadd _ m d a b => m.ok && xok d && a.xok && b.xok
  | .csrr d r => xok d && r.ok
  | .csrw d r a => xok d && r.ok && xok a
  | .csrs d r a | .csrc d r a => xok d && r.setOk && xok a
  | .trap c => decide (c < 128)
  | .tsave d a b | .tload d a b | .launch d a b | .wback d a b | .linv d a b | .discard d a b | .lclr d a b
  | .binit d a b | .bexp d a b | .bwait d a b | .btest d a b => xok d && a.xok && b.xok
  | .cntrd _ d a | .cntwait _ d a | .cancel _ d a => xok d && a.xok
  | .tid d s => xok d && decide (s ≤ 4)
  | .ofetch n a => decide (n < 8) && a.xok
  | .ostat d n | .xwpt d n => xok d && decide (n < 8)
  | .send a b n s => a.xok && xok b && decide (1 ≤ n) && decide (n ≤ 8) && decide (s ≤ 62)
  | .pmsg d | .mstat d | .pginvCtx d | .cbatch d | .cviewNow d | .cviewFence d => xok d
  | .pgharv d a | .pgharvClr d a | .pginvPage d a | .pginvRevive d a | .pgwake d a | .pgqry d a | .barv d a
  | .bcpl d a | .xunsub d a | .cbind d a | .cseal d a | .hweak d a | .hdup d a | .hup d a
  | .pfxfind d a | .pfxins d a | .pfxdel d a => xok d && a.xok
  | .pgwakeFatal d a c => xok d && a.xok && decide (16 ≤ c) && decide (c ≤ 21)
  | .ldfe d a o | .ldf d a o | .feclr d a o | .festat d a o => xok d && a.xok && sfit 10 o
  | .stfe a b o | .stf a b o => a.xok && b.xok && sfit 10 o
  | .xsubs d a b ch => xok d && a.xok && b.xok && decide (ch < 8)
  | .sbind x a o => xok x && decide (x ≠ 0) && a.xok && sfit 10 o
  | .sunb x => xok x
  | .scfgCount d x b | .scfgSkip d x b => xok d && xok x && b.xok
  | .sstat d x => xok d && xok x
  | .mshape c _ | .accz c => decide (c < 8)
  | .mskr m a | .mskc m a => decide (m < 4) && a.xok
  | .rstat d q => xok d && decide (q < 16)
  | .rpopHead d q b | .rpopTail d q b => xok d && decide (q < 16) && b.xok
  | .tldt q a b => decide (q < 16) && a.xok && b.xok
  | .mma _ c qa qb _ | .mmaz _ c qa qb _ => decide (c < 8) && decide (qa < 16) && decide (qb < 16)
  | .accmv d c b => vok d && decide (c < 8) && b.xok
  | .accld c _ a | .accst c a => decide (c < 8) && a.xok
  | .cedit d a h | .taparm d a h | .taprel d a h | .tapkill d a h => xok d && a.xok && h.xok
  | .cunb d h | .tapoff d h => xok d && h.xok
  | .cst d a h o => xok d && a.xok && h.xok && sfit 10 o
  | .cld w a h o | .cwr w a h o => xok w && a.xok && h.xok && sfit 10 o
  | .cfin | .cvend => true
  | .cstat d h s => xok d && h.xok && (decide (s ≤ 3) || (decide (64 ≤ s) && decide (s < 128)))
  | .hnew d a b | .hnewKv d a b => xok d && a.xok && b.xok
  | .hdrop a => a.xok
  | .hldw d p a n => xok d && xok p && (decide (d ≠ p) || decide (d = 0)) && a.xok && decide (n < 512)
  | .hpri a b => a.xok && b.xok
  | .hinfo d a s => xok d && a.xok && decide (s ≤ 2)
  | .taprd d a h s => xok d && a.xok && h.xok && decide (s < 2) && (decide (s = 1) || a == ⟨0, false⟩)
  | .cmbmax _ d a b => xok d && a.xok && b.xok
  | .cmbsum t d a b => cmbsumTy t && xok d && a.xok && b.xok
  | .cmbrecv d s a => xok d && xok s && (decide (d ≠ s) || decide (d = 0)) && a.xok
  | .mailboxWaitLimit c s | .preemptionRequest c s | .cntwaitLimit c s | .threadStart c s | .bundleReissue c s
  | .waitlimitExpiry c s | .memoryWaitLimit c s | .withdraw c s | .parkedRetryTimeout c s | .mmaStart c s
  | .ringWaitLimit c s | .viewExpired c s | .cmbrecvLimit c s | .breakpointStop (c, s) _ | .cont c s | .step c s =>
    slotOk c s
  | .streamElementDeliver c s r => slotOk c s && xok r
  | .vreg c s v => slotOk c s && vok v.v && decide (v.l0 ≤ v.l1) && decide (v.l1 < 16)
  | .segmentLand c n | .segmentFail c n | .transferPiece c n | .transferFinish c n => decide (c < coreCount) && decide (n < 8)
  | .messageAccept c | .handlerStart c | .msglimit c | .coreGate c | .transferCopy c | .transferMulticast c
  | .transferSave c | .transferRestore c | .mmaRetire c | .coreReset c | .coreRetirement c _ | .comb c
  | .correctedError c => decide (c < coreCount)
  | .multicastPieceArrive c _ | .retry c _ => decide (c < coreCount)
  | .evictionNotice c _ _ | .invalidation c _ _ | .invalidationAck c _ _ | .recall c _ _ _ => decide (c < coreCount)
  | .stRegisterWrite v | .windowWrite _ v | .ssplitWrite v | .vgroupWrite v => decide (v < 2 ^ 64)
  | .mailboxWrite k v => decide (k < 4) && decide (v < 2 ^ 64)
  | .blockClockStep b _ | .blockReset b => decide (b < 128)
  | .dieReset d => decide (d < 8)
  | .calibration d l | .loopBypass d l => decide (d < 8) && decide (l < 136)
  | .packageLinkTraining p => decide (p < 4)
  | .replyArrive _ | .tailLineSnoop _ _ _ | .entryTake _ _ | .launchEntry _ _ | .sealEntry _ _ | .fenceEntry _ _
  | .signalEntry _ _ | .create _ | .suspend _ | .resume _ | .destroy _ | .contextFree _ | .accessAtWalkSlice _
  | .globalStoreAccept _ | .fabricAccessArrive _ | .fabricStoreAck _ | .readRequest _ | .fillArrive _
  | .registrationRequest _ | .registrationGrant _ | .forwardedLoad _ | .uncorrectableError _
  | .deadRangeDiscard _ _ _ | .workItemDispatch _ | .repairDispatch _ _ _ | .waveCommit _ | .sweep _ _
  | .objectDestruction _ _ | .cellBufferDestruction _ _ _ | .combineMerge _ _ | .combineArrive _
  | .hostMemWrite _ _ _ | .hostMemRead _ _ _ | .cxlLinkTraining _ | .configRecordWrite _ | .engineReset _
  | .packageReset | .moduleReset | .burnishing _ _ | .telemetrySample _ | .getVersion | .getCapabilities
  | .negotiateAlgorithms _ | .getDigests | .getCertificate _ | .challenge _ _ | .getMeasurements _
  | .firmwareUpdate _ _ _ | .imageActivation _ | .dir _ _ | .trace _ _ _ | .fe _ _ | .waiters _ _ | .sheet _
  | .views _ | .remeltSweep _ _ _ | .obj _ _ | .tap _ _ | .queueResetRequest _ _ | .hostSnoop _ | .refresh => true

end Sys2Proof
end

