-- ==== Sys2Proof/Decode.lean ====
section
/-!
DEFINITION. The decoder, total on every 64-bit bundle, and the encoder, both written from R26 to R53 and the
encoding paragraphs of the chapters. A word is first read into the instruction that its major opcode and its
function fields select (`candidate`); it is accepted when the fields that the instruction does not use hold zero,
that is, when the word is exactly the instruction's own encoding (R30, R31, R32, R41).
-/
namespace Sys2Proof

/-- Why a bundle is an illegal encoding (R41). -/
inductive DecodeError where
  /-- L = 0 and an A-class major in the head. -/
  | classInHead
  /-- L = 0 and bit 31 of the tail set. -/
  | tailBit31
  /-- L = 0 and a C-class major in the tail. -/
  | tailClass
  /-- L = 0 and a major that R28 requires to be lone. -/
  | loneMajor
  /-- An unassigned major, fn, sel, sub, kind, op, ty, md or part, or a value the instruction does not assign. -/
  | unassigned
  /-- A reserved field, a forbidden synchronised-read bit or a zero bit of an operand field is set. -/
  | reserved
  /-- Both slots write overlapping registers (R22). -/
  | overlap
  deriving DecidableEq, Repr, Inhabited

/-! The formats (R29). Each packer places the fields of one format in bits 30:0. -/

/-- RRR. -/
def wRRR (op d a b sa sb fn : Nat) : Nat :=
  op * 33554432 + d * 262144 + a * 2048 + b * 16 + sa * 8 + sb * 4 + fn

/-- RRI, and MEM with the same places. -/
def wRRI (op d a sa imm : Nat) : Nat := op * 33554432 + d * 262144 + a * 2048 + sa * 1024 + imm

/-- RI, and BR with the same places. -/
def wRI (op d imm : Nat) : Nat := op * 33554432 + d * 262144 + imm

/-- SYS. -/
def wSYS (op d a sel fn : Nat) : Nat := op * 33554432 + d * 262144 + a * 2048 + sel * 4 + fn

/-- The literal of an extended instruction (R49). -/
def wLit (sub ty md var : Nat) : Nat := sub * 4194304 + ty * 262144 + md * 16384 + var

/-! The fields of a word and of a literal. -/

def fOp (w : Nat) : Nat := w / 33554432 % 64
def fD (w : Nat) : Nat := w / 262144 % 128
def fA (w : Nat) : Nat := w / 2048 % 128
def fB (w : Nat) : Nat := w / 16 % 128
def fSa (w : Nat) : Nat := w / 8 % 2
def fSb (w : Nat) : Nat := w / 4 % 2
def fFn (w : Nat) : Nat := w % 4
def fImm (w : Nat) : Nat := w % 1024
def fSai (w : Nat) : Nat := w / 1024 % 2
def fImm18 (w : Nat) : Nat := w % 262144
def fSel (w : Nat) : Nat := w / 4 % 512
def lSub (l : Nat) : Nat := l / 4194304 % 1024
def lTy (l : Nat) : Nat := l / 262144 % 16
def lMd (l : Nat) : Nat := l / 16384 % 16
def lVar (l : Nat) : Nat := l % 16384

/-- A field of `w` bits read as a signed number (R33). -/
def sext (w n : Nat) : Int := if n < 2 ^ (w - 1) then (n : Int) else (n : Int) - (2 ^ w : Nat)

/-- A signed number as a field of `w` bits (R33). -/
def usext (w : Nat) (i : Int) : Nat := (i % (2 ^ w : Nat)).toNat

/-- The bit of a Bool. -/
def bit (b : Bool) : Nat := if b then 1 else 0

/-- The synchronised-read mark of a bit. -/
def mark (n : Nat) : Bool := decide (n = 1)

/-! The codes of the operand types (R40, R50, R51). -/

def VTy.code : VTy → Nat
  | .f32 => 2 | .i32 => 9 | .n32 => 10

def VTy.ofCode : Nat → Option VTy
  | 2 => some .f32 | 9 => some .i32 | 10 => some .n32 | _ => none

def FTy.code : FTy → Nat
  | .f64 => 1 | .f32 => 2

def FTy.ofCode : Nat → Option FTy
  | 1 => some .f64 | 2 => some .f32 | _ => none

/-- The fn bit of a scalar float (R51). -/
def FTy.fn : FTy → Nat
  | .f64 => 0 | .f32 => 1

def FTy.ofFn (n : Nat) : FTy := if n = 0 then .f64 else .f32

def ITy.code : ITy → Nat
  | .i32 => 9 | .n32 => 10 | .i64 => 13 | .n64 => 14

def ITy.ofCode : Nat → Option ITy
  | 9 => some .i32 | 10 => some .n32 | 13 => some .i64 | 14 => some .n64 | _ => none

def Rnd.code : Rnd → Nat
  | .rne => 0 | .rtz => 1 | .rdn => 2 | .rup => 3 | .rna => 4

def Rnd.ofCode : Nat → Option Rnd
  | 0 => some .rne | 1 => some .rtz | 2 => some .rdn | 3 => some .rup | 4 => some .rna | _ => none

def Rel.code : Rel → Nat
  | .eq => 0 | .ne => 1 | .lt => 2 | .le => 3 | .un => 4

def Rel.ofCode : Nat → Option Rel
  | 0 => some .eq | 1 => some .ne | 2 => some .lt | 3 => some .le | 4 => some .un | _ => none

def RedOp.code : RedOp → Nat
  | .sum => 0 | .max => 1 | .min => 2

def RedOp.ofCode : Nat → Option RedOp
  | 0 => some .sum | 1 => some .max | 2 => some .min | _ => none

def ScanOp.code : ScanOp → Nat
  | .sum => 0 | .sumx => 1 | .max => 2

def ScanOp.ofCode : Nat → Option ScanOp
  | 0 => some .sum | 1 => some .sumx | 2 => some .max | _ => none

def Scope.code : Scope → Nat
  | .thread => 0 | .core => 1 | .die => 2 | .package => 3 | .system => 4

def Scope.ofCode : Nat → Option Scope
  | 0 => some .thread | 1 => some .core | 2 => some .die | 3 => some .package | 4 => some .system | _ => none

def Level.code : Level → Nat
  | .thread => 0 | .launch => 1 | .wave => 2 | .phase => 3 | .job => 4

def Level.ofCode : Nat → Option Level
  | 0 => some .thread | 1 => some .launch | 2 => some .wave | 3 => some .phase | 4 => some .job | _ => none

def Preset.code : Preset → Nat
  | .e4m3 => 1 | .e5m2 => 2 | .int8 => 3 | .e3m4 => 4

def Preset.ofCode : Nat → Option Preset
  | 1 => some .e4m3 | 2 => some .e5m2 | 3 => some .int8 | 4 => some .e3m4 | _ => none

/-- The ty of a shape in MSHAPE and ACCLD (R240, R257). -/
def Shape.code : Shape → Nat
  | .f32 => 2 | .i32 => 9 | .f64 => 1

def Shape.ofCode : Nat → Option Shape
  | 2 => some .f32 | 9 => some .i32 | 1 => some .f64 | _ => none

def MForm.code : MForm → Nat
  | .pend => 0 | .f64 => 1 | .f32 => 2 | .bf16 => 3 | .f16 => 4 | .code8 => 5 | .mx => 6 | .i8 => 7

def MForm.ofCode : Nat → Option MForm
  | 0 => some .pend | 1 => some .f64 | 2 => some .f32 | 3 => some .bf16 | 4 => some .f16 | 5 => some .code8
  | 6 => some .mx | 7 => some .i8 | _ => none

/-- The number of a control register (R35). -/
def Csr.code : Csr → Nat
  | .st => 0 | .trapvec => 1 | .epc => 2 | .cause => 3 | .tval => 4 | .ssplit => 16 | .vgroup => 17
  | .waitlim => 32 | .msglim => 33 | .viewlim => 34 | .unack => 48 | .ctxid => 64 | .thid => 65 | .wbase => 66
  | .wlim => 67 | .dtsel => 80 | .prio => 81 | .cyc => 96 | .mb k => 112 + k

def Csr.ofCode (n : Nat) : Option Csr :=
  match n with
  | 0 => some .st | 1 => some .trapvec | 2 => some .epc | 3 => some .cause | 4 => some .tval | 16 => some .ssplit
  | 17 => some .vgroup | 32 => some .waitlim | 33 => some .msglim | 34 => some .viewlim | 48 => some .unack
  | 64 => some .ctxid | 65 => some .thid | 66 => some .wbase | 67 => some .wlim | 80 => some .dtsel
  | 81 => some .prio | 96 => some .cyc | 112 => some (.mb 0) | 113 => some (.mb 1) | 114 => some (.mb 2)
  | 115 => some (.mb 3) | _ => none

/-- The ty of a conversion (R52). -/
def Conv.ty : Conv → Nat
  | .lit dst _ _ _ _ => dst.code
  | .pend => 0

/-- The var of a conversion (R51, R52). -/
def Conv.var : Conv → Nat
  | .lit _ src ovf rnd dt => src.code * 1024 + bit ovf * 512 + rnd.code * 64 + bit dt * 32
  | .pend => 0

/-- The formats of a conversion's literal, where the instruction accepts them (R49, R52). -/
def Conv.ofLit (pair : Fmt → Fmt → Bool) (l : Nat) : Option Conv :=
  if lTy l = 0 then (if lVar l = 0 then some .pend else none)
  else do
    let dst ← Fmt.ofCode (lTy l)
    let src ← Fmt.ofCode (lVar l / 1024 % 16)
    let rnd ← Rnd.ofCode (lVar l / 64 % 8)
    if pair dst src then some (.lit dst src (mark (lVar l / 512 % 2)) rnd (mark (lVar l / 32 % 2))) else none

/-- md and var of an atomic (R117). -/
def AtomMode.md (m : AtomMode) : Nat := bit m.acq + 2 * bit m.rel
def AtomMode.var (m : AtomMode) : Nat := m.scope.code * 2048 + usext 11 m.off

/-- The mode of an atomic's literal (R117). -/
def AtomMode.ofLit (l : Nat) : Option AtomMode :=
  if lMd l < 4 then do
    let sc ← Scope.ofCode (lVar l / 2048 % 8)
    some ⟨mark (lMd l % 2), mark (lMd l / 2 % 2), sc, sext 11 (lVar l % 2048)⟩
  else none

/-! The encoder. -/

def eR3 (op fn d : Nat) (a b : Src) : Nat := wRRR op d a.r b.r (bit a.bang) (bit b.bang) fn
def eR2 (op fn d : Nat) (a : Src) (b : Nat) : Nat := wRRR op d a.r b (bit a.bang) 0 fn
def eI (op d : Nat) (a : Src) (imm : Nat) : Nat := wRRI op d a.r (bit a.bang) imm
def eSys (sel d : Nat) : Nat := wSYS 58 d 0 sel 0

/-- An extended A-space instruction: head word and literal. -/
def eXA (sub d : Nat) (a b : Src) (ty md var : Nat) : Option (Nat × Nat) := some (eR3 31 0 d a b, wLit sub ty md var)

/-- An extended C-space instruction: head word and literal. -/
def eXC (sub d : Nat) (a b : Src) (ty md var : Nat) : Option (Nat × Nat) := some (eR3 63 0 d a b, wLit sub ty md var)

/-- An operand field that is not used. -/
def unused : Src := ⟨0, false⟩

/-- A register field without a synchronised-read bit. -/
def plain (r : Nat) : Src := ⟨r, false⟩

/-- A word without a literal. -/
def eW (w : Nat) : Option (Nat × Nat) := some (w, 0)

/-- Bits 30:0 of the word of an instruction, and its literal; `none` for the rows that are events. -/
def encodeParts : Instr → Option (Nat × Nat)
  | .add d a b => eW (eR3 0 0 d a b) | .sub d a b => eW (eR3 0 1 d a b)
  | .and d a b => eW (eR3 0 2 d a b) | .or d a b => eW (eR3 0 3 d a b)
  | .xor d a b => eW (eR3 1 0 d a b) | .andn d a b => eW (eR3 1 1 d a b)
  | .shl d a b => eW (eR3 1 2 d a b) | .shr d a b => eW (eR3 1 3 d a b)
  | .sra d a b => eW (eR3 2 0 d a b) | .rot d a b => eW (eR3 2 1 d a b)
  | .min d a b => eW (eR3 2 2 d a b) | .max d a b => eW (eR3 2 3 d a b)
  | .minn d a b => eW (eR3 3 0 d a b) | .maxn d a b => eW (eR3 3 1 d a b)
  | .slt d a b => eW (eR3 3 2 d a b) | .sltn d a b => eW (eR3 3 3 d a b)
  | .seq d a b => eW (eR3 4 0 d a b) | .sel d a b => eW (eR3 4 1 d a b)
  | .mul d a b => eW (eR3 4 2 d a b) | .mulh d a b => eW (eR3 4 3 d a b)
  | .mulhn d a b => eW (eR3 5 0 d a b) | .popc d a => eW (eR2 5 1 d a 0)
  | .clz d a => eW (eR2 5 2 d a 0) | .mov d a => eW (eR2 5 3 d a 0)
  | .div d a b => eW (eR3 6 0 d a b) | .divn d a b => eW (eR3 6 1 d a b)
  | .rem d a b => eW (eR3 6 2 d a b) | .remn d a b => eW (eR3 6 3 d a b)
  | .addsh d a b s => eW (eR3 7 (s - 1) d a b)
  | .addImm d a i => eW (eI 8 d a (usext 10 i)) | .andImm d a i => eW (eI 9 d a (usext 10 i))
  | .orImm d a i => eW (eI 10 d a (usext 10 i)) | .xorImm d a i => eW (eI 11 d a (usext 10 i))
  | .mulImm d a i => eW (eI 12 d a (usext 10 i))
  | .shlImm d a n => eW (eI 13 d a n) | .shrImm d a n => eW (eI 13 d a (256 + n))
  | .sraImm d a n => eW (eI 13 d a (512 + n)) | .rotImm d a n => eW (eI 13 d a (768 + n))
  | .sltImm d a v => eW (eI 14 d a (usext 8 v)) | .sltnImm d a v => eW (eI 14 d a (256 + v))
  | .seqImm d a v => eW (eI 14 d a (512 + usext 8 v))
  | .movImm d i => eW (wRI 15 d (usext 18 i))
  | .li d hi lit => some (wRI 16 d hi, lit)
  | .liN d hi lit => some (wRI 16 d (65536 + hi), lit)
  | .liHi d hi => eW (wRI 16 d (131072 + hi))
  | .fadd t d a b => eW (eR3 17 t.fn d a b) | .fsub t d a b => eW (eR3 17 (2 + t.fn) d a b)
  | .fmul t d a b => eW (eR3 18 t.fn d a b) | .ffma t d a b => eW (eR3 18 (2 + t.fn) d a b)
  | .fmin t d a b => eW (eR3 19 t.fn d a b) | .fmax t d a b => eW (eR3 19 (2 + t.fn) d a b)
  | .fneg t d a => eW (eR2 20 t.fn d a 0) | .fabs t d a => eW (eR2 20 t.fn d a 1)
  | .fsqrt t d a => eW (eR2 20 t.fn d a 2) | .fclass t d a => eW (eR2 20 t.fn d a 3)
  | .fdiv t d a b => eXA 0 d a b t.code 0 0
  | .fcmp t r d a b => eXA 1 d a b t.code r.code 0
  | .fcvt c d a => eXA 2 d a unused c.ty 0 c.var
  | .bfx s d a pos len => eXA 3 d a unused (if s then 13 else 14) 0 (pos + (len - 1) * 64)
  | .bfi d a pos len => eXA 4 d a unused 0 0 (pos + (len - 1) * 64)
  | .vadd t d a b => eW (eR3 21 (if t == .f32 then 0 else 1) d a b)
  | .vsub t d a b => eW (eR3 21 (if t == .f32 then 2 else 3) d a b)
  | .vmul t d a b => eW (eR3 22 (if t == .f32 then 0 else 1) d a b)
  | .vfma t d a b => eW (eR3 22 (if t == .f32 then 2 else 3) d a b)
  | .vmin t d a b => eW (eR3 23 (match t with | .f32 => 0 | .i32 => 1 | .n32 => 2) d a b)
  | .vmax t d a b => eW (eR3 24 (match t with | .f32 => 0 | .i32 => 1 | .n32 => 2) d a b)
  | .vand d a b => eW (eR3 25 0 d a b) | .vor d a b => eW (eR3 25 1 d a b)
  | .vxor d a b => eW (eR3 25 2 d a b) | .vmov d a => eW (eR2 25 3 d a 0)
  | .vshl d a b => eW (eR3 26 0 d a b) | .vshrN32 d a b => eW (eR3 26 1 d a b)
  | .vshrI32 d a b => eW (eR3 26 2 d a b)
  | .vabs t d a => eW (eR2 26 3 d a (if t == .f32 then 0 else 1))
  | .vneg t d a => eW (eR2 26 3 d a (if t == .f32 then 16 else 17))
  | .vexp2 d a => eW (eR2 26 3 d a 32) | .vlog2 d a => eW (eR2 26 3 d a 48)
  | .vrcp d a => eW (eR2 26 3 d a 64) | .vrsq d a => eW (eR2 26 3 d a 80)
  | .vcvt c d a => eXA 32 d a unused c.ty 0 c.var
  | .vcmp t r d a b => eXA 33 d a b t.code r.code 0
  | .vsel d a b m => eXA 34 d a b 0 0 m
  | .vred t op d a => eXA 35 d a unused t.code op.code 0
  | .vscan t op d a => eXA 36 d a unused t.code op.code 0
  | .vperm d a b => eXA 37 d a b 0 0 0
  | .vbcast d a => eXA 38 d a unused 0 0 0
  | .vext t d a l => eXA 39 d a unused t.code 0 l
  | .vins d a l => eXA 40 d a unused 0 0 l
  | .vsort t desc d a b => eXA 41 d a b t.code (bit desc) 0
  | .viota d a => eXA 42 d a unused 0 0 0
  | .vquant c d a => eXA 43 d a unused c.ty 0 c.var
  | .vdeq c d a => eXA 44 d a unused c.ty 0 c.var
  | .rand d a b => eXA 128 d a b 0 0 0 | .randV d a b => eXA 129 d a b 0 0 0
  | .fmt l => some (wSYS 60 0 0 0 0, l)
  | .dtldMem d a n => eXC 38 d a unused 0 0 n
  | .dtldPreset d p n => eXC 38 d unused unused 0 p.code n
  | .beq d a o => eW (eI 47 d a (usext 10 o)) | .bne d a o => eW (eI 48 d a (usext 10 o))
  | .blt d a o => eW (eI 49 d a (usext 10 o)) | .bge d a o => eW (eI 50 d a (usext 10 o))
  | .bltn d a o => eW (eI 51 d a (usext 10 o)) | .bgen d a o => eW (eI 52 d a (usext 10 o))
  | .bz a o => eW (wRI 53 a (usext 18 o)) | .bnz a o => eW (wRI 54 a (usext 18 o))
  | .jal a o => eW (wRI 55 a (usext 18 o)) | .jalr l a i => eW (eI 56 l a (usext 10 i))
  | .jmpf l i => eW (wRI 61 l i)
  | .nop => eW (eSys 0 0)
  | .ldI8 t b o => eW (eI 32 t b (usext 10 o)) | .ldN8 t b o => eW (eI 33 t b (usext 10 o))
  | .ldI16 t b o => eW (eI 34 t b (usext 10 o)) | .ldN16 t b o => eW (eI 35 t b (usext 10 o))
  | .ldI32 t b o => eW (eI 36 t b (usext 10 o)) | .ldN32 t b o => eW (eI 37 t b (usext 10 o))
  | .ldI64 t b o => eW (eI 38 t b (usext 10 o))
  | .stI8 t b o => eW (eI 39 t b (usext 10 o)) | .stI16 t b o => eW (eI 40 t b (usext 10 o))
  | .stI32 t b o => eW (eI 41 t b (usext 10 o)) | .stI64 t b o => eW (eI 42 t b (usext 10 o))
  | .ldv t b o => eW (eI 43 t b (usext 10 o)) | .stv t b o => eW (eI 44 t b (usext 10 o))
  | .ldaI64 t b o => eW (eI 45 t b (usext 10 o)) | .stlI64 t b o => eW (eI 46 t b (usext 10 o))
  | .ldmx d a b => eXC 32 d a b 0 0 0 | .stmx d a b => eXC 33 d a b 0 0 0
  | .pfl a o => eXC 34 0 a unused 0 0 (usext 11 o) | .pflW a o => eXC 34 0 a unused 0 1 (usext 11 o)
  | .aadd t m d a b => eXC 64 d a b t.code m.md m.var | .aand t m d a b => eXC 65 d a b t.code m.md m.var
  | .aor t m d a b => eXC 66 d a b t.code m.md m.var | .axor t m d a b => eXC 67 d a b t.code m.md m.var
  | .amin t m d a b => eXC 68 d a b t.code m.md m.var | .amax t m d a b => eXC 69 d a b t.code m.md m.var
  | .aswp t m d a b => eXC 70 d a b t.code m.md m.var | .acas t m d a b => eXC 71 d a b t.code m.md m.var
  | .afadd t m d a b => eXC 72 d a b t.code m.md m.var
  | .drain => eW (eSys 1 0) | .ifence => eW (eSys 2 0) | .fence s => eW (eSys (16 + s.code) 0)
  | .csrr d r => eW (wSYS 59 d 0 r.code 0) | .csrw d r a => eW (wSYS 59 d a r.code 1)
  | .csrs d r a => eW (wSYS 59 d a r.code 2) | .csrc d r a => eW (wSYS 59 d a r.code 3)
  | .trap c => eW (eSys 35 c) | .bkpt => eW (eSys 34 0) | .eret => eW (eSys 33 0) | .idle => eW (eSys 32 0)
  | .tsave d a b => eXC 2 d a b 0 0 0 | .tload d a b => eXC 3 d a b 0 0 0
  | .yield => eW (eSys 48 0) | .exit => eW (eSys 49 0) | .wmsg => eW (eSys 50 0)
  | .launch d a b => eXC 224 d a b 0 0 0
  | .cntrd l d a => eXC 225 d a unused 0 l.code 0 | .cntwait l d a => eXC 226 d a unused 0 l.code 0
  | .cancel l d a => eXC 227 d a unused 0 l.code 0
  | .tid d s => eXC 228 d unused unused 0 0 s
  | .ofetch n a => eXC 0 0 a unused 0 0 n | .ostat d n => eXC 1 d unused unused 0 0 n
  | .send a b n s => eXC 192 0 a (plain b) 0 0 (s * 8 + (n - 1))
  | .pmsg d => eXC 193 d unused unused 0 0 0 | .mstat d => eXC 194 d unused unused 0 0 0
  | .wback d a b => eXC 128 d a b 0 0 0 | .linv d a b => eXC 129 d a b 0 0 0
  | .discard d a b => eXC 130 d a b 0 0 0 | .lclr d a b => eXC 131 d a b 0 0 0
  | .pgharv d a => eXC 320 d a unused 0 0 0 | .pgharvClr d a => eXC 320 d a unused 0 1 0
  | .pginvPage d a => eXC 321 d a unused 0 0 0 | .pginvCtx d => eXC 321 d unused unused 0 1 0
  | .pginvRevive d a => eXC 321 d a unused 0 2 0
  | .pgwake d a => eXC 322 d a unused 0 0 0 | .pgwakeFatal d a c => eXC 322 d a unused 0 1 c
  | .pgqry d a => eXC 323 d a unused 0 0 0
  | .ldfe d a o => eXC 96 d a unused 0 0 (usext 11 o) | .ldf d a o => eXC 97 d a unused 0 0 (usext 11 o)
  | .stfe a b o => eXC 98 0 a b 0 0 (usext 11 o) | .stf a b o => eXC 99 0 a b 0 0 (usext 11 o)
  | .feclr d a o => eXC 100 d a unused 0 0 (usext 11 o) | .festat d a o => eXC 101 d a unused 0 0 (usext 11 o)
  | .binit d a b => eXC 256 d a b 0 0 0 | .barv d a => eXC 257 d a unused 0 0 0
  | .bexp d a b => eXC 258 d a b 0 0 0 | .bwait d a b => eXC 259 d a b 0 0 0
  | .btest d a b => eXC 260 d a b 0 0 0 | .bcpl d a => eXC 261 d a unused 0 0 0
  | .xwpt d n => eXC 290 d unused unused 0 0 n
  | .xsubs d a b ch => eXC 288 d a b 0 0 ch | .xunsub d a => eXC 289 d a unused 0 0 0
  | .sbind x a o => eXC 160 x a unused 0 0 (usext 11 o) | .sunb x => eXC 161 x unused unused 0 0 0
  | .scfgCount d x b => eXC 162 d (plain x) b 0 0 0 | .scfgSkip d x b => eXC 162 d (plain x) b 0 1 0
  | .sstat d x => eXC 163 d (plain x) unused 0 0 0
  | .mshape c s => eXC 352 c unused unused s.code 0 0
  | .mskr m a => eW (eR2 28 2 m a 0) | .mskc m a => eW (eR2 28 3 m a 0)
  | .rcfg q b o => eW (eI 57 q b (usext 10 o))
  | .rstat d q => eXC 353 d (plain q) unused 0 0 0
  | .rpopHead d q b => eXC 354 d (plain q) b 0 0 0 | .rpopTail d q b => eXC 354 d (plain q) b 0 1 0
  | .tldt q a b => eXC 37 q a b 0 0 0
  | .mma f c qa qb k => eW (wRRR 27 (f.code * 8 + c) qa qb 0 0 (bit k))
  | .mmaz f c qa qb k => eW (wRRR 27 (f.code * 8 + c) qa qb 0 0 (2 + bit k))
  | .accmv d c b => eW (wRRR 28 d c b.r 0 (bit b.bang) 0) | .accz c => eW (wRRR 28 c 0 0 0 0 1)
  | .accld c s a => eXC 35 c a unused s.code 0 0 | .accst c a => eXC 36 c a unused 0 0 0
  | .cbind d a => eXC 384 d a unused 0 0 0 | .cedit d a h => eXC 385 d a h 0 0 0
  | .cunb d h => eXC 386 d unused h 0 0 0 | .cst d a h o => eXC 387 d a h 0 0 (usext 11 o)
  | .cbatch d => eXC 388 d unused unused 0 0 0 | .cseal d a => eXC 389 d a unused 0 0 0
  | .cld w a h o => eXC 390 w a h 0 0 (usext 11 o) | .cwr w a h o => eXC 391 w a h 0 0 (usext 11 o)
  | .cfin => eXC 392 0 unused unused 0 0 0
  | .cviewNow d => eXC 393 d unused unused 0 0 0 | .cviewFence d => eXC 393 d unused unused 0 1 0
  | .cvend => eXC 394 0 unused unused 0 0 0
  | .cstat d h s => eXC 395 d unused h 0 0 s
  | .hnew d a b => eXC 448 d a b 0 0 0 | .hnewKv d a b => eXC 448 d a b 0 1 0
  | .hweak d a => eXC 449 d a unused 0 0 0 | .hdup d a => eXC 450 d a unused 0 0 0
  | .hdrop a => eXC 451 0 a unused 0 0 0 | .hup d a => eXC 452 d a unused 0 0 0
  | .hldw d p a n => eXC 453 d a (plain p) 0 0 n | .hpri a b => eXC 454 0 a b 0 0 0
  | .hinfo d a s => eXC 455 d a unused 0 0 s
  | .pfxfind d a => eXC 456 d a unused 0 0 0 | .pfxins d a => eXC 457 d a unused 0 0 0
  | .pfxdel d a => eXC 458 d a unused 0 0 0
  | .taparm d a h => eXC 480 d a h 0 0 0 | .tapoff d h => eXC 481 d unused h 0 0 0
  | .taprel d a h => eXC 482 d a h 0 0 0 | .tapkill d a h => eXC 483 d a h 0 0 0
  | .taprd d a h s => eXC 484 d a h 0 0 s
  | .cmbmax t d a b => eXC 496 d a b t.code 0 0 | .cmbsum t d a b => eXC 497 d a b t.code 0 0
  | .cmbrecv d s a => eXC 498 d a (plain s) 0 0 0
  | .tableReplacement _ _ | .stRegisterWrite _ | .windowWrite _ _ | .ssplitWrite _ | .vgroupWrite _
  | .mailboxWrite _ _ | .mailboxWaitLimit _ _ | .preemptionRequest _ _ | .cntwaitLimit _ _ | .threadStart _ _
  | .replyArrive _ | .bundleReissue _ _ | .waitlimitExpiry _ _ | .streamElementDeliver _ _ _ | .segmentLand _ _
  | .segmentFail _ _ | .messageAccept _ | .handlerStart _ | .msglimit _ | .coreGate _ | .blockClockStep _ _
  | .tailLineSnoop _ _ _ | .entryTake _ _ | .launchEntry _ _ | .sealEntry _ _ | .fenceEntry _ _
  | .signalEntry _ _ | .create _ | .suspend _ | .resume _ | .destroy _ | .contextFree _ | .accessAtWalkSlice _
  | .globalStoreAccept _ | .fabricAccessArrive _ | .fabricStoreAck _ | .readRequest _ | .fillArrive _
  | .evictionNotice _ _ _ | .registrationRequest _ | .invalidation _ _ _ | .invalidationAck _ _ _
  | .registrationGrant _ | .recall _ _ _ _ | .forwardedLoad _ | .uncorrectableError _ | .deadRangeDiscard _ _ _
  | .memoryWaitLimit _ _ | .withdraw _ _ | .retry _ _ | .parkedRetryTimeout _ _ | .transferCopy _
  | .transferMulticast _ | .transferSave _ | .transferRestore _ | .transferPiece _ _ | .transferFinish _ _
  | .multicastPieceArrive _ _ | .mmaStart _ _ | .mmaRetire _ | .ringWaitLimit _ _ | .viewExpired _ _
  | .workItemDispatch _ | .repairDispatch _ _ _ | .waveCommit _ | .sweep _ _ | .objectDestruction _ _
  | .cellBufferDestruction _ _ _ | .cmbrecvLimit _ _ | .combineMerge _ _ | .combineArrive _ | .loopBypass _ _
  | .hostMemWrite _ _ _ | .hostMemRead _ _ _ | .cxlLinkTraining _ | .packageLinkTraining _
  | .configRecordWrite _ | .engineReset _ | .coreReset _ | .blockReset _ | .dieReset _ | .packageReset
  | .moduleReset | .burnishing _ _ | .calibration _ _ | .coreRetirement _ _ | .telemetrySample _ | .getVersion
  | .getCapabilities | .negotiateAlgorithms _ | .getDigests | .getCertificate _ | .challenge _ _
  | .getMeasurements _ | .firmwareUpdate _ _ _ | .imageActivation _ | .breakpointStop _ _ | .cont _ _ | .step _ _
  | .dir _ _ | .trace _ _ _ | .fe _ _ | .waiters _ _ | .sheet _ | .views _ | .remeltSweep _ _ _ | .obj _ _
  | .tap _ _ | .vreg _ _ _ | .comb _ | .queueResetRequest _ _ | .correctedError _ | .hostSnoop _ | .refresh => none

/-- The 64-bit value of the lone bundle of an instruction (R24, R26, R27). -/
def encode (i : Instr) : Option Nat := (encodeParts i).map fun p => p.2 * 4294967296 + 2147483648 + p.1

/-- The 64-bit value of a paired bundle (R26, R27). -/
def encodePair (c a : Instr) : Option Nat := do
  let h ← encodeParts c
  let t ← encodeParts a
  some (t.1 * 4294967296 + h.1)

/-- The value of a bundle. -/
def encodeBundle : Bundle → Option Nat
  | .lone i => encode i
  | .pair c a => encodePair c a

/-! The decoder. -/

/-- Sources of the RRR formats. -/
def srcA (w : Nat) : Src := ⟨fA w, mark (fSa w)⟩
def srcB (w : Nat) : Src := ⟨fB w, mark (fSb w)⟩
/-- Source of the RRI and MEM formats. -/
def srcI (w : Nat) : Src := ⟨fA w, mark (fSai w)⟩

/-- An RRR instruction with two register sources. -/
def c3 (f : Nat → Src → Src → Instr) (w : Nat) : Option Instr := some (f (fD w) (srcA w) (srcB w))
/-- An RRR instruction with one register source. -/
def c2 (f : Nat → Src → Instr) (w : Nat) : Option Instr := some (f (fD w) (srcA w))
/-- An RRI or MEM instruction with a signed 10-bit immediate or offset. -/
def cI (f : Nat → Src → Int → Instr) (w : Nat) : Option Instr := some (f (fD w) (srcI w) (sext 10 (fImm w)))
/-- A BR instruction with a signed 18-bit offset. -/
def cBr (f : Nat → Int → Instr) (w : Nat) : Option Instr := some (f (fD w) (sext 18 (fImm18 w)))

/-- The four functions of an RRR major. -/
def byFn (w : Nat) (f0 f1 f2 f3 : Option Instr) : Option Instr :=
  match fFn w with
  | 0 => f0 | 1 => f1 | 2 => f2 | _ => f3

/-- Majors 0x00 to 0x0F (R36). -/
def candInt (w : Nat) : Option Instr :=
  match fOp w with
  | 0 => byFn w (c3 .add w) (c3 .sub w) (c3 .and w) (c3 .or w)
  | 1 => byFn w (c3 .xor w) (c3 .andn w) (c3 .shl w) (c3 .shr w)
  | 2 => byFn w (c3 .sra w) (c3 .rot w) (c3 .min w) (c3 .max w)
  | 3 => byFn w (c3 .minn w) (c3 .maxn w) (c3 .slt w) (c3 .sltn w)
  | 4 => byFn w (c3 .seq w) (c3 .sel w) (c3 .mul w) (c3 .mulh w)
  | 5 => byFn w (c3 .mulhn w) (c2 .popc w) (c2 .clz w) (c2 .mov w)
  | 6 => byFn w (c3 .div w) (c3 .divn w) (c3 .rem w) (c3 .remn w)
  | 7 => some (.addsh (fD w) (srcA w) (srcB w) (fFn w + 1))
  | 8 => cI .addImm w
  | 9 => cI .andImm w
  | 10 => cI .orImm w
  | 11 => cI .xorImm w
  | 12 => cI .mulImm w
  | 13 =>
    match fImm w / 256 with
    | 0 => some (.shlImm (fD w) (srcI w) (fImm w % 64))
    | 1 => some (.shrImm (fD w) (srcI w) (fImm w % 64))
    | 2 => some (.sraImm (fD w) (srcI w) (fImm w % 64))
    | _ => some (.rotImm (fD w) (srcI w) (fImm w % 64))
  | 14 =>
    match fImm w / 256 with
    | 0 => some (.sltImm (fD w) (srcI w) (sext 8 (fImm w % 256)))
    | 1 => some (.sltnImm (fD w) (srcI w) (fImm w % 256))
    | 2 => some (.seqImm (fD w) (srcI w) (sext 8 (fImm w % 256)))
    | _ => none
  | 15 => some (.movImm (fD w) (sext 18 (fImm18 w)))
  | _ => none

/-- Major 0x10 (R39). -/
def candLi (w l : Nat) : Option Instr :=
  match fImm18 w / 65536 with
  | 0 => some (.li (fD w) (w % 65536) l)
  | 1 => some (.liN (fD w) (w % 65536) l)
  | 2 => some (.liHi (fD w) (w % 65536))
  | _ => none

/-- The unary vector group of major 0x1A (R36 note 5). -/
def candVun (w : Nat) : Option Instr :=
  match fB w with
  | 0 => some (.vabs .f32 (fD w) (srcA w)) | 1 => some (.vabs .i32 (fD w) (srcA w))
  | 16 => some (.vneg .f32 (fD w) (srcA w)) | 17 => some (.vneg .i32 (fD w) (srcA w))
  | 32 => c2 .vexp2 w | 48 => c2 .vlog2 w | 64 => c2 .vrcp w | 80 => c2 .vrsq w
  | _ => none

/-- Major 0x1B: the matrix product (R36). -/
def candMma (w : Nat) : Option Instr := do
  let f ← MForm.ofCode (fD w / 8)
  if fFn w < 2 then some (.mma f (fD w % 8) (fA w) (fB w) (mark (fFn w % 2)))
  else some (.mmaz f (fD w % 8) (fA w) (fB w) (mark (fFn w % 2)))

/-- Majors 0x11 to 0x1C (R36). -/
def candFv (w : Nat) : Option Instr :=
  match fOp w with
  | 17 => if fFn w < 2 then c3 (.fadd (.ofFn (fFn w % 2))) w else c3 (.fsub (.ofFn (fFn w % 2))) w
  | 18 => if fFn w < 2 then c3 (.fmul (.ofFn (fFn w % 2))) w else c3 (.ffma (.ofFn (fFn w % 2))) w
  | 19 => if fFn w < 2 then c3 (.fmin (.ofFn (fFn w % 2))) w else c3 (.fmax (.ofFn (fFn w % 2))) w
  | 20 =>
    if fFn w < 2 then
      match fB w with
      | 0 => c2 (.fneg (.ofFn (fFn w))) w | 1 => c2 (.fabs (.ofFn (fFn w))) w
      | 2 => c2 (.fsqrt (.ofFn (fFn w))) w | 3 => c2 (.fclass (.ofFn (fFn w))) w
      | _ => none
    else none
  | 21 => byFn w (c3 (.vadd .f32) w) (c3 (.vadd .i32) w) (c3 (.vsub .f32) w) (c3 (.vsub .i32) w)
  | 22 => byFn w (c3 (.vmul .f32) w) (c3 (.vmul .i32) w) (c3 (.vfma .f32) w) (c3 (.vfma .i32) w)
  | 23 => byFn w (c3 (.vmin .f32) w) (c3 (.vmin .i32) w) (c3 (.vmin .n32) w) none
  | 24 => byFn w (c3 (.vmax .f32) w) (c3 (.vmax .i32) w) (c3 (.vmax .n32) w) none
  | 25 => byFn w (c3 .vand w) (c3 .vor w) (c3 .vxor w) (c2 .vmov w)
  | 26 => byFn w (c3 .vshl w) (c3 .vshrN32 w) (c3 .vshrI32 w) (candVun w)
  | 27 => candMma w
  | 28 => byFn w (some (.accmv (fD w) (fA w) (srcB w))) (some (.accz (fD w))) (c2 .mskr w) (c2 .mskc w)
  | _ => none

/-- Major 0x1F: the extended A space, by sub (R38, R48). -/
def candXA (w l : Nat) : Option Instr :=
  let d := fD w
  let a := srcA w
  let b := srcB w
  match lSub l with
  | 0 => (FTy.ofCode (lTy l)).map (.fdiv · d a b)
  | 1 => do .some (.fcmp (← FTy.ofCode (lTy l)) (← Rel.ofCode (lMd l)) d a b)
  | 2 => (Conv.ofLit fcvtPair l).map (.fcvt · d a)
  | 3 =>
    if lVar l % 64 + (lVar l / 64 % 64 + 1) ≤ 64 then
      match lTy l with
      | 13 => some (.bfx true d a (lVar l % 64) (lVar l / 64 % 64 + 1))
      | 14 => some (.bfx false d a (lVar l % 64) (lVar l / 64 % 64 + 1))
      | _ => none
    else none
  | 4 =>
    if lVar l % 64 + (lVar l / 64 % 64 + 1) ≤ 64 then some (.bfi d a (lVar l % 64) (lVar l / 64 % 64 + 1)) else none
  | 32 => (Conv.ofLit vcvtPair l).map (.vcvt · d a)
  | 33 => do
    let t ← VTy.ofCode (lTy l)
    let r ← Rel.ofCode (lMd l)
    if vcmpOk t r then some (.vcmp t r d a b) else none
  | 34 => some (.vsel d a b (lVar l % 16))
  | 35 => do .some (.vred (← VTy.ofCode (lTy l)) (← RedOp.ofCode (lMd l)) d a)
  | 36 => do .some (.vscan (← VTy.ofCode (lTy l)) (← ScanOp.ofCode (lMd l)) d a)
  | 37 => some (.vperm d a b)
  | 38 => some (.vbcast d a)
  | 39 => (VTy.ofCode (lTy l)).map (.vext · d a (lVar l % 16))
  | 40 => some (.vins d a (lVar l % 16))
  | 41 => do
    let t ← VTy.ofCode (lTy l)
    if lMd l < 2 then some (.vsort t (mark (lMd l)) d a b) else none
  | 42 => some (.viota d a)
  | 43 => (Conv.ofLit vquantPair l).map (.vquant · d a)
  | 44 => (Conv.ofLit vdeqPair l).map (.vdeq · d a)
  | 128 => some (.rand d a b)
  | 129 => some (.randV d a b)
  | _ => none

/-- The control group of major 0x3A (R37). -/
def candCtl (w : Nat) : Option Instr :=
  match fSel w with
  | 0 => some .nop | 1 => some .drain | 2 => some .ifence
  | 16 => some (.fence .thread) | 17 => some (.fence .core) | 18 => some (.fence .die)
  | 19 => some (.fence .package) | 20 => some (.fence .system)
  | 32 => some .idle | 33 => some .eret | 34 => some .bkpt | 35 => some (.trap (fD w))
  | 48 => some .yield | 49 => some .exit | 50 => some .wmsg
  | _ => none

/-- Major 0x3B (R37, R134). -/
def candCsr (w : Nat) : Option Instr := do
  let r ← Csr.ofCode (fSel w)
  match fFn w with
  | 0 => some (.csrr (fD w) r)
  | 1 => some (.csrw (fD w) r (fA w))
  | 2 => some (.csrs (fD w) r (fA w))
  | _ => some (.csrc (fD w) r (fA w))

/-- Majors 0x20 to 0x3D but the lone ones (R37). -/
def candC (w : Nat) : Option Instr :=
  match fOp w with
  | 32 => cI .ldI8 w | 33 => cI .ldN8 w | 34 => cI .ldI16 w | 35 => cI .ldN16 w | 36 => cI .ldI32 w
  | 37 => cI .ldN32 w | 38 => cI .ldI64 w | 39 => cI .stI8 w | 40 => cI .stI16 w | 41 => cI .stI32 w
  | 42 => cI .stI64 w | 43 => cI .ldv w | 44 => cI .stv w | 45 => cI .ldaI64 w | 46 => cI .stlI64 w
  | 47 => cI .beq w | 48 => cI .bne w | 49 => cI .blt w | 50 => cI .bge w | 51 => cI .bltn w | 52 => cI .bgen w
  | 53 => cBr .bz w | 54 => cBr .bnz w | 55 => cBr .jal w | 56 => cI .jalr w | 57 => cI .rcfg w
  | 58 => candCtl w
  | 59 => candCsr w
  | 61 => some (.jmpf (fD w) (fImm18 w % 4096))
  | _ => none

/-- Major 0x3F, subs 0x000 to 0x0FF (R38, R48). -/
def candXC1 (w l : Nat) : Option Instr :=
  let d := fD w
  let a := srcA w
  let b := srcB w
  match lSub l with
  | 0 => some (.ofetch (lVar l % 8) a)
  | 1 => some (.ostat d (lVar l % 8))
  | 2 => some (.tsave d a b)
  | 3 => some (.tload d a b)
  | 32 => some (.ldmx d a b)
  | 33 => some (.stmx d a b)
  | 34 =>
    match lMd l with
    | 0 => some (.pfl a (sext 11 (lVar l % 2048)))
    | 1 => some (.pflW a (sext 11 (lVar l % 2048)))
    | _ => none
  | 35 => (Shape.ofCode (lTy l)).map (.accld d · a)
  | 36 => some (.accst d a)
  | 37 => some (.tldt d a b)
  | 38 => if lMd l = 0 then some (.dtldMem d a (lVar l % 2)) else (Preset.ofCode (lMd l)).map (.dtldPreset d · (lVar l % 2))
  | 64 => do .some (.aadd (← ITy.ofCode (lTy l)) (← AtomMode.ofLit l) d a b)
  | 65 => do .some (.aand (← ITy.ofCode (lTy l)) (← AtomMode.ofLit l) d a b)
  | 66 => do .some (.aor (← ITy.ofCode (lTy l)) (← AtomMode.ofLit l) d a b)
  | 67 => do .some (.axor (← ITy.ofCode (lTy l)) (← AtomMode.ofLit l) d a b)
  | 68 => do .some (.amin (← ITy.ofCode (lTy l)) (← AtomMode.ofLit l) d a b)
  | 69 => do .some (.amax (← ITy.ofCode (lTy l)) (← AtomMode.ofLit l) d a b)
  | 70 => do .some (.aswp (← ITy.ofCode (lTy l)) (← AtomMode.ofLit l) d a b)
  | 71 => do .some (.acas (← ITy.ofCode (lTy l)) (← AtomMode.ofLit l) d a b)
  | 72 => do .some (.afadd (← FTy.ofCode (lTy l)) (← AtomMode.ofLit l) d a b)
  | 96 => some (.ldfe d a (sext 11 (lVar l % 2048)))
  | 97 => some (.ldf d a (sext 11 (lVar l % 2048)))
  | 98 => some (.stfe a b (sext 11 (lVar l % 2048)))
  | 99 => some (.stf a b (sext 11 (lVar l % 2048)))
  | 100 => some (.feclr d a (sext 11 (lVar l % 2048)))
  | 101 => some (.festat d a (sext 11 (lVar l % 2048)))
  | 128 => some (.wback d a b)
  | 129 => some (.linv d a b)
  | 130 => some (.discard d a b)
  | 131 => some (.lclr d a b)
  | 160 => if d = 0 then none else some (.sbind d a (sext 11 (lVar l % 2048)))
  | 161 => some (.sunb d)
  | 162 =>
    match lMd l with
    | 0 => some (.scfgCount d a.r b)
    | 1 => some (.scfgSkip d a.r b)
    | _ => none
  | 163 => some (.sstat d a.r)
  | 192 => if lVar l / 8 % 64 ≤ 62 then some (.send a b.r (lVar l % 8 + 1) (lVar l / 8 % 64)) else none
  | 193 => some (.pmsg d)
  | 194 => some (.mstat d)
  | 224 => some (.launch d a b)
  | 225 => (Level.ofCode (lMd l)).map (.cntrd · d a)
  | 226 => (Level.ofCode (lMd l)).map (.cntwait · d a)
  | 227 => (Level.ofCode (lMd l)).map (.cancel · d a)
  | 228 => if lVar l % 8 ≤ 4 then some (.tid d (lVar l % 8)) else none
  | _ => none

/-- Major 0x3F, subs 0x100 to 0x1FF (R38, R48). -/
def candXC2 (w l : Nat) : Option Instr :=
  let d := fD w
  let a := srcA w
  let b := srcB w
  match lSub l with
  | 256 => some (.binit d a b)
  | 257 => some (.barv d a)
  | 258 => some (.bexp d a b)
  | 259 => some (.bwait d a b)
  | 260 => some (.btest d a b)
  | 261 => some (.bcpl d a)
  | 288 => some (.xsubs d a b (lVar l % 8))
  | 289 => some (.xunsub d a)
  | 290 => some (.xwpt d (lVar l % 8))
  | 320 =>
    match lMd l with
    | 0 => some (.pgharv d a)
    | 1 => some (.pgharvClr d a)
    | _ => none
  | 321 =>
    match lMd l with
    | 0 => some (.pginvPage d a)
    | 1 => some (.pginvCtx d)
    | 2 => some (.pginvRevive d a)
    | _ => none
  | 322 =>
    match lMd l with
    | 0 => some (.pgwake d a)
    | 1 => if 16 ≤ lVar l % 256 ∧ lVar l % 256 ≤ 21 then some (.pgwakeFatal d a (lVar l % 256)) else none
    | _ => none
  | 323 => some (.pgqry d a)
  | 352 => (Shape.ofCode (lTy l)).map (.mshape d ·)
  | 353 => some (.rstat d a.r)
  | 354 =>
    match lMd l with
    | 0 => some (.rpopHead d a.r b)
    | 1 => some (.rpopTail d a.r b)
    | _ => none
  | 384 => some (.cbind d a)
  | 385 => some (.cedit d a b)
  | 386 => some (.cunb d b)
  | 387 => some (.cst d a b (sext 11 (lVar l % 2048)))
  | 388 => some (.cbatch d)
  | 389 => some (.cseal d a)
  | 390 => some (.cld d a b (sext 11 (lVar l % 2048)))
  | 391 => some (.cwr d a b (sext 11 (lVar l % 2048)))
  | 392 => some .cfin
  | 393 =>
    match lMd l with
    | 0 => some (.cviewNow d)
    | 1 => some (.cviewFence d)
    | _ => none
  | 394 => some .cvend
  | 395 => if lVar l % 128 ≤ 3 ∨ 64 ≤ lVar l % 128 then some (.cstat d b (lVar l % 128)) else none
  | 448 =>
    match lMd l with
    | 0 => some (.hnew d a b)
    | 1 => some (.hnewKv d a b)
    | _ => none
  | 449 => some (.hweak d a)
  | 450 => some (.hdup d a)
  | 451 => some (.hdrop a)
  | 452 => some (.hup d a)
  | 453 => some (.hldw d b.r a (lVar l % 512))
  | 454 => some (.hpri a b)
  | 455 => if lVar l % 4 ≤ 2 then some (.hinfo d a (lVar l % 4)) else none
  | 456 => some (.pfxfind d a)
  | 457 => some (.pfxins d a)
  | 458 => some (.pfxdel d a)
  | 480 => some (.taparm d a b)
  | 481 => some (.tapoff d b)
  | 482 => some (.taprel d a b)
  | 483 => some (.tapkill d a b)
  | 484 => some (.taprd d a b (lVar l % 2))
  | 496 => (VTy.ofCode (lTy l)).map (.cmbmax · d a b)
  | 497 => do
    let t ← Fmt.ofCode (lTy l)
    if cmbsumTy t then some (.cmbsum t d a b) else none
  | 498 => some (.cmbrecv d b.r a)
  | _ => none

/-- The instruction that the major opcode and the function fields of a word and its literal select (R36 to R38). -/
def candidate (w l : Nat) : Option Instr :=
  if fOp w < 16 then candInt w
  else if fOp w = 16 then candLi w l
  else if fOp w < 31 then candFv w
  else if fOp w = 31 then candXA w l
  else if fOp w = 60 then some (.fmt l)
  else if fOp w < 63 then candC w
  else if lSub l < 256 then candXC1 w l
  else candXC2 w l

/-- Decode bits 30:0 of a word with its literal (R41): the selected instruction, when the word and the literal are
exactly its encoding and its operands lie in the assigned ranges. -/
def decodeWord (w l : Nat) : Except DecodeError Instr :=
  match candidate w l with
  | none => .error .unassigned
  | some i =>
    if encodeParts i ≠ some (w, l) then .error .reserved
    else if i.wf then .ok i else .error .unassigned

/-- The majors that always take a lone bundle (R28). -/
def loneMajor (m : Nat) : Bool := m == 16 || m == 31 || m == 60 || m == 63

/-- The scalar registers, but x0, that a vector register covers (R22, R78). -/
def vregs (k : Nat) : List Nat := ((List.range 8).map (8 * k + ·)).filter (· != 0)

/-- A scalar destination; a write to x0 is discarded (R22). -/
def xreg (d : Nat) : List Nat := if d = 0 then [] else [d]

/-- The window registers that an instruction writes as a destination (R22), in either slot of a bundle. -/
def Instr.writes : Instr → List Nat
  | .add d _ _ | .sub d _ _ | .and d _ _ | .or d _ _ | .xor d _ _ | .andn d _ _ | .shl d _ _ | .shr d _ _
  | .sra d _ _ | .rot d _ _ | .min d _ _ | .max d _ _ | .minn d _ _ | .maxn d _ _ | .slt d _ _ | .sltn d _ _
  | .seq d _ _ | .sel d _ _ | .mul d _ _ | .mulh d _ _ | .mulhn d _ _ | .popc d _ | .clz d _ | .mov d _
  | .div d _ _ | .divn d _ _ | .rem d _ _ | .remn d _ _ | .addsh d _ _ _ | .addImm d _ _ | .andImm d _ _
  | .orImm d _ _ | .xorImm d _ _ | .mulImm d _ _ | .shlImm d _ _ | .shrImm d _ _ | .sraImm d _ _ | .rotImm d _ _
  | .sltImm d _ _ | .sltnImm d _ _ | .seqImm d _ _ | .movImm d _ | .li d _ _ | .liN d _ _ | .liHi d _
  | .fadd _ d _ _ | .fsub _ d _ _ | .fmul _ d _ _ | .ffma _ d _ _ | .fmin _ d _ _ | .fmax _ d _ _ | .fneg _ d _
  | .fabs _ d _ | .fsqrt _ d _ | .fclass _ d _ | .fdiv _ d _ _ | .fcmp _ _ d _ _ | .fcvt _ d _ | .bfx _ d _ _ _
  | .bfi d _ _ _ | .vred _ _ d _ | .vext _ d _ _ | .rand d _ _ | .dtldMem d _ _ | .dtldPreset d _ _
  | .jal d _ | .jalr d _ _ | .jmpf d _ | .ldI8 d _ _ | .ldN8 d _ _ | .ldI16 d _ _ | .ldN16 d _ _ | .ldI32 d _ _
  | .ldN32 d _ _ | .ldI64 d _ _ | .ldaI64 d _ _ | .aadd _ _ d _ _ | .aand _ _ d _ _ | .aor _ _ d _ _
  | .axor _ _ d _ _ | .amin _ _ d _ _ | .amax _ _ d _ _ | .aswp _ _ d _ _ | .acas _ _ d _ _ | .afadd _ _ d _ _
  | .csrr d _ | .csrw d _ _ | .csrs d _ _ | .csrc d _ _ | .tsave d _ _ | .tload d _ _ | .launch d _ _
  | .cntrd _ d _ | .cntwait _ d _ | .cancel _ d _ | .tid d _ | .ostat d _ | .pmsg d | .mstat d | .wback d _ _
  | .linv d _ _ | .discard d _ _ | .lclr d _ _ | .pgharv d _ | .pgharvClr d _ | .pginvPage d _ | .pginvCtx d
  | .pginvRevive d _ | .pgwake d _ | .pgwakeFatal d _ _ | .pgqry d _ | .ldfe d _ _ | .ldf d _ _ | .feclr d _ _
  | .festat d _ _ | .binit d _ _ | .barv d _ | .bexp d _ _ | .bwait d _ _ | .btest d _ _ | .bcpl d _ | .xwpt d _
  | .xsubs d _ _ _ | .xunsub d _ | .scfgCount d _ _ | .scfgSkip d _ _ | .sstat d _ | .rstat d _ | .rpopHead d _ _
  | .rpopTail d _ _ | .cbind d _ | .cedit d _ _ | .cunb d _ | .cst d _ _ _ | .cbatch d | .cseal d _ | .cviewNow d
  | .cviewFence d | .cstat d _ _ | .hnew d _ _ | .hnewKv d _ _ | .hweak d _ | .hdup d _ | .hup d _ | .hinfo d _ _
  | .pfxfind d _ | .pfxins d _ | .pfxdel d _ | .taparm d _ _ | .tapoff d _ | .taprel d _ _ | .tapkill d _ _
  | .taprd d _ _ _ | .cmbmax _ d _ _ | .cmbsum _ d _ _ => xreg d
  | .hldw d p _ _ | .cmbrecv d p _ => xreg d ++ xreg p
  | .vadd _ d _ _ | .vsub _ d _ _ | .vmul _ d _ _ | .vfma _ d _ _ | .vmin _ d _ _ | .vmax _ d _ _ | .vand d _ _
  | .vor d _ _ | .vxor d _ _ | .vmov d _ | .vshl d _ _ | .vshrN32 d _ _ | .vshrI32 d _ _ | .vabs _ d _ | .vneg _ d _
  | .vexp2 d _ | .vlog2 d _ | .vrcp d _ | .vrsq d _ | .vcvt _ d _ | .vcmp _ _ d _ _ | .vsel d _ _ _
  | .vscan _ _ d _ | .vperm d _ _ | .vbcast d _ | .vins d _ _ | .viota d _ | .vquant _ d _ | .randV d _ _
  | .ldv d _ _ | .ldmx d _ _ | .accmv d _ _ => vregs d
  | .vsort _ _ d _ _ | .vdeq _ d _ => vregs d ++ vregs (d + 1)
  | _ => []

/-- Both slots of a pair write a register (R22, R41). -/
def overlapping (c a : Instr) : Bool := c.writes.any (fun r => a.writes.contains r)

/-- Decode a bundle (R26, R27, R28, R41). -/
def decodeBundle (n : Nat) : Except DecodeError Bundle :=
  let h := n % 4294967296
  let t := n / 4294967296 % 4294967296
  if 2147483648 ≤ h then
    match decodeWord (h - 2147483648) t with
    | .error e => .error e
    | .ok i => .ok (.lone i)
  else if fOp h < 32 then .error (if loneMajor (fOp h) then .loneMajor else .classInHead)
  else if 2147483648 ≤ t then .error .tailBit31
  else if 32 ≤ fOp t then .error .tailClass
  else if loneMajor (fOp h) || loneMajor (fOp t) then .error .loneMajor
  else
    match decodeWord h 0, decodeWord t 0 with
    | .ok c, .ok a => if overlapping c a then .error .overlap else .ok (.pair c a)
    | .error e, _ => .error e
    | _, .error e => .error e

/-- A word of the opcode table that is no lone head belongs to a tail: A-class major, bit 31 clear (R26, R27). -/
def tailWord (w : Nat) : Bool := decide (w < 2147483648) && decide (fOp w < 32)

/-- The bundle around a word of the opcode table: a word with bit 31 set is a lone head, and its literal is the bits
above it; an A-class word with bit 31 clear is the tail of a pair headed by NOP (0x7400_0000); a C-class word with
bit 31 clear is the head of a pair whose tail is the word of zeros, `ADD x0, x0, x0` (R26, R27, R83). DEDUCED (log 10, safe). -/
def tableBundle (w : Nat) : Nat := if tailWord w then w * 4294967296 + 1946157056 else w

/-- The bits of a word of the opcode table: `nbits` of them, the bits above are zero. -/
def tableBits (nbits w : Nat) : Nat := w % 2 ^ nbits % 18446744073709551616

/-- The instruction that the decoder reads from a word of the opcode table. -/
def decodeTableWord (nbits w : Nat) : Option Instr :=
  match decodeBundle (tableBundle (tableBits nbits w)) with
  | .ok (.lone i) => some i
  | .ok (.pair c a) => some (if tailWord (tableBits nbits w) then a else c)
  | .error _ => none

end Sys2Proof
end

