-- ==== Sys2Proof/Config.lean ====
section
/-!
DEFINITION. What an implementation fixes and what the spec leaves open: figures of the part (R13, R16, R183), and
the free values, each a constant without a body so that no proof can rest on what it is.
-/
namespace Sys2Proof.Config

/-- Slots of a core (R16). -/
def slots : Nat := 64
/-- Entries of a core's register file (R16). -/
def fileEntries : Nat := 2048
/-- Bytes of a core's local array: 320 KiB (R16). -/
def arrayBytes : Nat := 327680
/-- Bytes of a segment of the code store (R16). -/
def segBytes : Nat := 4096
/-- Bytes of stacked DRAM of one die, 23.5 GiB (R183). -/
def dieBytes : Nat := 25232932864
/-- Stride of the dies in tier 0 (R183). -/
def dieStride : Nat := 34359738368
/-- Bytes of far memory, 1 TiB (R183). -/
def farBytes : Nat := 1099511627776

/-- Instants in ten nanoseconds: a cycle at any clock of R17, in steps of 100 MHz from 1.2 GHz to 3.6 GHz, is a whole number of them. -/
def instants : Nat := 144403552893600

/-- FREE VALUE: the power that a block would draw at a clock, from its sensors at the moment of the choice (R17).
DESIGN CHOICE (log 44, safe). -/
opaque blockPower : Nat → Nat → Nat → Nat

/-- FREE VALUE: the answer of the identity responder to a request, word by word (R353: the keys, certificates, digests
and signatures are not in the spec): the request's kind, its arguments, the word's place. DESIGN CHOICE (log 47, unsafe). -/
opaque identity : Nat → List Nat → Nat → BitVec 64

/-- FREE VALUE: the words of an answer of the identity responder, by its kind (R353). DESIGN CHOICE (log 47, unsafe). -/
opaque answerWords : Nat → Nat

/-- FREE VALUE: the measurement of an image (R353: a SHA-256 digest): the image's index, its active version, the word's place.
DESIGN CHOICE (log 47, unsafe). -/
opaque measurement : Nat → Nat → Nat → BitVec 64

/-- FREE VALUE: the measurement of a configuration record (R353, index 5), and the word's place.
DESIGN CHOICE (log 47, unsafe). -/
opaque recordDigest : List Nat → Nat → BitVec 64

/-- FREE VALUE: the words after the header of a telemetry record (R352: the length is fixed per type).
DESIGN CHOICE (log 46, safe). -/
opaque recordWords : Nat → Nat

/-- FREE VALUE: the words of a telemetry record after its header (R352 gives no layout): type, counter, place.
DESIGN CHOICE (log 46, safe). -/
opaque sensor : Nat → Nat → Nat → BitVec 64

/-- FREE VALUE: what a host read of a hole of decoder 0 returns beside its poison mark (R339).
DESIGN CHOICE (log 51, unsafe). -/
opaque holeByte : Nat → BitVec 8

/-- FREE VALUE: bits that the spec leaves open, applied to the state's counter of such values. DESIGN CHOICE (log 56, safe). -/
opaque freeWord : Nat → BitVec 64

/-- FREE VALUE: the version an image has in its active bank before any update (R354 gives none): one for each image.
DESIGN CHOICE (log 8, unsafe). -/
opaque factoryVersion : Nat → Nat

end Sys2Proof.Config
end

