-- ==== Sys2Proof/Machine/State.lean ====
section
/-!
DEFINITION. The state of the module as plain data, the outcomes' reasons, and the state after reset.
-/
namespace Sys2Proof.Machine

/-- A sparse array: pairs of an index and a value, indices strictly rising; an index not listed has the default that
its accessor names. -/
abbrev SMap (β : Type) := List (Nat × β)

/-- Why the machine stops with a fault. -/
inductive Fault where
  /-- Raised by `Ops.guard`: a Rulis instruction was executed for a slot that holds no live thread, which no step
  of the machine does. Safe. -/
  | noThread
  deriving DecidableEq, Repr, Inhabited

/-- Why an instruction has no meaning. DESIGN CHOICE (log 55, safe). -/
inductive Refusal where
  /-- Raised by an arm of `exec`: the instruction is not modelled. Safe. -/
  | notModelled (mnemonic : String)
  /-- Raised by `Ops.guard` and `Ops.event`: the operands lie outside the ranges of `Instr.wf`, so the term is no
  instruction of the part. Safe. -/
  | illFormed
  deriving DecidableEq, Repr, Inhabited

/-- The states of a thread (R160). `starting` is a thread whose entry segment has not landed or failed (R166). -/
inductive Phase where
  | free | starting | ready | waiting | dropped | stopped | halted
  deriving DecidableEq, Repr, Inhabited

/-- The fields of `st` (R132). -/
structure Status where
  ss : Bool := false
  vw : Bool := false
  ppv : Bool := false
  pv : Bool := false
  te : Bool := false
  pp : Bool := false
  deriving DecidableEq, Repr, Inhabited

/-- The state of a stream (R236, R237); a stalled one names its fault. -/
inductive StreamState where
  | running
  | stalled (fault : Nat)
  | failed (info addr : Nat)
  deriving DecidableEq, Repr, Inhabited

/-- A stream bound to a register (R234, R235), with the place of its binding in the thread's program order.
DESIGN CHOICE (log 22, unsafe). -/
structure Stream where
  reg : Nat
  seq : Nat
  desc : Nat
  base : Nat
  second : Nat
  gth : Bool
  wide : Bool
  size : Nat
  count : Nat
  nxt : Nat
  st : StreamState
  deriving DecidableEq, Repr, Inhabited

/-- Whom a message concerns beside its slot: any message, a transfer completion of one thread (R229), or a work item
of a sheet (R272) with its generation and whether it is a repair. -/
inductive MsgKind where
  | plain
  | completion (uid : Nat)
  | item (cell gen : Nat) (repair : Bool)
  deriving DecidableEq, Repr, Inhabited

/-- A message (R167): target slot, words, sender's context and thread, its kind, and its place in the sender's program order. -/
structure Msg where
  slot : Nat
  words : List Word
  ctx : Nat
  srcCore : Nat
  srcSlot : Nat
  srcUid : Nat
  counted : Bool
  kind : MsgKind
  seq : Nat := 0
  deriving DecidableEq, Repr, Inhabited

/-- The work item in hand of slot 62 (R272 to R274): cell, generation, whether a repair, the rows that a CWR wrote,
and whether CFIN has been performed. -/
structure Item where
  cell : Nat
  gen : Nat
  repair : Bool
  written : List Nat
  finished : Bool
  deriving DecidableEq, Repr, Inhabited

/-- What happens when the count of a bounded wait reaches `waitlim` (R20, R206). -/
inductive Limit where
  /-- not bounded -/
  | unbounded
  /-- a trap with this cause, info and value -/
  | trap (code info : Nat) (tval : Word)
  /-- the synchronised read of these registers (R25) -/
  | sync (regs : List Nat)
  /-- an MMA on rings a and b (R253) -/
  | tile (a b : Nat)
  /-- no trap: the instruction returns: 0 CNTWAIT (R150), 2 CMBRECV (R337) -/
  | returns (k : Nat)
  /-- no trap: BCPL retires with this result, for its arrival stands (R214) -/
  | arrived (v : Word)
  deriving DecidableEq, Repr, Inhabited

/-- What a waiting thread waits for. -/
inductive Wait where
  /-- a condition that its bundle tests again -/
  | retry (lim : Limit)
  /-- a request queued, or parked, for a line at its home (R204, R205) -/
  | home (line : Nat) (lim : Limit)
  /-- the reply of an access in flight -/
  | reply (id : Nat)
  deriving DecidableEq, Repr, Inhabited

/-- The bundle of a waiting thread: its bits, whether steps 1 to 7 of R42 have passed, and the registers as the
bundle read them (R22), once step 8 has passed. -/
structure Held where
  bundle : Nat
  latch : Option (SMap Word)
  deriving DecidableEq, Repr, Inhabited

/-- A mask pair (R241). -/
structure MaskPair where
  rows : BitVec 16
  cols : BitVec 16
  deriving DecidableEq, Repr, Inhabited

/-- The matrix operation that the bundle of a slot has issued (R253): its number, its formats and decode table, accumulator, rings,
whether it starts from zero, and whether it has started and has run its cycles. -/
structure Mop where
  seq : Nat
  fmts : Fmt × Fmt × Fmt × Bool
  acc : Nat
  qa : Nat
  qb : Nat
  zero : Bool
  started : Bool := false
  done : Bool := false
  deriving DecidableEq, Repr, Inhabited

/-- A barrel slot and its thread (R16, R131, R132, R144, R160). DESIGN CHOICE (log 2, unsafe). -/
structure Slot where
  phase : Phase := .free
  pc : Word := 0
  st : Status := {}
  trapvec : Word := 0
  epc : Word := 0
  cause : Word := 0
  tval : Word := 0
  waitlim : Word := 0
  viewlim : Word := 0
  unack : Nat := 0
  ctx : Nat := 0
  wbase : Nat := 0
  wlim : Nat := 0
  dtsel : Bool := false
  prio : Nat := 0
  latch : Lane := 0
  launch : Nat := 0
  index : Nat := 0
  uid : Nat := 0
  masks : SMap MaskPair := []
  accs : List Nat := []
  streams : List Stream := []
  view : Option Nat := none
  viewCount : Nat := 0
  failed : Option (Nat × Word) := none
  sent : Nat := 0
  msg : Option Msg := none
  shadow : SMap Word := []
  yielded : Option (Nat × Nat) := none
  wait : Option Wait := none
  waitFrom : Nat := 0
  waitSeq : Nat := 0
  expired : Bool := false
  held : Option Held := none
  reply : Option (List Byte) := none
  mop : Option Mop := none
  /-- what the bundle has gathered so far, of an instruction made of several events: the bytes loaded (R75, R249, R257), whether
  each slice had a written bit (R188), or a byte for each store performed (R257) -/
  part : List Byte := []
  /-- the format and shape of the ring for which a TLDT has loaded its tile (R249) -/
  tile : Option (Nat × Nat × Nat) := none
  /-- the leaf whose written bits a PGHARV gathers (R188): the keys of its entry and of its group's first, their number, its page bits -/
  leaf : Option (Nat × Nat × Nat × Nat) := none
  /-- the cause and info of the thread's last trap: 256 times the info, and the code (R138) -/
  lastCause : Nat := 0
  bundles : Nat := 0
  handler : Word := 0
  item : Option Item := none
  /-- the last wave that a CVIEW.FENCE waits for, by its number in order (R285) -/
  fence : Option Nat := none
  cancelled : Bool := false
  stopping : Bool := false
  passBrk : Option Nat := none
  oneStep : Bool := false
  /-- the debugger has stopped the thread (R217) -/
  rudb : Bool := false
  /-- a bundle dropped for a page fault is to be issued again (R161) -/
  woken : Bool := false
  pendingWrite : Bool := false
  deriving DecidableEq, Repr, Inhabited

/-- The state of a segment of the code store (R162). -/
inductive SegState where
  | empty | fetching | landed | failed (cause : Nat)
  deriving DecidableEq, Repr, Inhabited

/-- A segment: its state, the image address and privilege of the fetch, the fetch's fault token, the context that fetches,
the slot and thread that issued the fetch, and the holder: launch 0 holds it for a pager or monitor (R162, R164, R347).
DESIGN CHOICE (log 58, unsafe). -/
structure Seg where
  st : SegState := .empty
  image : Nat := 0
  priv : Bool := false
  token : Option Nat := none
  ctx : Nat := 0
  byUid : Nat := 0
  holder : Option (Nat × Nat) := none
  deriving DecidableEq, Repr, Inhabited

/-- A decode table (R62, R65): a preset, or an image of 256 binary32 values. -/
inductive Table where
  | preset (p : Preset)
  | image (v : List Lane)
  deriving DecidableEq, Repr, Inhabited

/-- A physical accumulator (R238, R239): shape code, live bit, and its elements that are not zero: 32-bit elements at
16i + j, or 64-bit elements at 8i + j. -/
structure Acc where
  shape : Nat := 0
  live : Bool := false
  el : SMap Word := []
  deriving DecidableEq, Repr, Inhabited

/-- A set ring (R243, R244). -/
structure Ring where
  fmt : Nat
  cols : Nat
  rows : Nat
  cap : Nat
  base : Nat
  head : Nat
  cnt : Nat
  deriving DecidableEq, Repr, Inhabited

/-- The running matrix operation (R253): its slot and number, rings, the result and the cycle it retires. -/
structure MmaRun where
  slot : Nat
  seq : Nat
  qa : Nat
  qb : Nat
  result : Acc
  doneAt : Nat
  deriving DecidableEq, Repr, Inhabited

/-- A transfer channel (R227, R228): its record, and the request in hand. DESIGN CHOICE (log 24, unsafe; log 45, unsafe). -/
structure Chan where
  st : Nat := 0
  ptr : Nat := 0
  /-- requester: slot, thread, context, privilege -/
  who : Option (Nat × Nat × Nat × Bool) := none
  mb : List Word := []
  /-- segments still to copy: source, destination, length, and bytes done of the first -/
  segs : List (Nat × Nat × Nat) := []
  off : Nat := 0
  /-- address of the next list entry, and entries read -/
  list : Option (Nat × Nat) := none
  total : Nat := 0
  token : Option Nat := none
  /-- the cause with which PGWAKE.fatal ends the request -/
  fatal : Option Nat := none
  /-- the bytes of the piece in hand, read and not yet written: a piece is read at most once -/
  piece : Option (List Byte) := none
  /-- the status and cause with which the request is about to finish -/
  finishing : Option (Nat × Nat) := none
  /-- word 0 of the completion message, once the record has its last status: the SEND is still to come -/
  sending : Option Word := none
  /-- what the request does: 0 copy, 1 multicast, 2 save, 3 restore -/
  kind : Nat := 0
  /-- the number of a multicast request (R231) -/
  req : Nat := 0
  /-- the version of the transfer microcode that took the request (R355); none before any update -/
  ver : Option Nat := none
  deriving DecidableEq, Repr, Inhabited

/-- An entry of a station's match table (R231), with the requests it takes part in, the newest first. -/
structure Match where
  ctx : Nat
  tag : Nat
  off : Nat
  ch : Nat
  reqs : List Nat := []
  deriving DecidableEq, Repr, Inhabited

/-- A combining packet or entry (R334 to R336): kind true for MAX; the contributors that await the acknowledgement: core, slot,
thread, and the contribution's place in its program order. DESIGN CHOICE (log 26, unsafe). -/
structure Contribution where
  id : Nat
  ctx : Nat
  owner : Nat
  tag : Nat
  max : Bool
  ty : Fmt
  cnt : Nat
  n : Nat
  value : Word
  mixed : Bool
  from_ : List (Nat × Nat × Nat × Nat)
  deriving DecidableEq, Repr, Inhabited

/-- The state of a line in a core's cache (R193). -/
inductive LineState where
  | filling | shared | registered
  deriving DecidableEq, Repr, Inhabited

/-- A line in a core's cache, by context and line number; the owner differs from the holder for a victim (R192). It stands in bytes
`128 * place` on of the core's array (R189, R191). DESIGN CHOICE (log 15, unsafe). -/
structure Line where
  ctx : Nat
  line : Nat
  st : LineState
  mask : Nat
  owner : Nat
  place : Nat := 0
  deriving DecidableEq, Repr, Inhabited

/-- A compute core (R13 to R21, R131, R159 to R169, R189 to R193, R222, R238 to R243, R336).
DESIGN CHOICE (log 3, unsafe; log 5, unsafe; log 12, unsafe). -/
structure Core where
  regs : SMap Word := []
  empty : List Nat := []
  slots : SMap Slot := []
  spad : Nat := 0
  vgroup : Nat := 0
  msglim : Nat := 1024
  cyc : Nat := 0
  /-- the core has issued in the cycle that `cyc` counts (R157) -/
  busy : Bool := false
  lastSlot : Nat := 63
  issued : Nat := 0
  /-- the first cycle in which each slot may issue again (R157) -/
  turns : SMap Nat := []
  gated : Bool := false
  mbox : SMap Word := []
  /-- the slot and thread that have claimed the mailboxes (R222, R223) -/
  claim : Option (Nat × Nat) := none
  /-- the thread that wrote mb3: slot, thread, context, privilege -/
  writer : Option (Nat × Nat × Nat × Bool) := none
  segs : SMap Seg := []
  table0 : Table := .preset .e4m3
  table1 : Table := .preset .e5m2
  accs : SMap Acc := []
  rings : SMap Ring := []
  mma : Option MmaRun := none
  /-- table replacements that wait for operations that read the table (R75), by table number: slot, the new table -/
  newTable : SMap (Nat × Table) := []
  queue : List Msg := []
  station : List Msg := []
  chans : SMap Chan := []
  kept : List Msg := []
  matches_ : List Match := []
  table : List Contribution := []
  packets : List Contribution := []
  lines : List Line := []
  heldCtx : Option Nat := none
  /-- a command core: a host store has snooped a queue line of this core (R140, R171) -/
  snooped : Bool := false
  /-- the part of a cycle that has passed since `cyc` last advanced, in the unit of `Config.instants` (R17, R20) -/
  frac : Nat := 0
  absent : Bool := false
  spare : Bool := false
  /-- the moments of the corrected errors of the last hour, as instants since module reset (R350) -/
  errors : List Nat := []
  deriving DecidableEq, Repr, Inhabited

/-- The states of a context (R128). -/
inductive CtxState where
  | free | building | runnable | running | suspended | faulted | dying
  deriving DecidableEq, Repr, Inhabited

/-- Record states of a counter (R147). -/
inductive RecState where
  | open_ | complete | cancelling | cancelled
  deriving DecidableEq, Repr, Inhabited

/-- A launch (R145 to R148, R155, R166): its counter, the place of its close, its descriptor and its cores in index
order, the phase it joins, and the queue entry that created it. -/
structure Launch where
  st : RecState := .open_
  total : Nat := 0
  done : Nat := 0
  anyCancel : Bool := false
  cores : List Nat := []
  thr : Nat := 0
  win : Nat := 0
  acc : Nat := 0
  scr : Nat := 0
  entry : Nat := 0
  segmask : Nat := 0
  image : Nat := 0
  viewlim : Nat := 0
  waitlim : Nat := 0
  phase : Option Nat := none
  made : Nat := 0
  closedAt : Nat := 0
  fromEntry : Option (Nat × Nat) := none
  /-- slots given on each core, and finished threads by index -/
  threads : List (Nat × Nat × Nat) := []
  finished : List Nat := []
  stopped : List Nat := []
  deriving DecidableEq, Repr, Inhabited

/-- A phase (R145 to R148). -/
structure PhaseRec where
  st : RecState := .open_
  intake : Bool := true
  total : Nat := 0
  done : Nat := 0
  anyCancel : Bool := false
  closedAt : Nat := 0
  deriving DecidableEq, Repr, Inhabited

/-- A queue entry taken by a command core (R174 to R177): its words, whether it has started, its priority and age, and why a launch
entry waits at the head of its queue: cores whose release it waits for (none: a launch of its own context), or a page fault; the
cause with which PGWAKE.fatal ends its read. -/
structure Entry where
  seq : Nat
  words : List Word
  started : Bool := false
  age : Nat := 0
  pri : Nat := 0
  blocked : Option (List Nat) := none
  token : Option Nat := none
  fatal : Option Nat := none
  deriving DecidableEq, Repr, Inhabited

/-- A host queue (R170 to R172): its ring, tail line and completion record, each with the memory tier in which it lies. -/
structure Queue where
  base : Nat := 0
  tier : Nat := 2
  lg : Nat := 4
  tailLine : Nat := 0
  lineTier : Nat := 2
  record : Nat := 0
  recTier : Nat := 2
  tail : Nat := 0
  taken : Nat := 0
  retired : Nat := 0
  overrun : Bool := false
  badtail : Bool := false
  entries : List Entry := []
  /-- entries complete with their code, kept for dependences -/
  codes : SMap Nat := []
  deriving DecidableEq, Repr, Inhabited

/-- The condition of a version buffer (R262, R288). A pending buffer belongs to a batch or to a wave. -/
inductive Cond where
  | empty | present | dropped | poisoned
  | inBatch (b : Nat) | inWave (g : Nat)
  deriving DecidableEq, Repr, Inhabited

/-- A precedent of a cell (R261). -/
structure Prec where
  cell : Nat
  lag : Bool
  deriving DecidableEq, Repr, Inhabited

/-- A binding: dimensions, format, weak, precedents, formula; launch 0 and entry 0 make an input cell (R261). -/
structure Binding where
  rows : Nat := 0
  cols : Nat := 0
  fmt : Nat := 0
  wk : Bool := false
  precs : List Prec := []
  launch : Nat := 0
  entry : Nat := 0
  deriving DecidableEq, Repr, Inhabited

/-- A version buffer (R262, R305, R313): stamp and condition; whether a pending version comes from a failed item (R274); the arm number
and the hold mask of the version, as rows; its age; the binding that gave the version (R1, R277); and its storage, which holds its
bytes: the address of its cell-owned pages (R259), and their frames as runs of tier 0. -/
structure Buf where
  stamp : Nat := 0
  cond : Cond := .empty
  bad : Bool := false
  arm : Nat := 0
  hold : List Nat := []
  age : Nat := 0
  bind : Binding := {}
  addr : Nat := 0
  runs : List (Nat × Nat) := []
  deriving DecidableEq, Repr, Inhabited

/-- A tap's snapshot and state (R311 to R313, R317, R322). `scores` are the committed scores by logical row, and `fresh` those
of open waves: generation, row, score. -/
structure Tap where
  arm : Nat
  probe : Nat
  dir : Bool
  dim : Nat
  thr : Lane
  bias : Lane
  weights : List (BitVec 16)
  gains : List (BitVec 16)
  eps : Lane
  ord : Bool
  nrm : Bool
  rpr : Nat
  map : List Lane
  steer : List (List (BitVec 16))
  heldSeqs : List Nat := []
  killed : List Nat := []
  scores : SMap Lane := []
  fresh : List (Nat × Nat × Lane) := []
  armed : Bool := true
  deriving DecidableEq, Repr, Inhabited

/-- A cell (R259 to R266): the tag of its number; whether the number is bound (R288), whether the cell has joined the sheet (R267),
the generation of its unbinding (R280); its rank; its two buffers; its hold mask as rows; whether it is a carried root
(R265), or stale from a cancelled wave (R153); the priority of its weak buffers (R305); its taps and their last arm number; the
die of its storage (R262). -/
structure Cell where
  tag : Nat := 0
  bound : Bool := false
  joined : Bool := false
  unboundAt : Option Nat := none
  bind : Binding := {}
  rank : Nat := 0
  buf0 : Buf := {}
  buf1 : Buf := {}
  hold : List Nat := []
  carried : Bool := false
  stale : Bool := false
  pri : Nat := 8
  taps : List Tap := []
  arms : Nat := 0
  die : Nat := 0
  deriving DecidableEq, Repr, Inhabited

/-- What an edit does to its cell (R267, R321). A release names the sequences it releases; `off` disarms the tap and releases
every sequence. -/
inductive EditKind where
  | bind | rebind (b : Binding) | unbind | store | release (seqs : List Nat) | off
  deriving DecidableEq, Repr, Inhabited

/-- An edit, and the phase that its wave joins if it comes to open one (R145, R269). DESIGN CHOICE (log 35, unsafe). -/
structure Edit where
  cell : Nat
  kind : EditKind
  phase : Option Nat := none
  deriving DecidableEq, Repr, Inhabited

/-- An open batch (R268): its number, the identity of its thread, and its edits in issue order. -/
structure Batch where
  num : Nat
  owner : Nat
  edits : List Edit := []
  deriving DecidableEq, Repr, Inhabited

/-- States of a work item of a wave (R271 to R273). -/
inductive ItemState where
  | waiting | dispatched | finished
  deriving DecidableEq, Repr, Inhabited

/-- An open wave (R268 to R275): generation, its number in order of opening, roots, the work items of its formula cells, its input roots and whether the
pending buffer of each holds its value (R288), the phase joined, the queue entry that opened it, and whether it is being
cancelled. -/
structure Wave where
  gen : Nat
  seq : Nat
  roots : List Nat
  items : List (Nat × ItemState)
  inputs : List (Nat × Bool)
  phase : Option Nat := none
  fromEntry : Option (Nat × Nat) := none
  cancelling : Bool := false
  deriving DecidableEq, Repr, Inhabited

/-- A closed wave's record (R147, R148). -/
structure WaveRec where
  gen : Nat
  st : RecState
  total : Nat
  done : Nat
  closedAt : Nat := 0
  deriving DecidableEq, Repr, Inhabited

/-- A repair of a version (R277): cell and stamp, whether its item is dispatched, whether it has failed, and the threads that
wait for it. -/
structure Repair where
  cell : Nat
  stamp : Nat
  dispatched : Bool := false
  failed : Bool := false
  waiters : List Nat := []
  deriving DecidableEq, Repr, Inhabited

/-- States of an object record (R295). -/
inductive ObjState where
  | live | weakOnly | destroyed
  deriving DecidableEq, Repr, Inhabited

/-- A record (R294, R295): the tag of the index, whether the index is allocated; kind 0, 2 or 3, state, counts, priority, age, size,
address in the window, tier, die, the loc and aff that HNEW asked for, and its frames as runs: first frame and number. A tree node
(kind 3) owns no storage. -/
structure Obj where
  tag : Nat := 0
  alloc : Bool := false
  kind : Nat := 0
  st : ObjState := .live
  strong : Nat := 0
  weak : Nat := 0
  pri : Nat := 0
  age : Nat := 0
  size : Nat := 0
  addr : Nat := 0
  tier : Nat := 0
  die : Nat := 0
  loc : Bool := false
  aff : Nat := 0
  runs : List (Nat × Nat) := []
  deriving DecidableEq, Repr, Inhabited

/-- A node of the prefix tree (R306): path of runs of tokens, its block, and its own record (R295). -/
structure Node where
  path : List (List Lane)
  obj : Nat
  own : Nat
  deriving DecidableEq, Repr, Inhabited

/-- A saved thread (R144): its slot, membership and identity, whether a pending WRITE trap awaits its restore (R142), and the bundles
counted for its view (R276). -/
structure SavedThread where
  core : Nat
  slot : Nat
  launch : Nat
  index : Nat
  uid : Nat
  pendingWrite : Bool
  viewCount : Nat := 0
  deriving DecidableEq, Repr, Inhabited

/-- The range of a destroyed object, or of a version buffer whose storage has gone, whose leaves and frames the engine has still to take
back (R278, R294, R298), and whether the sheet has marked it dead (R179). -/
structure Unmap where
  addr : Nat
  size : Nat
  tier : Nat
  die : Nat
  runs : List (Nat × Nat)
  dead : Bool := false
  deriving DecidableEq, Repr, Inhabited

/-- The work item of a handler that has ended while transfers of it run (R148): core and identity of the handler, the item, and the cause
with its info and the `thid` of its report if it fails (R274). -/
structure Leaving where
  core : Nat
  uid : Nat
  item : Item
  cause : Nat
  thid : Nat
  deriving DecidableEq, Repr, Inhabited

/-- A context (R128, R259, R295, R306, R310, R347). DESIGN CHOICE (log 7, unsafe). -/
structure Ctx where
  st : CtxState := .free
  root : Word := 0
  home : Nat := 0
  probes : Nat := 0
  trapvec : Nat := 0
  pager : Nat × Nat := (0, 0)
  pagerRec : Nat := 0
  monitor : Nat × Nat := (0, 0)
  monitorRec : Nat := 0
  image : Nat := 0
  quota : Nat := 0
  nextLaunch : Nat := 1
  launches : SMap Launch := []
  closes : Nat := 0
  phaseCloses : Nat := 0
  phases : SMap PhaseRec := []
  /-- the numbers of the phases that have closed (R175) -/
  closedPhases : List Nat := []
  job : Nat × Nat := (0, 0)
  jobCancel : Bool := false
  queues : SMap Queue := []
  eventSeq : Nat := 0
  committed : Nat := 0
  cells : SMap Cell := []
  batches : List Batch := []
  nextBatch : Nat := 1
  waves : List Wave := []
  waveRecs : List WaveRec := []
  /-- the generation of the last wave opened (R268), and the number of waves that have closed (R148) -/
  lastWave : Nat := 0
  waveCloses : Nat := 0
  /-- work items that end once their handlers' transfers have (R148) -/
  leaving : List Leaving := []
  deferred : List Edit := []
  repairs : List Repair := []
  views : List (Nat × Nat) := []
  objs : SMap Obj := []
  /-- the frames of the tables through which the heap window is mapped (R294) -/
  tables : List Nat := []
  /-- ranges that the remelt engine has still to take back (R294) -/
  unmaps : List Unmap := []
  nodes : List Node := []
  reports : List Msg := []
  saved : List SavedThread := []
  deriving DecidableEq, Repr, Inhabited

/-- What an access does at its home (R110, R117). -/
inductive AccOp where
  | load
  | store (bytes : List Byte)
  | atomic (op : Nat) (ty : Fmt) (b exp : Word)
  deriving DecidableEq, Repr, Inhabited

/-- How far an access in flight has come (R108, R111, R193 to R199). `invalidating` holds the cores that the invalidations have
not reached, and those whose acknowledgements have not come back, each with the number of the acknowledgement. -/
inductive Stage where
  | issued
  | translated
  | invalidating (toGo : List Nat) (back : List (Nat × Nat))
  | granted
  | filling (value : List Byte)
  | arrived (value : List Byte)
  | refused (cause va : Nat)
  | acked (failed : Bool)
  deriving DecidableEq, Repr, Inhabited

/-- An access in flight (R111): its issuer, its address, whether it is posted, its place in the issuer's order, the scale part of
an STMX (R115), the number of its last message (R195, R196), and, once
translated, where it is performed: the key of its first byte, its home, its leaf and its page's address bits. -/
structure Flight where
  id : Nat
  core : Nat
  slot : Nat
  uid : Nat
  ctx : Nat
  priv : Bool
  addr : Word
  len : Nat
  op : AccOp
  posted : Bool
  seq : Nat
  stage : Stage
  key : Nat := 0
  home : Nat := 0
  entry : Word := 0
  pb : Nat := 12
  also : Option (Word × List Byte) := none
  /-- where the scale part of a translated STMX is performed: key, home, leaf, page's address bits (R115) -/
  second : Option (Nat × Nat × Word × Nat) := none
  stamp : Nat := 0
  /-- a load of a line whose fill another load of its core has requested takes its value from that fill (R193, R198) -/
  joins : Option Nat := none
  /-- the line as the home sent it, of a fill that installs it -/
  fill : List Byte := []
  /-- the words of that line that were poisoned when the home sent it (R199) -/
  bad : List Nat := []
  /-- the fill serves its loads once and is not installed (R197, R198) -/
  once : Bool := false
  deriving DecidableEq, Repr, Inhabited

/-- What a queued request does when its condition holds (R204, R208, R211). -/
inductive HomeOp where
  | ldfe | ldf | stfe (v : Word) | bwait (token : Word) | bcpl (token : Word)
  deriving DecidableEq, Repr, Inhabited

/-- A queued or parked request (R204, R205): the key of its word or barrier and whether its page is dead (R207). A parked one
that found no note retries at a cycle of its core. -/
structure Waiter where
  core : Nat
  slot : Nat
  uid : Nat
  ctx : Nat
  priv : Bool
  va : Word
  key : Nat
  home : Nat
  dead : Bool
  op : HomeOp
  parked : Bool
  retryAt : Option Nat
  deriving DecidableEq, Repr, Inhabited

/-- An eviction notice on its way behind earlier requests of its core (R193, R196): core, context, line and its number. -/
structure Notice where
  core : Nat
  ctx : Nat
  line : Nat
  seq : Nat
  deriving DecidableEq, Repr, Inhabited

/-- A run of frames whose reverse records name one leaf (R340): its first frame, their number, and the context, first virtual page and entry
of the leaf. -/
structure Reverse where
  frame : Nat
  count : Nat
  ctx : Nat
  page : Nat
  entry : Word
  deriving DecidableEq, Repr, Inhabited

/-- A note of a home (R205): line, core, and whether its RETRY is on the way. -/
structure Note where
  home : Nat
  line : Nat
  core : Nat
  sent : Bool
  deriving DecidableEq, Repr, Inhabited

/-- A directory entry (R194): pointers in order of arrival, or coarse groups; and the line's registration records with
their grants in order (R197). -/
structure Dir where
  coarse : Bool := false
  ptrs : List Nat := []
  groups : Nat := 0
  regs : List (Nat × Nat) := []
  deriving DecidableEq, Repr, Inhabited

/-- A cached leaf entry of a slice (R185, R186): the addresses whose walks index it, by their number and size in bits, the address
bits of the page that it maps, and the entry. DESIGN CHOICE (log 6, unsafe). -/
structure Tlb where
  slice : Nat
  ctx : Nat
  page : Nat
  size : Nat
  pb : Nat
  entry : Word
  deriving DecidableEq, Repr, Inhabited

/-- Who waits on a fault record (R186): a thread's bundle, a stream, a transfer channel, a segment fetch, an entry; each with the number
of its fault, by which a wake finds that very wait. -/
inductive Waiting where
  | thread (core slot uid fault : Nat)
  | stream (core slot reg fault : Nat)
  | chan (core ch fault : Nat)
  | seg (core seg fault : Nat)
  | entry (ctx q fault : Nat)
  deriving DecidableEq, Repr, Inhabited

/-- A fault record, or a fault that waits for one (R186). -/
structure FaultRec where
  slice : Nat
  seq : Nat
  open_ : Bool
  ctx : Nat
  va : Nat
  src : Nat
  acc : Nat
  kind : Nat
  cause : Nat
  lvl : Nat
  thid : Nat
  entry : Word
  joined : List (Waiting × Nat)
  deriving DecidableEq, Repr, Inhabited

/-- A multicast piece on its way round the loops of a die (R231): its sender and channel, and the stations that it has still
to pass. -/
structure Piece where
  id : Nat
  core : Nat
  ch : Nat
  todo : List Nat
  ctx : Nat
  tag : Nat
  req : Nat
  start : Nat
  last : Bool
  bytes : List Byte
  deriving DecidableEq, Repr, Inhabited

/-- A firmware image (R354, R355): active and inactive version, whether an activation is pending. -/
structure Firmware where
  active : Option Nat := none
  inactive : Option Nat := none
  pending : Bool := false
  deriving DecidableEq, Repr, Inhabited

/-- A candidate of a sweep (R297): an object by its context and index, or a version buffer by its context, cell and stamp. -/
inductive Cand where
  | obj (ctx i : Nat)
  | buf (ctx cell stamp : Nat)
  deriving DecidableEq, Repr, Inhabited

/-- A sweep in progress (R297, R326): its tier, the high watermark that it started with, the destructions it may still make when
the debugger has limited them, and the candidate whose destruction is on the way. -/
structure SweepRun where
  tier : Nat
  die : Nat
  high : Nat
  left : Option Nat
  chosen : Option Cand
  deriving DecidableEq, Repr, Inhabited

/-- A reset of the ladder that saves threads, or a retirement (R348, R350): its kind, and for a retirement the slots whose image
cannot be read. DESIGN CHOICE (log 50, unsafe). -/
inductive ResetKind where
  | core (c : Nat) | block (b : Nat) | die (d : Nat) | retire (c : Nat) (lost : List Nat)
  deriving DecidableEq, Repr, Inhabited

/-- A reset that waits for threads to stop (R142, R348): the slots that it has stopped, and the contexts that it suspends.
DESIGN CHOICE (log 48, unsafe). -/
structure ResetRun where
  kind : ResetKind
  slots : List (Nat × Nat)
  ctxs : List Nat
  deriving DecidableEq, Repr, Inhabited

/-- What the Daward controller keeps (R17, R18, R296, R339, R341, R346, R350 to R355).
DESIGN CHOICE (log 8, unsafe; log 42, unsafe; log 44, safe; log 48, unsafe; log 54, safe). -/
structure Manage where
  ceilings : SMap Nat := []
  /-- the ceiling that each block has taken at a clock step (R346) -/
  taken : SMap Nat := []
  hub : Nat := 2500
  clocks : SMap Nat := []
  low : SMap Nat := []
  high : SMap Nat := []
  sweeps : SMap Nat := []
  running : List SweepRun := []
  /-- the tiers, by their keys, whose free count stands below its low watermark since the sweep that it started (R297) -/
  below : List Nat := []
  resets : List ResetRun := []
  /-- the queue that each command core chose last: 256 times its context, and its number (R177) -/
  lastQueue : SMap Nat := []
  /-- completion codes of the administration queue's requests: kind, code (R347) -/
  admin : List (Nat × Nat) := []
  /-- the administration queue; the spec names no place for its ring and lines. DESIGN CHOICE (log 42, unsafe) -/
  adminQueue : Queue := { base := 2 ^ 47, tailLine := 2 ^ 47 + 1024, record := 2 ^ 47 + 1152 }
  sparesUsed : SMap Nat := []
  absentLog : List Nat := []
  twins : List (Nat × Nat) := []
  /-- the telemetry records written since module reset: `seq` and words (R352) -/
  telemetry : SMap (Nat × List Word) := []
  spdm : Nat := 0
  algs : Option Nat := none
  answer : List Word := []
  answers : Nat := 0
  transfer : Firmware := {}
  sequencer : Firmware := {}
  /-- the dies whose sequencer has passed its idle point since a pending activation (R259, R355) -/
  seqDone : List Nat := []
  command : Firmware := {}
  daward : Firmware := {}
  pldmStatus : Nat := 0
  cxlTrained : Bool := false
  cxlUsable : Bool := false
  ports : List Nat := []
  vectors : List Nat := []
  dropped : Nat := 0
  burnished : Nat := 0
  corrected : Nat := 0
  uncorrected : Nat := 0
  configs : Nat := 0
  printed : List Word := []
  /-- the debugger's breakpoints: context, core, slot, code address (R217) -/
  breaks : List (Nat × Nat × Nat × Nat) := []
  traces : List (Nat × Nat × Nat) := []
  traceLog : List Word := []
  /-- the nanosecond of the first recorded message of a trace (R217) -/
  traceFrom : Option Nat := none
  /-- the instants since module reset, in the unit of `Config.instants` (R17) -/
  now : Nat := 0
  hostRead : List (Byte × Bool) := []
  deriving DecidableEq, Repr, Inhabited

/-- How a bundle ended: it goes on to the next bundle, a trap or an end of the thread has set the slot, it waits, or it
is dropped. -/
inductive Out where
  | running | trapped | ended | waiting | dropped
  deriving DecidableEq, Repr, Inhabited

/-- What a bundle does after both its slots: a trap entry (R139), the end of the thread (R158), a write of the window
registers (R133), a stop by cancel (R153). -/
inductive Post where
  | trap (code : Nat) (tval : Word)
  | exit
  | window (lim : Bool) (v : Nat)
  | yield
  deriving DecidableEq, Repr, Inhabited

/-- The bundle in issue (the model's own): its slot, its bits, the next pc, whether the bundle's checks have been made,
the registers its A-slot reads, what follows both slots, and how it ended. DESIGN CHOICE (log 9, safe). -/
structure Issue where
  core : Nat := 0
  slot : Nat := 0
  bundle : Nat := 0
  npc : Word := 0
  passed : Bool := false
  pair : Bool := false
  src : Option (SMap Word) := none
  dt : Bool := false
  post : List Post := []
  out : Out := .running
  deriving DecidableEq, Repr, Inhabited

/-- A choice that the spec leaves to arbitration or to the outside world (the model's own): issue a slot, let an event
happen, change how accesses travel, let the next walks use the slice's cache or not, or let memory take a write-back.
DESIGN CHOICE (log 9, safe). -/
inductive Move where
  | issue (core slot : Nat)
  | event (i : Instr)
  | prompt (b : Bool)
  | tlb (b : Bool)
  /-- memory accepts the queued write-back of a line (R200, R201) -/
  | accept (ctx line : Nat)
  /-- a slice's written table is full, and the record of a page leaves it (R188) -/
  | overflow (slice ctx page : Nat)
  deriving DecidableEq, Repr, Inhabited

/-- The model's own fields: the choices still to come, whether accesses complete within their bundle, whether walks use
cached entries, counters for identities and free values, the core that issued last.
DESIGN CHOICE (log 9, safe; log 56, safe). -/
structure Env where
  agenda : List Move := []
  prompt : Bool := true
  tlbHit : Bool := true
  fresh : Nat := 1
  lastCore : Nat := 8191
  deriving DecidableEq, Repr, Inhabited

/-- The module. -/
structure State where
  mem : List Host.Cell := []
  full : List Nat := []
  poison : List Nat := []
  cores : SMap Core := []
  ctxs : SMap Ctx := []
  flights : List Flight := []
  waiters : List Waiter := []
  notes : List Note := []
  dirs : SMap Dir := []
  tlbs : List Tlb := []
  written : List (Nat × Nat × Nat) := []
  /-- words whose last stores memory has not accepted, with what the frame still holds of each (R200, R201) -/
  unwritten : SMap Word := []
  faults : List FaultRec := []
  faultSeq : SMap Nat := []
  /-- eviction notices on their way (R196) -/
  notices : List Notice := []
  reverse : List Reverse := []
  pieces : List Piece := []
  hostCopies : List Nat := []
  /-- lines of tier 2 that a home slice caches (R339) -/
  hostLines : List Nat := []
  manage : Manage := {}
  env : Env := {}
  iss : Issue := {}
  deriving DecidableEq, Repr, Inhabited

/-- The module right after module reset (R348, R131, R132, R162, R193, R194, R202, R243): nothing is listed, so every
memory byte reads as it does after reset, every core is at its reset value and no context exists.
DESIGN CHOICE (log 1, unsafe; log 2, unsafe; log 3, unsafe; log 4, safe; log 5, unsafe; log 6, unsafe). -/
def State.reset : State := {}

end Sys2Proof.Machine
end

