-- ==== Sys2Proof/Machine/Flags.lean ====
section
/-!
DEFINITION. The status register and the cause codes: packing, unpacking and the codes of R132 and R136. The part has no
arithmetic flags: every comparison writes a register (R84, R91, R96).
-/
namespace Sys2Proof.Machine

/-- One bit at a place. -/
def bitAt (b : Bool) (i : Nat) : Word := if b then (1 : Word) <<< i else 0

/-- `st` as software reads it: `res:58 ss:1 vw:1 ppv:1 pv:1 te:1 pp:1` (R132). -/
def Status.word (t : Status) : Word :=
  bitAt t.ss 5 ||| bitAt t.vw 4 ||| bitAt t.ppv 3 ||| bitAt t.pv 2 ||| bitAt t.te 1 ||| bitAt t.pp 0

/-- The fields of a value written to `st` or read from an image; reserved bits are dropped (R8, R132). -/
def Status.ofWord (w : Word) : Status :=
  ⟨w.getLsbD 5, w.getLsbD 4, w.getLsbD 3, w.getLsbD 2, w.getLsbD 1, w.getLsbD 0⟩

/-- `st` at thread creation: zero except pv (R130, R158). -/
def Status.created (pv : Bool) : Status := { pv := pv }

/-- `st` after trap entry (R135). -/
def Status.trapped (t : Status) : Status := { t with ppv := t.pv, pv := true, te := true }

/-- `st` after ERET (R140). -/
def Status.returned (t : Status) : Status := { t with pv := t.ppv, te := false }

/-! Cause codes (R136). -/

def cILLEGAL : Nat := 0x01
def cPREFIX : Nat := 0x02
def cALIGN : Nat := 0x03
def cOVERLAY : Nat := 0x04
def cWINDOW : Nat := 0x05
def cSTREAM : Nat := 0x06
def cRING : Nat := 0x07
def cWAITLIMIT : Nat := 0x08
def cMSGLIMIT : Nat := 0x09
def cBKPT : Nat := 0x0A
def cTRAP : Nat := 0x0B
def cFETAG : Nat := 0x0C
def cREAD : Nat := 0x10
def cWRITE : Nat := 0x11
def cEXEC : Nat := 0x12
def cATOMIC : Nat := 0x13
def cPRIV : Nat := 0x14
def cCELLGUARD : Nat := 0x15
def cPOISON : Nat := 0x20
def cVIEWEXPIRED : Nat := 0x31
def cCELLLOST : Nat := 0x32
def cHANDLE : Nat := 0x38

/-- The `cause` register: `res:48 info:8 code:8` (R131, R135). -/
def causeWord (code info : Nat) : Word := BitVec.ofNat 64 (info % 256 * 256 + code % 256)

/-- A thread identifier: `res:45 core:13 slot:6` (R131). -/
def thid (core slot : Nat) : Nat := core * 64 + slot

end Sys2Proof.Machine
end

