-- ==== Sys2Proof/Machine/Operands.lean ====
section
/-!
DEFINITION. What R42 needs to know of an instruction before it executes: its register fields and their synchronised
reads (R25, R30, R32), its accumulator (R238), its privilege (R42 step 5), and its relation to a prefix (R40, R52, R104).
-/
namespace Sys2Proof.Machine

/-- A register field: whether it names a vector register, its number, its synchronised-read mark. -/
structure Field where
  vec : Bool
  n : Nat
  bang : Bool
  deriving DecidableEq, Repr, Inhabited

def fx (s : Src) : Field := ⟨false, s.r, s.bang⟩
def fv (s : Src) : Field := ⟨true, s.r, s.bang⟩
def dx (n : Nat) : Field := ⟨false, n, false⟩
def dv (n : Nat) : Field := ⟨true, n, false⟩

/-- The register fields of an instruction, sources before destinations (R32), in the order in which step 6 of R42 looks at them: a, b, the
mask vector of VSEL, d, d + 1. DESIGN CHOICE (log 57, unsafe). -/
def regFields : Instr → List Field
  | .add d a b | .sub d a b | .and d a b | .or d a b | .xor d a b | .andn d a b | .shl d a b | .shr d a b
  | .sra d a b | .rot d a b | .min d a b | .max d a b | .minn d a b | .maxn d a b | .slt d a b | .sltn d a b
  | .seq d a b | .sel d a b | .mul d a b | .mulh d a b | .mulhn d a b | .div d a b | .divn d a b | .rem d a b
  | .remn d a b | .addsh d a b _ | .fadd _ d a b | .fsub _ d a b | .fmul _ d a b | .ffma _ d a b | .fmin _ d a b
  | .fmax _ d a b | .fdiv _ d a b | .fcmp _ _ d a b | .rand d a b | .aadd _ _ d a b | .aand _ _ d a b
  | .aor _ _ d a b | .axor _ _ d a b | .amin _ _ d a b | .amax _ _ d a b | .aswp _ _ d a b | .acas _ _ d a b
  | .afadd _ _ d a b | .tsave d a b | .tload d a b | .launch d a b | .wback d a b | .linv d a b | .discard d a b
  | .lclr d a b | .binit d a b | .bexp d a b | .bwait d a b | .btest d a b | .xsubs d a b _ | .hnew d a b
  | .hnewKv d a b | .cedit d a b | .taparm d a b | .taprel d a b | .tapkill d a b | .taprd d a b _
  | .cmbmax _ d a b | .cmbsum _ d a b | .cst d a b _ | .cld d a b _ | .cwr d a b _ => [fx a, fx b, dx d]
  | .popc d a | .clz d a | .mov d a | .addImm d a _ | .andImm d a _ | .orImm d a _ | .xorImm d a _ | .mulImm d a _
  | .shlImm d a _ | .shrImm d a _ | .sraImm d a _ | .rotImm d a _ | .sltImm d a _ | .sltnImm d a _ | .seqImm d a _
  | .fneg _ d a | .fabs _ d a | .fsqrt _ d a | .fclass _ d a | .fcvt _ d a | .bfx _ d a _ _ | .bfi d a _ _
  | .dtldMem d a _ | .beq d a _ | .bne d a _ | .blt d a _ | .bge d a _ | .bltn d a _ | .bgen d a _ | .jalr d a _
  | .ldI8 d a _ | .ldN8 d a _ | .ldI16 d a _ | .ldN16 d a _ | .ldI32 d a _ | .ldN32 d a _ | .ldI64 d a _
  | .ldaI64 d a _ | .stI8 d a _ | .stI16 d a _ | .stI32 d a _ | .stI64 d a _ | .stlI64 d a _
  | .cntrd _ d a | .cntwait _ d a | .cancel _ d a | .pgharv d a | .pgharvClr d a | .pginvPage d a | .pginvRevive d a
  | .pgwake d a | .pgwakeFatal d a _ | .pgqry d a | .ldfe d a _ | .ldf d a _ | .feclr d a _ | .festat d a _
  | .barv d a | .bcpl d a | .xunsub d a | .sbind d a _ | .cbind d a | .cseal d a | .cunb d a | .cstat d a _
  | .hweak d a | .hdup d a | .hup d a | .hinfo d a _ | .pfxfind d a | .pfxins d a | .pfxdel d a | .tapoff d a
  | .rpopHead d _ a | .rpopTail d _ a => [fx a, dx d]
  | .scfgCount d x b | .scfgSkip d x b => [dx x, fx b, dx d]
  | .sstat d x => [dx x, dx d]
  | .hldw d p a _ => [fx a, dx d, dx p]
  | .cmbrecv d p a => [fx a, dx d, dx p]
  | .stfe a b _ | .stf a b _ | .hpri a b => [fx a, fx b]
  | .send a b _ _ => [fx a, dx b]
  | .pfl a _ | .pflW a _ | .ofetch _ a | .hdrop a | .mskr _ a | .mskc _ a | .accld _ _ a | .accst _ a
  | .rcfg _ a _ => [fx a]
  | .tldt _ a b => [fx a, fx b]
  | .movImm d _ | .li d _ _ | .liN d _ _ | .liHi d _ | .dtldPreset d _ _ | .bz d _ | .bnz d _ | .jal d _
  | .jmpf d _ | .csrr d _ | .tid d _ | .ostat d _ | .pmsg d | .mstat d | .pginvCtx d | .xwpt d _ | .sunb d
  | .rstat d _ | .cbatch d | .cviewNow d | .cviewFence d => [dx d]
  | .csrw d _ a | .csrs d _ a | .csrc d _ a => [dx a, dx d]
  | .vadd _ d a b | .vsub _ d a b | .vmul _ d a b | .vfma _ d a b | .vmin _ d a b | .vmax _ d a b | .vand d a b
  | .vor d a b | .vxor d a b | .vshl d a b | .vshrN32 d a b | .vshrI32 d a b | .vcmp _ _ d a b | .vperm d a b =>
    [fv a, fv b, dv d]
  | .vsel d a b m => [fv a, fv b, dv m, dv d]
  | .vsort _ _ d a b => [fv a, fv b, dv d, dv (d + 1)]
  | .vmov d a | .vabs _ d a | .vneg _ d a | .vexp2 d a | .vlog2 d a | .vrcp d a | .vrsq d a | .vcvt _ d a
  | .vscan _ _ d a => [fv a, dv d]
  | .vquant _ d a => [fv a, ⟨true, a.r + 1, a.bang⟩, dv d]
  | .vdeq _ d a => [fv a, dv d, dv (d + 1)]
  | .vred _ _ d a | .vext _ d a _ => [fv a, dx d]
  | .vbcast d a | .viota d a | .vins d a _ => [fx a, dv d]
  | .randV d a b => [fx a, fx b, dv d]
  | .ldv d a _ | .stv d a _ => [fx a, dv d]
  | .ldmx d a b | .stmx d a b => [fx a, fx b, dv d]
  | .accmv d _ b => [fx b, dv d]
  | _ => []

/-- The scalar registers that a field covers (R30, R78). -/
def Field.regs (f : Field) : List Nat := if f.vec then (List.range 8).map (8 * f.n + ·) else [f.n]

/-- The registers named with `!`, each once; `x0!` never waits (R25, R30, R32). -/
def syncRegs (i : Instr) : List Nat :=
  (((regFields i).filter (·.bang)).flatMap (·.regs)).filter (· != 0)

/-- The accumulator that an instruction names (R238). -/
def accField : Instr → Option Nat
  | .mshape c _ | .mma _ c _ _ _ | .mmaz _ c _ _ _ | .accmv _ c _ | .accz c | .accld c _ _ | .accst c _ => some c
  | _ => none

/-- Instructions that only a privileged thread may issue (R42 step 5, the P of the mnemonic tables). The control-register
instructions decide by register and value in their own meaning (R134). -/
def privileged : Instr → Bool
  | .eret | .idle | .tsave _ _ _ | .tload _ _ _ | .pgharv _ _ | .pgharvClr _ _ | .pginvPage _ _ | .pginvCtx _
  | .pginvRevive _ _ | .pgwake _ _ | .pgwakeFatal _ _ _ | .pgqry _ _ | .discard _ _ _ | .lclr _ _ _ | .taparm _ _ _
  | .tapoff _ _ | .taprel _ _ _ | .tapkill _ _ _ => true
  | _ => false

/-- The consumers of a pending prefix (R104), with whether they name formats of their own. -/
def consumer : Instr → Option Bool
  | .fcvt c _ _ | .vcvt c _ _ | .vquant c _ _ | .vdeq c _ _ => some (c != .pend)
  | .mma f _ _ _ _ | .mmaz f _ _ _ _ => some (f != .pend)
  | _ => none

/-- A-class instructions (R36, R38): those of majors 0x00 to 0x1F. -/
def aClass (i : Instr) : Bool :=
  match encodeParts i with
  | some (w, _) => decide (fOp w < 32)
  | none => false

/-- A row of the table that has an encoding, and so is an instruction of a thread. -/
def isRulis (i : Instr) : Bool := (encodeParts i).isSome

end Sys2Proof.Machine
end

