-- ==== Sys2Proof/Machine/Base.lean ====
section
/-!
DEFINITION. The named operations under all others: sparse arrays, bit fields, the bytes of memory with their tags and marks, and the reads
and writes of cores, slots and contexts.
-/
namespace Sys2Proof.Machine

/-! Sparse arrays. -/

/-- The value at an index, if it is listed. -/
def look {β : Type} : List (Nat × β) → Nat → Option β
  | [], _ => none
  | (j, v) :: t, k => if j = k then some v else look t k

/-- Set the value at an index, keeping the indices rising. -/
def put {β : Type} : List (Nat × β) → Nat → β → List (Nat × β)
  | [], k, v => [(k, v)]
  | (j, w) :: t, k, v =>
    if k < j then (k, v) :: (j, w) :: t else if k = j then (k, v) :: t else (j, w) :: put t k v

/-- Remove an index. -/
def del {β : Type} (m : List (Nat × β)) (k : Nat) : List (Nat × β) := m.filter (fun p => p.1 != k)

/-- The value at an index, or the default. DESIGN CHOICE (log 3, unsafe). -/
def lookD {β : Type} (m : List (Nat × β)) (k : Nat) (d : β) : β := (look m k).getD d

/-- Set a value; an entry equal to the default is not listed. -/
def putD {β : Type} [DecidableEq β] (m : List (Nat × β)) (k : Nat) (v d : β) : List (Nat × β) :=
  if v = d then del m k else put m k v

/-- Insert into a rising list of numbers. -/
def insN : List Nat → Nat → List Nat
  | [], k => [k]
  | a :: t, k => if k < a then k :: a :: t else if k = a then a :: t else a :: insN t k

/-- Remove from a list of numbers. -/
def delN (l : List Nat) (k : Nat) : List Nat := l.filter (· != k)

/-- Replace the first element that satisfies a test. -/
def modFirst {β : Type} (p : β → Bool) (f : β → β) : List β → List β
  | [] => []
  | a :: t => if p a then f a :: t else a :: modFirst p f t

/-- Remove the first element that satisfies a test. -/
def dropFirst {β : Type} (p : β → Bool) : List β → List β
  | [] => []
  | a :: t => if p a then t else a :: dropFirst p t

/-! Bit fields and bytes. -/

/-- Bits `hi` to `lo` of a number. -/
def bits (v hi lo : Nat) : Nat := v / 2 ^ lo % 2 ^ (hi - lo + 1)

/-- Bits `hi` to `lo` of a word, as a number. -/
def wbits (v : Word) (hi lo : Nat) : Nat := bits v.toNat hi lo

/-- A word from a number. -/
def wd (n : Nat) : Word := BitVec.ofNat 64 n

/-- The number of little-endian bytes (R6). -/
def ofBytes : List Byte → Nat
  | [] => 0
  | b :: t => b.toNat + 256 * ofBytes t

/-- The `n` little-endian bytes of a number (R6). -/
def toBytes : Nat → Nat → List Byte
  | 0, _ => []
  | n + 1, v => BitVec.ofNat 8 v :: toBytes n (v / 256)

/-! Memory. One list of bytes holds every byte of the module, under the keys below. -/

/-- The key of a byte of physical memory: its tier and its physical address (R183). -/
def memKey (tier pa : Nat) : Nat := tier * 2 ^ 48 + pa

/-- The key of a byte of a scratchpad: its fabric address (R108). -/
def spadKey (core off : Nat) : Nat := 2 ^ 63 + core / 1024 * 2 ^ 32 + core % 1024 * 2 ^ 20 + off

/-- The key of a byte of a code store: its core and its code address (R162). DESIGN CHOICE (log 4, safe). -/
def codeKey (core a : Nat) : Nat := 2 ^ 64 + core * 2 ^ 15 + a

/-- The canonical form of the memory list: addresses strictly rising, no entry equal to the unlisted byte 0. -/
def Memory.wf : List Host.Cell → Bool
  | [] => true
  | [c] => c.2 != 0
  | c :: d :: t => c.2 != 0 && decide (c.1 < d.1) && Memory.wf (d :: t)

/-- What an unlisted byte reads as: zero after power-on (R191, R202 for scratchpads; the model's choice for DRAM).
DESIGN CHOICE (log 1, unsafe). -/
def Memory.unlisted : Byte := 0

/-- The byte at a key. DESIGN CHOICE (log 1, unsafe). -/
def State.byte (s : State) (k : Nat) : Byte := lookD s.mem k Memory.unlisted

/-- The `n` bytes from a key. -/
def State.bytes (s : State) (k n : Nat) : List Byte := (List.range n).map (fun i => s.byte (k + i))

/-- The entries of bytes from a key on; a byte that reads as unlisted memory does is not listed. -/
def cellsFrom : Nat → List Byte → List Host.Cell
  | _, [] => []
  | k, b :: t => if b = Memory.unlisted then cellsFrom (k + 1) t else (k, b) :: cellsFrom (k + 1) t

/-- Host copies of the lines of a range of device memory answer their back-invalidation when it is written (R127). -/
def displaced (l : List Nat) (k n : Nat) : List Nat := l.filter (fun i => !(decide (k / 128 ≤ i) && decide (128 * i < k + n)))

/-- Write bytes from a key. -/
def State.setBytes (s : State) (k : Nat) (bs : List Byte) : State :=
  { s with
    mem := s.mem.filter (fun c => decide (c.1 < k)) ++ cellsFrom k bs ++ s.mem.filter (fun c => decide (k + bs.length ≤ c.1))
    hostCopies := displaced s.hostCopies k bs.length }

/-- The `n`-byte little-endian number at a key. -/
def State.num (s : State) (k n : Nat) : Nat := ofBytes (s.bytes k n)

/-- Write an `n`-byte little-endian number. -/
def State.setNum (s : State) (k n v : Nat) : State := s.setBytes k (toBytes n v)

/-- The full/empty tag of the 8-byte word that holds a key (R202). -/
def State.isFull (s : State) (k : Nat) : Bool := s.full.contains (k / 8)

/-- Set a tag. -/
def State.setTag (s : State) (k : Nat) (f : Bool) : State :=
  { s with full := if f then insN s.full (k / 8) else delN s.full (k / 8) }

/-- The poison mark of the word that holds a key (R199). DESIGN CHOICE (log 1, unsafe). -/
def State.isPoison (s : State) (k : Nat) : Bool := s.poison.contains (k / 8)

/-- A word of a row of whole words is poisoned. -/
def lostRow (s : State) (k n : Nat) : Bool := (List.range (n / 8)).any (fun i => s.isPoison (k + 8 * i))

/-- Set a poison mark. -/
def State.setPoison (s : State) (k : Nat) (f : Bool) : State :=
  { s with poison := if f then insN s.poison (k / 8) else delN s.poison (k / 8) }

/-! Cores, slots and contexts. -/

/-- A privileged thread of firmware, whose code the spec does not give (R130): what it does are events of its engine.
DEDUCED (log 61, safe). -/
def Slot.firmware : Slot := { phase := .waiting, st := { pv := true } }

/-- What a slot holds before a program: slot 63 the transfer thread (R130, R221), any other nothing. DEDUCED (log 61, safe). -/
def Slot.initial (t : Nat) : Slot := if t = 63 then Slot.firmware else {}

/-- What a core is before a program: a command core, beyond the compute cores (R15), runs firmware in slot 0 (R130).
DEDUCED (log 61, safe). -/
def Core.initial (c : Nat) : Core := if coreCount ≤ c then { slots := [(0, Slot.firmware)] } else {}

/-- The command core that serves the queues of a context (R170). -/
def commandCore (x : Nat) : Nat := coreCount + x % 4

def State.core (s : State) (c : Nat) : Core := lookD s.cores c (Core.initial c)
def State.setCore (s : State) (c : Nat) (k : Core) : State := { s with cores := put s.cores c k }
def State.modCore (s : State) (c : Nat) (f : Core → Core) : State := s.setCore c (f (s.core c))

def Core.slot (k : Core) (t : Nat) : Slot := lookD k.slots t (Slot.initial t)
def Core.setSlot (k : Core) (t : Nat) (l : Slot) : Core := { k with slots := put k.slots t l }

def State.slot (s : State) (c t : Nat) : Slot := (s.core c).slot t
def State.setSlot (s : State) (c t : Nat) (l : Slot) : State := s.modCore c (·.setSlot t l)
def State.modSlot (s : State) (c t : Nat) (f : Slot → Slot) : State := s.setSlot c t (f (s.slot c t))

def State.ctx (s : State) (n : Nat) : Ctx := lookD s.ctxs n {}
def State.setCtx (s : State) (n : Nat) (x : Ctx) : State := { s with ctxs := put s.ctxs n x }
def State.modCtx (s : State) (n : Nat) (f : Ctx → Ctx) : State := s.setCtx n (f (s.ctx n))

/-- The bundle at a code address (R163); its low three bits are not looked at. DESIGN CHOICE (log 4, safe; log 52, unsafe). -/
def State.code (s : State) (c : Nat) (pc : Word) : Nat := s.num (codeKey c (pc.toNat % 2 ^ 15 / 8 * 8)) 8

/-- The core and the slot of the bundle in issue. -/
def State.here (s : State) : Core := s.core s.iss.core
def State.cur (s : State) : Slot := s.slot s.iss.core s.iss.slot
def State.modCur (s : State) (f : Slot → Slot) : State := s.modSlot s.iss.core s.iss.slot f
def State.modHere (s : State) (f : Core → Core) : State := s.modCore s.iss.core f
def State.modIss (s : State) (f : Issue → Issue) : State := { s with iss := f s.iss }
def State.modManage (s : State) (f : Manage → Manage) : State := { s with manage := f s.manage }

/-- The next number for an identity or a free value, and the state after it is taken.
DESIGN CHOICE (log 9, safe; log 56, safe). -/
def State.tick (s : State) : Nat × State := (s.env.fresh, { s with env := { s.env with fresh := s.env.fresh + 1 } })

/-- Some instance of a launch is not closed (R147). -/
def RecState.live : RecState → Bool
  | .open_ | .cancelling => true
  | _ => false

/-- A context holds a core: by a launch that is not closed, or by its pager or monitor (R129, R162). -/
def Ctx.holds (x : Ctx) (c : Nat) : Bool :=
  x.launches.any (fun p => p.2.st.live && p.2.cores.contains c)
    || (x.st != .free && (x.pagerRec != 0 && x.pager.1 == c || x.monitorRec != 0 && x.monitor.1 == c))

/-- The context that a core holds (R129, R155). -/
def State.holder (s : State) (c : Nat) : Option Nat := (s.ctxs.find? (fun p => p.2.holds c)).map (·.1)

/-- The slot is one of the fixed ones (R159). -/
def fixedSlot (t : Nat) : Bool := decide (62 ≤ t)

/-- The first entry of a slot's window and the entry after its last (R131, R159). -/
def winOf (t : Nat) (l : Slot) : Nat × Nat :=
  if t = 62 then (1984, 2016) else if t = 63 then (2016, 2048) else (l.wbase, l.wlim)

/-- The registers of the window of the bundle in issue. -/
def State.base (s : State) : Nat := (winOf s.iss.slot s.cur).1
def State.size (s : State) : Nat := (winOf s.iss.slot s.cur).2 - (winOf s.iss.slot s.cur).1

/-- The context of a slot's thread (R131). -/
def State.ctxOf (s : State) (c t : Nat) : Nat :=
  if fixedSlot t then (s.holder c).getD ((s.core c).heldCtx.getD 0) else (s.slot c t).ctx

/-- The context of the bundle in issue. -/
def State.myCtx (s : State) : Nat := s.ctxOf s.iss.core s.iss.slot

/-- The privilege of the bundle in issue (R130). -/
def State.priv (s : State) : Bool := s.cur.st.pv

end Sys2Proof.Machine
end

