-- ==== Sys2Proof/Machine/Homes.lean ====
section
/-!
DEFINITION. Memory at its homes: addresses, translation and its checks (R107, R108, R180 to R187, R359), lines and directories (R192 to
R197), poison (R199), and the writes that a home performs for the host and for the command cores (R127, R339, R340).
-/
namespace Sys2Proof.Machine

/-! Slices and table entries. -/

/-- The walk slice of an address (R180). -/
def walkSlice (x va : Nat) : Nat :=
  ((((((bits x 8 0 ^^^ bits x 11 9) ^^^ bits va 15 7) ^^^ bits va 24 16) ^^^ bits va 33 25) ^^^ bits va 42 34)
    ^^^ bits va 51 43) ^^^ bits va 56 52

/-- The fields of a table entry (R183). -/
def eV (e : Word) : Bool := e.getLsbD 0
def eLeaf (e : Word) : Bool := e.getLsbD 1
def eR (e : Word) : Bool := e.getLsbD 2
def eW (e : Word) : Bool := e.getLsbD 3
def eX (e : Word) : Bool := e.getLsbD 4
def eA (e : Word) : Bool := e.getLsbD 5
def eP (e : Word) : Bool := e.getLsbD 6
def eCg (e : Word) : Bool := e.getLsbD 7
def eDead (e : Word) : Bool := e.getLsbD 8
def eDirty (e : Word) : Bool := e.getLsbD 9
def eFrame (e : Word) : Nat := wbits e 47 12
def eTier (e : Word) : Nat := wbits e 49 48
def eLoc (e : Word) : Bool := e.getLsbD 50
def eAff (e : Word) : Nat := wbits e 53 51
def eSpan (e : Word) : Nat := wbits e 56 54

/-- The home slice of an access whose leaf is `e` (R180). -/
def homeSlice (h : Nat) (e : Word) : Nat := if eLoc e then eAff e * 64 + (bits h 5 0 ^^^ bits h 8 6) else h

/-- The address bits of a page by its level and span (R184). -/
def pageBits (lvl span : Nat) : Option Nat :=
  match lvl with
  | 0 => if span ≤ 3 then some (12 + 2 * span) else none
  | 1 => if span ≤ 2 then some (21 + 3 * span) else none
  | 2 => if span = 0 then some 30 else none
  | _ => none

/-- Physical addresses that exist in a tier (R183). -/
def physOk (tier pa size : Nat) : Bool :=
  match tier with
  | 0 => decide (pa < 8 * Config.dieStride) && decide (pa % Config.dieStride + size ≤ Config.dieBytes)
  | 1 => decide (pa + size ≤ Config.farBytes)
  | 2 => decide (pa + size ≤ 2 ^ 48)
  | _ => false

/-- A valid non-leaf entry is well formed (R183, R185). -/
def pointerOk (e : Word) : Bool :=
  decide (e &&& 0xFFFC000000000FFC = 0) && decide (eTier e ≤ 1) && physOk (eTier e) (eFrame e * 4096) 4096

/-- The page size of a valid leaf entry that is well formed at its level (R184, R185). -/
def leafBits (lvl : Nat) (e : Word) : Option Nat :=
  if e &&& 0xFE00000000000C00 = 0 then
    match pageBits lvl (eSpan e) with
    | some b =>
      if eFrame e * 4096 % 2 ^ b = 0 ∧ physOk (eTier e) (eFrame e * 4096) (2 ^ b) = true then some b else none
    | none => none
  else none

/-- The outcome of a walk (R181, R186): where it stopped, or the leaf with its level and its page's address bits. -/
inductive Walk where
  | absent (lvl : Nat) (e : Word)
  | bad (lvl : Nat) (e : Word)
  | leaf (lvl pb : Nat) (e : Word)
  deriving DecidableEq, Repr, Inhabited

/-- The 4 KiB leaf that a self-map walk takes a level-0 pointer for (R359). -/
def selfLeaf (e : Word) : Word := (e &&& 0x0003FFFFFFFFF000) ||| 0x6F

/-- The index of an address at a level (R181). -/
def walkIndex (lvl va : Nat) : Nat := va / 2 ^ (12 + 9 * lvl) % 512

/-- The entry in the tables at which a walk to a leaf stopped (R186): for a self-map walk the pointer that it takes as a leaf.
DEDUCED (log 17, unsafe). -/
def stoppedAt (va : Nat) (e : Word) : Word := if walkIndex 4 va = 0x1FF then (e &&& 0x0003FFFFFFFFF000) ||| 1 else e

/-- The walk from a table at a level down (R181, R185, R359). A poisoned entry is no data: the spec does not say what a walk does that
meets one, and the model reports it as a malformed one with entry 0. DEDUCED (log 17, unsafe). -/
def walkTable (s : State) (self : Bool) (va : Nat) : Nat → Nat → Walk
  | 0, base =>
    let e := wd (s.num (base + 8 * walkIndex 0 va) 8)
    if s.isPoison (base + 8 * walkIndex 0 va) then .bad 0 0
    else if !eV e then .absent 0 e
    else if eLeaf e then
      (if self then .bad 0 e else match leafBits 0 e with | some b => .leaf 0 b e | none => .bad 0 e)
    else if self && pointerOk e then .leaf 0 12 (selfLeaf e) else .bad 0 e
  | l + 1, base =>
    let e := wd (s.num (base + 8 * walkIndex (l + 1) va) 8)
    if s.isPoison (base + 8 * walkIndex (l + 1) va) then .bad (l + 1) 0
    else if !eV e then .absent (l + 1) e
    else if eLeaf e then
      (if self then .bad (l + 1) e else match leafBits (l + 1) e with | some b => .leaf (l + 1) b e | none => .bad (l + 1) e)
    else if pointerOk e then walkTable s self va l (memKey (eTier e) (eFrame e * 4096))
    else .bad (l + 1) e

/-- The key of a context's root table (R181). -/
def rootKey (k : Ctx) : Nat := memKey (eTier k.root) (eFrame k.root * 4096)

/-- An entry names the root (R182). -/
def namesRoot (k : Ctx) (e : Word) : Bool :=
  eV e && !eLeaf e && pointerOk e && eTier e == eTier k.root && eFrame e == eFrame k.root

/-- The walk of a context for an address, in the tables in memory (R181, R182, R359). -/
def walk (s : State) (x va : Nat) : Walk :=
  let k := s.ctx x
  let own := wd (s.num (rootKey k + 8 * 0x1FF) 8)
  if s.isPoison (rootKey k + 8 * 0x1FF) then .bad 4 0
  else if !namesRoot k own then .bad 4 own
  else walkTable s (walkIndex 4 va == 0x1FF) va 4 (rootKey k)

/-- The level of the poisoned entry that a walk meets, from a table at a level down (R2). -/
def lostFrom (s : State) (va : Nat) : Nat → Nat → Option Nat
  | 0, base => if s.isPoison (base + 8 * walkIndex 0 va) then some 0 else none
  | l + 1, base =>
    let k := base + 8 * walkIndex (l + 1) va
    let e := wd (s.num k 8)
    if s.isPoison k then some (l + 1)
    else if eV e && !eLeaf e && pointerOk e then lostFrom s va l (memKey (eTier e) (eFrame e * 4096))
    else none

/-- The self-map address of the entry that the walk of an address indexes at a level (R182, R359). -/
def selfAddr (va l : Nat) : Word :=
  wd ((2 ^ 45 - 2 ^ (45 - 9 * (l + 1)) + va / 4096 % 2 ^ 45 / 2 ^ (9 * (l + 1))) * 4096 + 8 * walkIndex l va)

/-- The address of the poisoned entry that the walk of an address meets (R2, R199). -/
def lostEntry (s : State) (x va : Nat) : Option Word :=
  if s.poison.isEmpty then none
  else if s.isPoison (rootKey (s.ctx x) + 8 * 0x1FF) then some (selfAddr (2 ^ 57 - 1) 4)
  else (lostFrom s va 4 (rootKey (s.ctx x))).map (selfAddr va)

/-! Checks (R186). -/

/-- What an access needs: the bits of the leaf, whether it is a cell instruction, whether it writes for check 6, its
access kind in word 2 of a fault message, and the cause of R107 for an address refused at issue. -/
structure Rights where
  r : Bool := false
  w : Bool := false
  x : Bool := false
  a : Bool := false
  cell : Bool := false
  writes : Bool := false
  acc : Nat := 0
  cause : Nat := cREAD
  deriving DecidableEq, Repr, Inhabited

def forLoad : Rights := { r := true }
def forStore : Rights := { w := true, writes := true, acc := 1, cause := cWRITE }
def forAtomic : Rights := { r := true, w := true, a := true, writes := true, acc := 3, cause := cATOMIC }
def forFetch : Rights := { x := true, acc := 2, cause := cEXEC }
def forBarrier : Rights := { r := true, w := true, writes := true, acc := 1, cause := cWRITE }

/-- Checks 3 to 6 of R186 on a leaf: the fault's kind and cause. -/
def leafFails (e : Word) (priv : Bool) (g : Rights) : Option (Nat × Nat) :=
  if eP e && !priv then some (1, cPRIV)
  else if eCg e && !g.cell then some (1, cCELLGUARD)
  else if g.a && !(eR e && eW e && eA e) then some (1, cATOMIC)
  else if g.r && !eR e then some (1, cREAD)
  else if g.w && !eW e then some (1, cWRITE)
  else if g.x && !eX e then some (1, cEXEC)
  else if eDead e && g.writes then some (3, 0)
  else none

/-- A page fault: walk slice, kind, cause, level and entry (R186). -/
structure PFault where
  slice : Nat
  kind : Nat
  cause : Nat
  lvl : Nat
  entry : Word
  deriving DecidableEq, Repr, Inhabited

/-- Why an access is not performed: a trap at issue (R107), a refusal by the target core (R108), or a page fault (R186). -/
inductive Refuse where
  | trap (code : Nat) (tval : Word)
  | far
  | fault (f : PFault)
  deriving DecidableEq, Repr, Inhabited

/-- A place an access reaches: the key of its first byte, its home (a slice, or 512 and the core of a scratchpad), whether it
is global, its leaf, and its page's address bits. -/
structure Place where
  key : Nat
  home : Nat
  glob : Bool
  e : Word := 0
  pb : Nat := 12
  deriving DecidableEq, Repr, Inhabited

/-- The place reads as zero (R187). -/
def Place.dead (p : Place) : Bool := p.glob && eDead p.e

/-- Tags exist there (R202). -/
def Place.tagged (p : Place) : Bool := !p.glob || eTier p.e == 0

/-- The checks that the issuing core makes on an address (R107, R108). -/
def issueOk (va : Word) : Bool :=
  if va.getLsbD 63 then wbits va 62 35 == 0 && wbits va 31 30 == 0 else wbits va 62 57 == 0

/-- The core of a fabric address (R13, R108). -/
def fabCore (va : Word) : Nat := wbits va 34 32 * 1024 + wbits va 29 20

/-- The bytes of a core's scratchpad (R189). -/
def spadBytes (k : Core) : Nat := 16384 * k.spad

/-- The target core takes a fabric access of a context (R108, R351). -/
def targetTakes (s : State) (x : Nat) (va : Word) (n : Nat) : Bool :=
  !(s.core (fabCore va)).absent && s.holder (fabCore va) == some x
    && decide (wbits va 19 0 + n ≤ spadBytes (s.core (fabCore va)))

/-- The address bits that one entry of a table maps at the level of a leaf (R181), by those of the leaf's page (R184). -/
def entryBits (pb : Nat) : Nat := if pb < 21 then 12 else if pb < 30 then 21 else 30

/-- The cached leaf that a walk slice uses (R186): the entry that the walk of the address itself indexes (R185).
DEDUCED (log 16, safe). -/
def cachedLeaf (s : State) (h x va : Nat) : Option (Nat × Word) :=
  if s.env.tlbHit then
    (s.tlbs.find? (fun t => t.slice == h && t.ctx == x && t.page == va / 2 ^ t.size)).map (fun t => (t.pb, t.entry))
  else none

/-- Translation and checks at the walk slice (R180, R186): a cached leaf that passes serves; else the tables decide.
DEDUCED (log 16, safe; log 17, unsafe). -/
def translate (s : State) (x : Nat) (priv : Bool) (va : Nat) (g : Rights) : Except PFault Place :=
  let h := walkSlice x va
  let at_ := fun (pb : Nat) (e : Word) =>
    (⟨memKey (eTier e) (eFrame e * 4096 + va % 2 ^ pb), homeSlice h e, true, e, pb⟩ : Place)
  match (cachedLeaf s h x va).bind (fun c => if (leafFails c.2 priv g).isNone then some c else none) with
  | some c => .ok (at_ c.1 c.2)
  | none =>
    match walk s x va with
    | .absent l e => .error ⟨h, 0, 0, l, e⟩
    | .bad l e => .error ⟨h, 2, 0, l, e⟩
    | .leaf l pb e =>
      match leafFails e priv g with
      | some (k, c) => .error ⟨h, k, c, l, stoppedAt va e⟩
      | none => .ok (at_ pb e)

/-- Where an access of `n` bytes goes, or why it does not (R107, R108, R186). -/
def locate (s : State) (x : Nat) (priv : Bool) (va : Word) (n : Nat) (g : Rights) : Except Refuse Place :=
  if !issueOk va then .error (.trap g.cause va)
  else if va.getLsbD 63 then
    if targetTakes s x va n then .ok { key := spadKey (fabCore va) (wbits va 19 0), home := 512 + fabCore va, glob := false }
    else .error .far
  else
    match translate s x priv va.toNat g with
    | .ok p => .ok p
    | .error f => .error (.fault f)

/-- What is left of a run of reverse records without those of `n` places from `a` on, counted from the run's own place `lo`. -/
def Reverse.without (a n lo : Nat) (r : Reverse) : List Reverse :=
  if a + n ≤ lo ∨ lo + r.count ≤ a then [r]
  else
    (if lo < a then [{ r with count := a - lo }] else [])
    ++ (if a + n < lo + r.count then
        [{ r with frame := r.frame + (a + n - lo), page := r.page + (a + n - lo), count := lo + r.count - (a + n) }]
      else [])

/-- The hub's reverse records name a leaf for every frame of its page (R340). -/
def recordLeaf (rs : List Reverse) (x va : Nat) (p : Place) : List Reverse :=
  let f := p.key / 2 ^ p.pb * 2 ^ p.pb / 4096
  let n := 2 ^ p.pb / 4096
  ⟨f, n, x, va / 2 ^ p.pb * 2 ^ p.pb / 4096, p.e⟩ :: rs.flatMap (fun r => r.without f n r.frame)

/-- The walk slice installs a leaf that it has not cached, and the hub's reverse records name it (R186, R340); a tier 2 line is cached at
its home (R339). DEDUCED (log 16, safe). -/
def install (s : State) (x va : Nat) (p : Place) : State :=
  if p.glob then
    let h := walkSlice x va
    let t : Tlb := ⟨h, x, va / 2 ^ entryBits p.pb, entryBits p.pb, p.pb, p.e⟩
    let hit := s.env.tlbHit && s.tlbs.contains t
    { s with
      tlbs := if hit then s.tlbs else t :: s.tlbs.filter (fun u => !(u.slice == h && u.ctx == x && u.page == va / 2 ^ u.size))
      reverse := if hit || decide (2 ≤ eTier p.e) then s.reverse else recordLeaf s.reverse x va p
      hostLines := if eTier p.e = 2 then insN s.hostLines (p.key / 128) else s.hostLines }
  else s

/-- The parts of a range that lie in one block of `z` bytes each: address and length. -/
def parts (z va n : Nat) : List (Nat × Nat) :=
  if n = 0 then []
  else (List.range ((va % z + n + z - 1) / z)).map (fun i =>
    let lo := max va ((va / z + i) * z)
    (lo, min (va + n) ((va / z + i + 1) * z) - lo))

/-! Lines and directories. -/

/-- The key of a line's directory entry: its context and its line of virtual addresses. -/
def dirKey (x line : Nat) : Nat := x * 2 ^ 50 + line

def State.dirOf (s : State) (x line : Nat) : Dir := lookD s.dirs (dirKey x line) {}
def State.setDir (s : State) (x line : Nat) (d : Dir) : State := { s with dirs := putD s.dirs (dirKey x line) d {} }

/-- The home slice of an address that the tables map (R180). -/
def homeOf (s : State) (x va : Nat) : Option Nat :=
  match walk s x va with
  | .leaf _ _ e => some (homeSlice (walkSlice x va) e)
  | _ => none

/-! Messages between a core and a home slice (R196). -/

def Flight.isStore (f : Flight) : Bool := match f.op with | .store _ => true | _ => false
def Flight.isFabric (f : Flight) : Bool := f.addr.getLsbD 63
def Flight.line (f : Flight) : Nat := f.addr.toNat / 128
def Flight.isLoad (f : Flight) : Bool := match f.op with | .load => true | _ => false

/-- A load whose line is being filled: its request or its fill is on the way (R193). -/
def Flight.fills (f : Flight) : Bool :=
  !f.isFabric && f.isLoad && f.joins.isNone && (match f.stage with | .issued | .translated | .filling _ => true | _ => false)

/-- A load waits for the fill that another load of its core has requested (R193, R198). -/
def joined (s : State) (f : Flight) : Bool :=
  match f.joins with
  | some id => s.flights.any (fun g => g.id == id && g.fills)
  | none => false

/-- A core has acknowledged an invalidation of the access before number `n`, and the acknowledgement is on its way (R195). -/
def Flight.owesAck (f : Flight) (c n : Nat) : Bool :=
  match f.stage with
  | .invalidating _ back => back.any (fun b => b.1 == c && decide (b.2 < n))
  | _ => false

/-- A request of a core, a notice or an acknowledgement of it, sent before number `n` to the home slice of an address, has not arrived there
(R196). -/
def sentBefore (s : State) (c x va n : Nat) : Bool :=
  s.flights.any (fun f => !f.isFabric && ((f.core == c && f.stage == .issued && decide (f.seq < n) && !joined s f) || f.owesAck c n)
    && homeOf s f.ctx f.addr.toNat == homeOf s x va && (homeOf s x va).isSome)
  || s.notices.any (fun m => m.core == c && decide (m.seq < n) && homeOf s m.ctx (128 * m.line) == homeOf s x va)

/-- An earlier request, notice or acknowledgement of a core to the home slice of an address has not arrived there (R196). -/
def slicePathBusy (s : State) (c x va : Nat) : Bool := sentBefore s c x va s.env.fresh

/-- A fill, a grant, a value, a refusal or an invalidation that a home slice sent a core before number `n` has not been delivered (R196).
A fill is sent once its data stands ready, so an invalidation that was sent after that moment may come before it (R198).
DEDUCED (log 67, unsafe). -/
def onTheWay (s : State) (c : Nat) (home : Option Nat) (n : Nat) : Bool :=
  s.flights.any (fun g => !g.isFabric && decide (g.stamp < n) && some g.home == home && (match g.stage with
    | .filling _ | .granted | .arrived _ | .refused _ _ => g.core == c
    | .invalidating toGo _ => toGo.contains c
    | _ => false))

/-- The nanoseconds since module reset (R217). -/
def nanoseconds (s : State) : Nat := s.manage.now * 10 / Config.instants

/-- The debugger records a message for a line that it traces at the line's home slice (R217): the nanoseconds from the first recorded
event, then `kind:16 core:16 mask:32`, kinds 1 registration request, 2 entry cleared, 3 eviction notice, 4 acknowledgement, 5 grant, 6 read
request, 7 read forwarded, 8 recall, 9 invalidation, 10 fill, 11 a write performed at the home, as an atomic or for another agent, 12
write-back, 13 back-invalidation of the host; the core is 8,192 for an agent that is no core. DESIGN CHOICE (log 54, safe). -/
def traceMsg (s : State) (x line kind core mask : Nat) : State :=
  if s.manage.traces.any (fun t => t.2 == (x, line) && homeOf s x (128 * line) == some t.1) then
    s.modManage (fun m => { m with
      traceFrom := some (m.traceFrom.getD (nanoseconds s))
      traceLog := m.traceLog ++ [wd (nanoseconds s - m.traceFrom.getD (nanoseconds s)), wd (kind * 2 ^ 48 + core * 2 ^ 32 + mask)] })
  else s

/-- The words of a line that an access covers, as a mask. -/
def wordMask (va n : Nat) : Nat :=
  (List.range 16).foldl (fun m i =>
    if va % 128 < 8 * i + 8 ∧ 8 * i < va % 128 + n then m + 2 ^ i else m) 0

/-- The bit of the group of 128 cores that holds a core (R194). -/
def groupBit (c : Nat) : Nat := 2 ^ (c / 128)

/-- A read from a core is granted SHARED (R194). -/
def Dir.addReader (d : Dir) (c : Nat) : Dir :=
  if d.coarse then { d with groups := d.groups ||| groupBit c }
  else if d.ptrs.contains c then d
  else if d.ptrs.length < 4 then { d with ptrs := d.ptrs ++ [c] }
  else { d with coarse := true, ptrs := [], groups := (d.ptrs ++ [c]).foldl (fun g a => g ||| groupBit a) 0 }

/-- An eviction notice (R194). -/
def Dir.notice (d : Dir) (c : Nat) : Dir := if d.coarse then d else { d with ptrs := d.ptrs.filter (· != c) }

/-- The cores to which an invalidation goes (R195). -/
def Dir.readers (d : Dir) (requester : Nat) : List Nat :=
  (if d.coarse then (List.range 64).flatMap (fun g =>
      if d.groups.testBit g then (List.range 128).map (128 * g + ·) else [])
    else d.ptrs).filter (· != requester)

/-- The members of a core's quad (R192). -/
def quadMember (c m : Nat) : Nat :=
  let row := c % 1024 / 32
  let col := c % 32
  c / 1024 * 1024 + 32 * (2 * (row / 2) + m / 2) + 2 * (col / 2) + m % 2

/-- A core's member number in its quad (R192). -/
def memberOf (c : Nat) : Nat := 2 * (c % 1024 / 32 % 2) + c % 2

/-- Cores pool when each one's mask names the other (R192). -/
def pools (s : State) (a b : Nat) : Bool :=
  a != b && (s.core a).vgroup.testBit (memberOf b) && (s.core b).vgroup.testBit (memberOf a)

/-- The cores that pool with a core. -/
def poolOf (s : State) (c : Nat) : List Nat := ((List.range 4).map (quadMember c)).filter (pools s c)

/-- Lines that a core's cache portion holds (R189). -/
def cacheLines (k : Core) : Nat := (20 - k.spad) * 128

/-- A core's copies of a line, and its victims in pooled cores, go (R192, R195). -/
def dropLine (s : State) (c x line : Nat) : State :=
  (c :: (List.range 4).map (quadMember c)).foldl (fun t k =>
    if (t.core k).lines.any (fun l => l.ctx == x && l.line == line && l.owner == c) then
      t.modCore k (fun q => { q with lines := q.lines.filter (fun l => !(l.ctx == x && l.line == line && l.owner == c)) })
    else t) s

/-! What memory has not accepted (R200, R201): the frame still holds the old data of a word that is registered, or whose write-back is
queued at its home. -/

/-- The key of a word's record: its context and its virtual address. -/
def wordKey (x va : Nat) : Nat := x * 2 ^ 54 + va / 8

/-- The frame keeps the words of an access as they are until memory accepts a write-back of them.
DESIGN CHOICE (log 18, unsafe). -/
def keepOld (s : State) (x va n key : Nat) : State :=
  (List.range ((va % 8 + n + 7) / 8)).foldl (fun t i =>
    if (look t.unwritten (wordKey x va + i)).isSome then t
    else { t with unwritten := put t.unwritten (wordKey x va + i) (wd (t.num (key - key % 8 + 8 * i) 8)) }) s

/-- Memory accepts the write-backs of words of a line (R200). -/
def accepted (s : State) (x line mask : Nat) : State :=
  { s with unwritten := s.unwritten.filter (fun w =>
      !(w.1 / 16 == x * 2 ^ 50 + line && mask.testBit (w.1 % 16))) }

/-- Words are at their home again (R193): at once in the frame, or queued for it. DESIGN CHOICE (log 18, unsafe). -/
def wordsHome (s : State) (x line mask : Nat) : State := if s.env.prompt then accepted s x line mask else s

/-- The words of a line that a core holds registered. -/
def regMask (s : State) (c x line : Nat) : Nat := (look (s.dirOf x line).regs c).getD 0

/-- A registration ends: the words are written back and are at their home again (R193). -/
def endRegistration (s : State) (c x line : Nat) : State :=
  let d := s.dirOf x line
  dropLine ((wordsHome (traceMsg s x line 12 c (regMask s c x line)) x line (regMask s c x line)).setDir x line { d with regs := d.regs.filter (·.1 != c) }) c x line

/-- The lowest free place in a core's cache portion (R189). DESIGN CHOICE (log 15, unsafe). -/
def freePlace (k : Core) : Nat :=
  ((List.range (k.lines.length + 1)).find? (fun n => !k.lines.any (·.place == n))).getD k.lines.length

/-- The cache portion of a core has room for one more line (R189). -/
def cacheRoom (k : Core) : Bool := decide (k.lines.length < cacheLines k)

/-- Put a line into a core's cache portion. -/
def placeLine (s : State) (c : Nat) (l : Line) : State :=
  s.modCore c (fun k => { k with lines := k.lines ++ [{ l with place := freePlace k }] })

/-- The fills of a core for lines are served once and not installed (R193, R198): those that a home has sent, or with `all` also those still
requested. -/
def spoilFills (s : State) (all : Bool) (mine : Nat → Bool) (x : Nat) (here : Nat → Bool) : State :=
  { s with flights := s.flights.map (fun f =>
      if f.isLoad && mine f.core && f.ctx == x && here f.line && (match f.stage with | .filling _ => true | .issued | .translated => all | _ => false)
      then { f with once := true } else f) }

/-- An eviction notice reaches the home (R194). A fill that the home has sent meanwhile is not installed, for the home takes the core for no
reader any more: the core had requested it before it sent the notice (R193, R196). -/
def takeNotice (s : State) (c x line : Nat) : State :=
  let s := spoilFills s false (· == c) x (· == line)
  traceMsg (s.setDir x line ((s.dirOf x line).notice c)) x line 3 c 0

/-- A core sends an eviction notice of a line (R193): it goes behind earlier requests of the core to that home slice (R196). -/
def sendNotice (s : State) (c x line : Nat) : State :=
  if slicePathBusy s c x (128 * line) then
    let t := spoilFills s.tick.2 false (· == c) x (· == line)
    { t with notices := t.notices ++ [⟨c, x, line, s.tick.1⟩] }
  else takeNotice s c x line

/-- A clean line leaves a core: its reader's notice goes to the home (R193, R194). -/
def dropClean (s : State) (c : Nat) (l : Line) : State :=
  sendNotice (s.modCore c (fun k => { k with lines := k.lines.filter (· != l) })) l.owner l.ctx l.line

/-- A core evicts a line (R193): registered words are written back; a clean line becomes a victim in a pooled core that
has room, else a notice is sent (R192, R194). DESIGN CHOICE (log 15, unsafe). -/
def evictLine (s : State) (c : Nat) (l : Line) : State :=
  if l.st = .registered then endRegistration s c l.ctx l.line
  else
    match (if l.owner = c then (poolOf s c).find? (fun k => cacheRoom (s.core k)) else none) with
    | some k => placeLine (s.modCore c (fun k => { k with lines := k.lines.filter (· != l) })) k l
    | none => dropClean s c l

/-- Add a line to a core's cache; the oldest line leaves a full one. DESIGN CHOICE (log 15, unsafe). -/
def addLine (s : State) (c : Nat) (l : Line) : State :=
  placeLine (match (s.core c).lines with
    | old :: _ => if cacheRoom (s.core c) then s else evictLine s c old
    | [] => s) c l

/-- A core, or a victim of it, holds a line. -/
def holdsLine (s : State) (c x line : Nat) : Bool :=
  (c :: poolOf s c).any (fun k => (s.core k).lines.any (fun l => l.ctx == x && l.line == line && l.owner == c))

/-- A home grants no SHARED copy of a line: its page is dead (R187), some word of it is registered (R197), or it lies in tier 2, which home
slices alone cache (R339). -/
def notShared (s : State) (x line : Nat) (p : Place) : Bool := p.dead || !(s.dirOf x line).regs.isEmpty || eTier p.e == 2

/-- Another core holds words of an access registered (R197). -/
def elsewhereReg (s : State) (c x va n : Nat) : Bool :=
  (s.dirOf x (va / 128)).regs.any (fun r => r.1 != c && r.2 &&& wordMask va n != 0)

/-- Read requests of a core, or of another agent with 8,192, for the lines of a range, which a trace records (R217): a read of words that
another core holds registered is forwarded (R197). -/
def traceReads (s : State) (c x : Nat) (va : Word) (n : Nat) : State :=
  if s.manage.traces.isEmpty || va.getLsbD 63 then s
  else (parts 128 va.toNat n).foldl (fun t q =>
    traceMsg t x (q.1 / 128) (if elsewhereReg t c x q.1 q.2 then 7 else 6) c (wordMask q.1 q.2)) s

/-- A load of a global address by a core, of `n` bytes: a line that may be shared is granted SHARED and installed (R193, R194); else the
value comes from the home, or is forwarded (R197). -/
def touchLoad (s : State) (c x va n : Nat) (p : Place) : State :=
  let line := va / 128
  let d := s.dirOf x line
  if holdsLine s c x line || (wordMask va n != 0 && wordMask va n &&& regMask s c x line == wordMask va n) then s
  else if notShared s x line p then
    traceMsg s x line (if elsewhereReg s c x va n then 7 else 6) c (wordMask va n)
  else addLine (traceMsg (traceMsg (s.setDir x line (d.addReader c)) x line 6 c (wordMask va n)) x line 10 c 0) c ⟨x, line, .shared, 0, c, 0⟩

/-- The written bit of a page (R188). -/
def setWritten (s : State) (home x va : Nat) : State :=
  if s.written.contains (home, x, va / 4096) then s else { s with written := (home, x, va / 4096) :: s.written }

/-- A registration has completed its invalidations (R194). -/
def clearReaders (s : State) (x line : Nat) : State :=
  traceMsg ((spoilFills s false (fun _ => true) x (· == line)).setDir x line { s.dirOf x line with coarse := false, ptrs := [], groups := 0 }) x line 2 0 0

/-- An invalidation reaches a core (R193, R195, R198): the core drops the line and its victims, and a fill that it has requested serves its
loads once. -/
def invalidated (s : State) (c x line : Nat) : State := dropLine (spoilFills s true (· == c) x (· == line)) c x line

/-- The home sends invalidations of a line to its readers (R195), which a trace records (R217). -/
def traceInvalidations (s : State) (x line requester : Nat) : State :=
  ((s.dirOf x line).readers requester).foldl (fun t c => traceMsg t x line 9 c 0) s

/-- The home invalidates a line's readers, each of which acknowledges (R195). -/
def invalidateReaders (s : State) (x line requester : Nat) : State :=
  clearReaders (((s.dirOf x line).readers requester).foldl (fun t c => traceMsg (invalidated t c x line) x line 4 c 0)
    (traceInvalidations s x line requester)) x line

/-- A registrant gives words of a line back to their home (R197): a registrant whose mask becomes 0 is released. -/
def recallOne (s : State) (c x line mask : Nat) : State :=
  let mine := regMask s c x line
  let left := mine - (mine &&& mask)
  if mine &&& mask = 0 then s
  else
    let s := traceMsg s x line 8 c (mine &&& mask)
    if left = 0 then endRegistration s c x line
    else
      let d := s.dirOf x line
      traceMsg (((wordsHome s x line (mine &&& mask)).setDir x line { d with regs := d.regs.map (fun r => if r.1 = c then (c, left) else r) }).modCore c
        (fun k => { k with lines := k.lines.map (fun l => if l.ctx = x ∧ l.line = line ∧ l.st = .registered then { l with mask := left } else l) }))
        x line 12 c (mine &&& mask)

/-- The home recalls words of a line from registrants but one (R197 steps 3, R117). -/
def recallWords (s : State) (x line mask but : Nat) : State :=
  (s.dirOf x line).regs.foldl (fun t g => if g.1 = but then t else recallOne t g.1 x line mask) s

/-- A host copy of a line of device memory answers its back-invalidation (R127). -/
def backInvalidate (s : State) (x line key : Nat) : State :=
  let t := if s.hostCopies.contains (key / 128) then traceMsg s x line 13 8192 0 else s
  { t with hostCopies := t.hostCopies.filter (· != key / 128) }

/-- The home registers the words of a store with a core (R197 steps 3 to 6). -/
def registerWords (s : State) (c x va n : Nat) (p : Place) : State :=
  let line := va / 128
  let mask := wordMask va n
  let s := recallWords s x line mask c
  let s := match (s.dirOf x line).regs.filter (·.1 != c) with
    | old :: _ :: _ => recallOne s old.1 x line old.2
    | _ => s
  let mine := regMask s c x line ||| mask
  let s := dropLine s c x line
  let s := keepOld (s.setDir x line { s.dirOf x line with regs := (s.dirOf x line).regs.filter (·.1 != c) ++ [(c, mine)] }) x va n p.key
  traceMsg (addLine (backInvalidate s x line p.key) c ⟨x, line, .registered, mine, c, 0⟩) x line 5 c mask

/-- A write performed at the home for a core, or for another agent with 8,192 (R117, R203): readers invalidated, registered words recalled,
the written bit set; memory accepts it at once, or later. -/
def touchHome (s : State) (c x va n : Nat) (p : Place) : State :=
  if p.glob then
    let s := traceMsg (setWritten s p.home x va) x (va / 128) 11 c (wordMask va n)
    let s := backInvalidate (recallWords (invalidateReaders s x (va / 128) 8192) x (va / 128) (wordMask va n) 8192) x (va / 128) p.key
    if s.env.prompt then s else keepOld s x va n p.key
  else s

/-- A store of a core to a global word (R197): its registration, unless the core holds the words registered; host copies of the line
answer their back-invalidation (R127). A word of tier 2 is written at its home slice, which alone caches its line (R339). -/
def touchStore (s : State) (c x va n : Nat) (p : Place) : State :=
  if wordMask va n &&& regMask s c x (va / 128) = wordMask va n then backInvalidate s x (va / 128) p.key
  else if eTier p.e = 2 then touchHome s c x va n p
  else
    registerWords (invalidateReaders (traceMsg (setWritten s p.home x va) x (va / 128) 1 c (wordMask va n)) x (va / 128) c) c x va n p

/-! Bytes at a place. -/

/-- The bytes that a load returns (R187). -/
def loadAt (s : State) (p : Place) (n : Nat) : List Byte := if p.dead then List.replicate n 0 else s.bytes p.key n

/-- The poisoned word of lowest address under an access: its address (R199). -/
def poisonedAt (s : State) (p : Place) (va : Word) (n : Nat) : Option Word :=
  if p.dead then none
  else ((List.range ((p.key % 8 + n + 7) / 8)).find? (fun i => s.isPoison (p.key - p.key % 8 + 8 * i))).map
    (fun i => va - wd (va.toNat % 8) + wd (8 * i))

/-- Write bytes; a whole aligned word that is written loses its poison mark (R199). -/
def storeAt (s : State) (key : Nat) (bs : List Byte) : State :=
  let t := s.setBytes key bs
  { t with poison := t.poison.filter (fun w => !(decide (key ≤ 8 * w) && decide (8 * w + 8 ≤ key + bs.length))) }

/-- Zeros with empty tags over a range of keys; whole words lose their poison marks (R188, R199). -/
def zeroRange (s : State) (k n : Nat) : State :=
  { s with
    mem := s.mem.filter (fun c => !(decide (k ≤ c.1) && decide (c.1 < k + n)))
    hostCopies := displaced s.hostCopies k n
    full := s.full.filter (fun w => !(decide (k ≤ 8 * w) && decide (8 * w < k + n)))
    poison := s.poison.filter (fun w => !(decide (k ≤ 8 * w) && decide (8 * w < k + n))) }

/-- A write performed for a core at the homes of its lines. -/
def homeStore (s : State) (c x va : Nat) (p : Place) (bs : List Byte) : State :=
  storeAt (if p.glob then
      (parts 128 va bs.length).foldl (fun t q => touchHome t c x q.1 q.2 { p with key := p.key + (q.1 - va) }) (install s x va p)
    else s) p.key bs

/-! Writes of the host and of the command cores. -/

/-- Where the host reaches a byte of device memory: the home of its frame's recorded leaf, or memory (R340). -/
def hostPlace (s : State) (tier pa : Nat) : Option (Nat × Nat × Place) :=
  let f := memKey tier pa / 4096
  (s.reverse.find? (fun r => decide (r.frame ≤ f) && decide (f < r.frame + r.count))).map (fun r =>
    let va := (r.page + (f - r.frame)) * 4096 + pa % 4096
    (r.ctx, va, { key := memKey tier pa, home := homeSlice (walkSlice r.ctx va) r.entry, glob := true, e := r.entry }))

/-- A part of a host write within one line: at the home as a store of a system-scope agent (R127), at memory when no leaf is
recorded; in host memory it snoops the home's copy of the line (R339); in a hole of decoder 0 it is dropped and logged (R339). -/
def hostWritePart (s : State) (tier pa : Nat) (bs : List Byte) : State :=
  if tier ≤ 1 ∧ physOk tier pa bs.length = true then
    match hostPlace s tier pa with
    | some (x, va, p) => storeAt (touchHome s 8192 x va bs.length p) p.key bs
    | none => storeAt s (memKey tier pa) bs
  else if tier = 2 ∧ physOk 2 pa bs.length = true then
    storeAt { s with hostLines := delN s.hostLines (memKey 2 pa / 128) } (memKey 2 pa) bs
  else s.modManage (fun m => { m with dropped := m.dropped + 1 })

/-- A write of a command core to device memory, or over CXL.cache to host memory (R127, R339). Over a link that enables no protocol nothing
reaches host memory; the spec does not say whether such a write waits. DESIGN CHOICE (log 51, unsafe). -/
def deviceWrite (s : State) (tier pa : Nat) (bs : List Byte) : State :=
  if tier = 2 ∧ s.manage.cxlUsable = false then s
  else (parts 128 pa bs.length).foldl (fun t q => hostWritePart t tier q.1 ((bs.drop (q.1 - pa)).take q.2)) s

end Sys2Proof.Machine
end

