-- ==== Sys2Proof/Machine/Ops.lean ====
section
/-!
DEFINITION. The named operations of the machine: windows and registers, control-register reads, messages and reports, taking an exception
and returning from one, the checks of R42, and the frame in which every instruction of a thread runs.
-/
namespace Sys2Proof.Machine

/-! Registers. Sources are read at issue (R22): a paired bundle's slots read the latched file. -/

/-- The file from which the bundle in issue reads its sources. -/
def State.srcFile (s : State) : SMap Word := s.iss.src.getD s.here.regs

/-- A scalar source: register N of the window, x0 reads zero (R9, R22, R159). -/
def rx (s : State) (n : Nat) : Word := if n = 0 then 0 else lookD s.srcFile (s.base + n) 0

/-- Set an entry of a core's file; every write sets it full (R25). -/
def setEntry (s : State) (c e : Nat) (v : Word) : State :=
  s.modCore c (fun k => { k with regs := putD k.regs e v 0, empty := delN k.empty e })

/-- Write register N of the window of the bundle in issue; a write to x0 is discarded (R22). -/
def wx (s : State) (n : Nat) (v : Word) : State := if n = 0 then s else setEntry s s.iss.core (s.base + n) v

/-- Lane `l` of a vector source (R78). -/
def rlane (s : State) (k l : Nat) : Lane :=
  (rx s (8 * k + l / 2)).extractLsb' (32 * (l % 2)) 32

/-- The sixteen lanes of a vector source (R78). -/
def rv (s : State) (k : Nat) : List Lane := (List.range 16).map (rlane s k)

/-- Lane `l` of a list. -/
def lane (v : List Lane) (l : Nat) : Lane := v.getD l 0

/-- The register j of a vector value: lanes 2j and 2j + 1 (R78). -/
def lanePair (v : List Lane) (j : Nat) : Word := lane v (2 * j + 1) ++ lane v (2 * j)

/-- Write a vector register (R78, R79). -/
def wv (s : State) (k : Nat) (v : List Lane) : State :=
  (List.range 8).foldl (fun t j => wx t (8 * k + j) (lanePair v j)) s

/-- The full/empty bit of an entry (R25). -/
def isEmpty (s : State) (n : Nat) : Bool := s.here.empty.contains (s.base + n)

/-- Empty register N of the window (R25). -/
def emptyReg (s : State) (n : Nat) : State :=
  s.modHere (fun k => { k with empty := insN k.empty (s.base + n) })

/-! Messages and reports. -/

/-- A gated core wakes (R21). -/
def State.wake (s : State) (c : Nat) : State := s.modCore c (fun k => { k with gated := false })

/-- Put a message at a core's station; a gated core wakes (R21, R167). -/
def arrive (s : State) (c : Nat) (m : Msg) : State :=
  s.modCore c (fun k => { k with station := k.station ++ [m], gated := false })

/-- Word 0 of a report: `res:13 thid:19 res:8 info:8 cause:8 code:8` (R138). -/
def reportWord (code cause info thid : Nat) : Word :=
  wd (thid % 2 ^ 19 * 2 ^ 32 + info % 256 * 2 ^ 16 + cause % 256 * 2 ^ 8 + code % 256)

/-- Send a message to the monitor of a context (R138, R317). -/
def toMonitor (s : State) (x : Nat) (ws : List Word) : State :=
  if (s.ctx x).monitorRec = 0 then s
  else arrive s (s.ctx x).monitor.1 { slot := (s.ctx x).monitor.2, words := ws, ctx := x, srcCore := 0, srcSlot := 0, srcUid := 0, counted := false, kind := .plain }

/-- Send a fault message to the pager of a context (R129, R186). -/
def toPager (s : State) (x : Nat) (ws : List Word) : State :=
  if (s.ctx x).pagerRec = 0 then s
  else arrive s (s.ctx x).pager.1 { slot := (s.ctx x).pager.2, words := ws, ctx := x, srcCore := 0, srcSlot := 0, srcUid := 0, counted := false, kind := .plain }

/-- Raise an MSI-X vector towards the host (R173, R177); a link that enables no protocol carries none (R339).
DESIGN CHOICE (log 51, unsafe). -/
def raiseVector (s : State) (v : Nat) : State := if s.manage.cxlUsable then s.modManage (fun m => { m with vectors := m.vectors ++ [v] }) else s

/-- A telemetry record: its `seq`, and its words, the header `seq:32 len:16 ver:8 type:8` first (R352). `moment` is that of its body.
DESIGN CHOICE (log 46, safe). -/
def recordAt (t seq moment : Nat) : Nat × List Word :=
  let n := Config.recordWords t
  (seq, wd (seq * 2 ^ 32 + (8 + 8 * n) % 2 ^ 16 * 2 ^ 16 + 256 + t % 256) :: (List.range n).map (Config.sensor t moment))

/-- The telemetry record of a type; one not written since module reset has seq 0 (R352). -/
def Manage.record (m : Manage) (t : Nat) : Nat × List Word := lookD m.telemetry t (recordAt t 0 0)

/-- The update of a record goes one way of its two: `seq` is odd from its beginning to its end (R352). -/
def telemetryTurn (t : Nat) (s : State) : State :=
  s.tick.2.modManage (fun m => { m with telemetry := put m.telemetry t (recordAt t (((m.record t).1 + 1) % 2 ^ 32) s.tick.1) })

/-- The update of a record ends, where one is on the way (R352). -/
def telemetryEnd (t : Nat) (s : State) : State := if (s.manage.record t).1 % 2 = 1 then telemetryTurn t s else s

/-- A telemetry record is written anew (R352): its `seq` is odd during the update and even after it; the update ends at once while accesses
are prompt. DESIGN CHOICE (log 46, safe). -/
def telemetry (t : Nat) (s : State) : State :=
  let s := if (s.manage.record t).1 % 2 = 1 then s else telemetryTurn t s
  if s.env.prompt then telemetryEnd t s else s

/-- Two banks change places (R354, R355): the update becomes active. `n` is the image's index among the measurements.
DESIGN CHOICE (log 45, unsafe). -/
def Firmware.activate (n : Nat) (f : Firmware) : Firmware :=
  match f.inactive with
  | some v => { active := some v, inactive := some (f.active.getD (Config.factoryVersion n)), pending := false }
  | none => { f with pending := false }

/-- The sequencer of a die passes its idle point: it runs a pending microcode from now on, and the activation is over when all eight do (R259,
R355). DESIGN CHOICE (log 45, unsafe). -/
def activateSequencer (d : Nat) (s : State) : State :=
  if s.manage.sequencer.pending then
    let ds := insN s.manage.seqDone d
    if (List.range 8).all ds.contains then
      telemetry 6 (s.modManage (fun m => { m with sequencer := m.sequencer.activate 4, seqDone := [] }))
    else s.modManage (fun m => { m with seqDone := ds })
  else s

/-- No context whose sheet home is a die has an open wave (R259). -/
def seqIdle (s : State) (d : Nat) : Bool := s.ctxs.all (fun p => p.2.home != d || p.2.waves.isEmpty)

/-- Write the event record of a context, the word at 0x18 last, and raise vector 2,047 (R173). DESIGN CHOICE (log 7, unsafe). -/
def hostEvent (s : State) (x kind thid : Nat) (cause tval : Word) : State :=
  let seq := ((s.ctx x).eventSeq + 1) % 2 ^ 32
  let s := s.modCtx x (fun k => { k with eventSeq := seq })
  match look (s.ctx x).queues 0 with
  | none => raiseVector s 2047
  | some q =>
    let s := if kind = 2 ∧ q.recTier ≠ 2 then s
      else deviceWrite (deviceWrite s q.recTier (q.record + 0x20) (toBytes 8 thid ++ toBytes 8 cause.toNat ++ toBytes 8 tval.toNat))
        q.recTier (q.record + 0x18) (toBytes 8 (seq * 2 ^ 32 + x % 4096 * 256 + kind))
    raiseVector s 2047

/-- The thread is the pager of its context. -/
def State.isPager (s : State) (x c t : Nat) : Bool :=
  (s.ctx x).pagerRec != 0 && (s.ctx x).pager == (c, t) && (s.slot c t).launch == 0

/-- The thread is the monitor of its context. -/
def State.isMonitor (s : State) (x c t : Nat) : Bool :=
  (s.ctx x).monitorRec != 0 && (s.ctx x).monitor == (c, t) && (s.slot c t).launch == 0

/-- A page fault, a double trap or MSGLIMIT of the pager or monitor moves the context to faulted (R128, R129). -/
def contextFaulted (s : State) (x thid : Nat) (cause tval : Word) : State :=
  if (s.ctx x).st = .runnable ∨ (s.ctx x).st = .running then
    hostEvent (s.modCtx x (fun k => { k with st := .faulted })) x 1 thid cause tval
  else s

/-! Taking an exception. -/

/-- A slot that waits no more. -/
def Slot.awake (l : Slot) : Slot :=
  { l with
    phase := .ready, wait := none, held := none, reply := none, mop := none, part := [], tile := none, leaf := none, expired := false, fence := none
    waitFrom := 0, waitSeq := 0 }

/-- A waiting slot whose bundle is tried again: it keeps the bundle, its latched sources and the count of its wait. -/
def Slot.again (l : Slot) : Slot := { l with phase := .ready, wait := none }

/-- A double trap (R137): the thread halts at its bundle and its `epc`, `cause` and `tval` stay; the monitor receives a
DOUBLETRAP report; a double trap of the pager or the monitor moves the context to faulted. -/
def doubleTrap (s : State) (c t code info : Nat) (tval : Word) : State :=
  let x := s.ctxOf c t
  let special := s.isPager x c t || s.isMonitor x c t
  let s := s.modSlot c t (fun l => { l.awake with phase := .halted })
  let s := toMonitor s x [reportWord 0x42 code info (thid c t), tval, wd ((s.slot c t).pc.toNat % 2 ^ 15)]
  if special then contextFaulted s x (thid c t) (causeWord code info) tval else s

/-- Trap entry (R135), one step: `epc`, a code address of 15 bits (R131), and the cause are saved, privilege and te are set, and the pc goes to `trapvec`;
with te set it is a double trap (R137). DESIGN CHOICE (log 52, unsafe). -/
def takeTrap (s : State) (c t code info : Nat) (tval epc : Word) : State :=
  if (s.slot c t).st.te then doubleTrap s c t code info tval
  else s.modSlot c t (fun l =>
    { l.awake with epc := epc &&& 0x7FFF, cause := causeWord code info, tval := tval, st := l.st.trapped, pc := l.trapvec, lastCause := (causeWord code info).toNat })

/-- A thread whose wait ends in a cycle is ready from the next (R157). -/
def Core.notBefore (t : Nat) (k : Core) : Core := { k with gated := false, turns := put k.turns t (max (lookD k.turns t 0) (k.cyc + 1)) }

/-- The trap of a thread that waits, or that a page fault has dropped: its core wakes, and it is ready from the next cycle (R21, R157). -/
def trapWaiting (s : State) (c t code info : Nat) (tval : Word) : State :=
  takeTrap (s.modCore c (Core.notBefore t)) c t code info tval (s.slot c t).pc

/-- The return from an exception (R140): the pc is `epc`, pv is ppv and te is clear. -/
def returnTrap (s : State) : State :=
  (s.modCur (fun l => { l with st := l.st.returned })).modIss (fun i => { i with npc := s.cur.epc })

/-! How a bundle ends. -/

/-- Why a bundle performs nothing more. `keep` carries the state that the trap starts from when something of the bundle
stands although it traps (a report taken, R109). -/
inductive Stop where
  | trap (code info : Nat) (tval : Word)
  | keep (t : State) (code info : Nat) (tval : Word)
  | wait (w : Wait) (t : State)
  | drop (t : State)
  deriving Repr, Inhabited

/-- What an instruction does: a next state, or a stop. -/
abbrev Act := State → Except Stop State

/-- Mark how the bundle in issue ended. -/
def State.ended (s : State) (o : Out) : State := s.modIss (fun i => { i with out := o })

/-- The thread of the bundle in issue leaves the rotation (R160). `late`: the bundle has passed steps 1 to 8 of R42, so
its sources are latched (R22). The count of the wait starts at issue (R206). -/
def park (s : State) (late : Bool) (w : Wait) : State :=
  let q := s.tick
  let l := s.cur
  let again := l.waitSeq != 0
  (q.2.modCur (fun m => { m with
    phase := .waiting
    wait := some w
    waitFrom := if again then l.waitFrom else s.here.cyc
    waitSeq := if again then l.waitSeq else q.1
    held := some ⟨s.iss.bundle, if late then some s.srcFile else none⟩ })).ended .waiting

/-- How a stopped bundle leaves the machine; `s` is the state before it (R43, R135, R161). A bundle that waits for a register with `!`
(R25) keeps no latch: its other sources are read after the wait, when step 9 of R42 follows. DESIGN CHOICE (log 64, unsafe). -/
def stopped (late : Bool) (s : State) : Stop → State
  | .trap code info tval => (takeTrap s s.iss.core s.iss.slot code info tval s.cur.pc).ended .trapped
  | .keep t code info tval => (takeTrap t s.iss.core s.iss.slot code info tval s.cur.pc).ended .trapped
  | .wait w t => park t late w
  | .drop t => t.ended .dropped

/-! The control registers, read (R131). -/

/-- The value of a control register as the bundle in issue reads it; a write-only register reads zero (R134). -/
def csrGet (s : State) : Csr → Word
  | .st => s.cur.st.word
  | .trapvec => s.cur.trapvec
  | .epc => s.cur.epc
  | .cause => s.cur.cause
  | .tval => s.cur.tval
  | .ssplit => wd s.here.spad
  | .vgroup => wd s.here.vgroup
  | .waitlim => s.cur.waitlim
  | .msglim => wd s.here.msglim
  | .viewlim => s.cur.viewlim
  | .unack => wd s.cur.unack
  | .ctxid => wd s.myCtx
  | .thid => wd (thid s.iss.core s.iss.slot)
  | .wbase => wd s.base
  | .wlim => wd (winOf s.iss.slot s.cur).2
  | .dtsel => if s.cur.dtsel then 1 else 0
  | .prio => wd s.cur.prio
  | .cyc => wd s.here.cyc
  | .mb _ => 0

/-- The registers that only a privileged thread may write, in a slot (R131, R134). -/
def csrPrw (slot : Nat) : Csr → Bool
  | .trapvec | .epc | .cause | .tval | .ssplit | .vgroup | .msglim | .viewlim | .prio => true
  | .wbase | .wlim => !fixedSlot slot
  | _ => false

/-- The bits of `st` that only a privileged thread may change: ss, ppv, pv, te, pp (R132). -/
def stPrw : Word := 0x2F

/-- The value that a control-register instruction writes (R134). -/
def csrNew (s : State) : Instr → Word
  | .csrw _ _ a => rx s a
  | .csrs _ r a => csrGet s r ||| rx s a
  | .csrc _ r a => csrGet s r &&& ~~~ rx s a
  | _ => 0

/-- A control-register write that an unprivileged thread may not make (R134). -/
def csrForbidden (s : State) (i : Instr) : Bool :=
  match i with
  | .csrw _ r a | .csrs _ r a | .csrc _ r a =>
    csrPrw s.iss.slot r || (r == .st && decide (a < s.size) && (csrNew s i ^^^ csrGet s .st) &&& stPrw != 0)
  | _ => false

/-! The format descriptor (R40, R52, R252). -/

/-- The fields of a descriptor. -/
def dFa (l : Lane) : Nat := bits l.toNat 31 28
def dFb (l : Lane) : Nat := bits l.toNat 27 24
def dFd (l : Lane) : Nat := bits l.toNat 23 20
def dOvf (l : Lane) : Bool := l.getLsbD 19
def dRnd (l : Lane) : Nat := bits l.toNat 18 16
def dDt (l : Lane) : Bool := l.getLsbD 15

/-- A rounding mode by its code (R59). -/
def rndOf : Nat → Option Rnd
  | 0 => some .rne | 1 => some .rtz | 2 => some .rdn | 3 => some .rup | 4 => some .rna | _ => none

/-- The format of a code in a descriptor: the codes of R40; 0xD to 0xF are not assigned there (R50). -/
def descFmt (n : Nat) : Option Fmt := if n ≤ 0xC then Fmt.ofCode n else none

/-- The formats and modes of a conversion: its own, or those of the latched descriptor, which must hold an accepted pair
and an assigned rounding mode (R40, R52). -/
def convFmts (pair : Fmt → Fmt → Bool) (l : Lane) : Conv → Option (Fmt × Fmt × Bool × Rnd × Bool)
  | .lit d a o r t => some (d, a, o, r, t)
  | .pend =>
    match descFmt (dFd l), descFmt (dFa l), rndOf (dRnd l) with
    | some d, some a, some r => if pair d a then some (d, a, dOvf l, r, dDt l) else none
    | _, _, _ => none

/-- The operand formats and destination of a form (R251). -/
def formFmts : MForm → Option (Fmt × Fmt × Fmt)
  | .pend => none
  | .f64 => some (.f64, .f64, .f64)
  | .f32 => some (.f32, .f32, .f32)
  | .bf16 => some (.bf16, .bf16, .f32)
  | .f16 => some (.f16, .f16, .f32)
  | .code8 => some (.code8, .code8, .f32)
  | .mx => some (.mx, .mx, .f32)
  | .i8 => some (.i8, .i8, .i32)

/-- Operand formats that a matrix descriptor may name, with their destination (R252). -/
def mmaTriple (a b d : Fmt) : Bool :=
  [(Fmt.f64, Fmt.f64, Fmt.f64), (.f32, .f32, .f32), (.bf16, .bf16, .f32), (.f16, .f16, .f32), (.code8, .code8, .f32),
    (.mx, .mx, .f32), (.i8, .i8, .i32), (.bf16, .f16, .f32), (.f16, .bf16, .f32)].contains (a, b, d)

/-- The operand formats, destination and decode table of a matrix operation: its form and dtsel, or the latched
descriptor (R62, R251, R252). -/
def mmaFmts (l : Lane) (dtsel : Bool) (f : MForm) : Option (Fmt × Fmt × Fmt × Bool) :=
  match formFmts f with
  | some (a, b, d) => some (a, b, d, dtsel)
  | none =>
    match descFmt (dFa l), descFmt (dFb l), descFmt (dFd l) with
    | some a, some b, some d => if mmaTriple a b d && dRnd l == 0 then some (a, b, d, dDt l) else none
    | _, _, _ => none

/-- The pending descriptor does not serve the instruction (R36, R40, R104). -/
def prefixFails (s : State) (i : Instr) : Bool :=
  if s.cur.st.pp then
    match i with
    | .fcvt c _ _ => c != .pend || (convFmts fcvtPair s.cur.latch c).isNone
    | .vcvt c _ _ => c != .pend || (convFmts vcvtPair s.cur.latch c).isNone
    | .vquant c _ _ => c != .pend || (convFmts vquantPair s.cur.latch c).isNone
    | .vdeq c _ _ => c != .pend || (convFmts vdeqPair s.cur.latch c).isNone
    | .mma f _ _ _ _ | .mmaz f _ _ _ _ => f != .pend || (mmaFmts s.cur.latch s.iss.dt f).isNone
    | .fmt _ => true
    | _ => aClass i
  else false

/-! The checks of R42. -/

/-- Cases of R41 that depend on the state: a consumer in prefix form without a pending prefix (R40, R52), and ERET
outside a handler (R140). R140 names both PRIV and an illegal encoding for the ERET of an unprivileged thread outside a handler; the model
takes step 3 of R42 before step 5. DESIGN CHOICE (log 57, unsafe). -/
def illegalNow (s : State) (i : Instr) : Bool :=
  (consumer i == some false && !s.cur.st.pp) || (i == .eret && !s.cur.st.te)

/-- Step 5 of R42. -/
def privFails (s : State) (i : Instr) : Bool := !s.priv && (privileged i || csrForbidden s i)

/-- The first register field beyond the window, as `tval` shows it (R32, R136). -/
def Field.beyond (size : Nat) (f : Field) : Option Nat :=
  if f.vec then (if 8 * f.n + 7 < size then none else some (8 * f.n)) else if f.n < size then none else some f.n

/-- Step 6 of R42: the register or accumulator that fails (R32, R238). Of several registers of one instruction the first in the order
a, b, the mask vector of VSEL, d, d + 1 is named. DESIGN CHOICE (log 57, unsafe). -/
def windowFails (s : State) (i : Instr) : Option Nat :=
  match (regFields i).findSome? (·.beyond s.size) with
  | some n => some n
  | none =>
    match accField i with
    | some n => if n < s.cur.accs.length then none else some (0x80 + n)
    | none => none

/-- The bundle's empty registers among those named with `!`, in ascending order (R25). -/
def emptyBangs (s : State) (is : List Instr) : List Nat :=
  ((is.flatMap syncRegs).foldl insN []).filter (isEmpty s)

/-- A failed stream bound to an empty register that the bundle reads with `!` (R236): the trap's info and value. -/
def streamFailure (s : State) (rs : List Nat) : Option (Nat × Nat) :=
  rs.findSome? (fun r =>
    match s.cur.streams.find? (fun t => t.reg == r) with
    | some t => (match t.st with | .failed info addr => some (info, addr) | _ => none)
    | none => none)

/-- The format is decoded or encoded through a table (R62). -/
def tabled (f : Fmt) : Bool := f == .code8 || f == .mx

/-- The decode table that an instruction reads (R62), with the latched descriptor and dtsel. -/
def tableReadBy (latch : Lane) (dtsel : Bool) (i : Instr) : Option Bool :=
  let conv := fun (pair : Fmt → Fmt → Bool) (c : Conv) =>
    (convFmts pair latch c).bind (fun f => if tabled f.1 || tabled f.2.1 then some f.2.2.2.2 else none)
  match i with
  | .fcvt c _ _ => conv fcvtPair c
  | .vcvt c _ _ => conv vcvtPair c
  | .vquant c _ _ => conv vquantPair c
  | .vdeq c _ _ => conv vdeqPair c
  | .mma f _ _ _ _ | .mmaz f _ _ _ _ =>
    (mmaFmts latch dtsel f).bind (fun f => if tabled f.1 || tabled f.2.1 then some f.2.2.2 else none)
  | _ => none

/-- The decode table that an instruction of the bundle in issue reads. -/
def tableRead (s : State) (i : Instr) : Option Bool := tableReadBy s.cur.latch s.iss.dt i

/-- The instruction reads a table whose replacement is held (R75, R77). -/
def tableHeld (s : State) (i : Instr) : Bool :=
  match tableRead s i with
  | some dt => (look s.here.newTable (if dt then 1 else 0)).isSome
  | none => false

/-- Steps 3 and 5 to 8 of R42 for the instructions of a bundle, the C-slot first; an operation on a table whose replacement is
held is parked (R77). DESIGN CHOICE (log 57, unsafe). -/
def checks (s : State) (is : List Instr) : Except Stop Unit :=
  if is.any (illegalNow s) then .error (.trap cILLEGAL 0 (wd s.iss.bundle))
  else if is.any (privFails s) then .error (.trap cPRIV 0 (wd s.iss.bundle))
  else
    match is.findSome? (windowFails s) with
    | some n => .error (.trap cWINDOW 0 (wd n))
    | none =>
      if is.any (prefixFails s) then .error (.trap cPREFIX 0 (wd s.iss.bundle))
      else if (emptyBangs s is).isEmpty then
        (if is.any (tableHeld s) then .error (.wait (.retry .unbounded) s) else .ok ())
      else
        match streamFailure s (emptyBangs s is) with
        | some f => .error (.trap cSTREAM f.1 (wd f.2))
        | none => .error (.wait (.retry (.sync (emptyBangs s is))) s)

/-! Retirement. -/

/-- At retirement the registers named with `!` are emptied, but those that the bundle writes (R25). -/
def emptySync (s : State) (is : List Instr) : State :=
  ((is.flatMap syncRegs).filter (fun r => !(is.flatMap Instr.writes).contains r)).foldl emptyReg s

/-- A consumer clears the pending prefix at retirement (R104). -/
def consume (s : State) (is : List Instr) : State :=
  if is.any (fun i => (consumer i).isSome) then s.modCur (fun l => { l with st := { l.st with pp := false } }) else s

/-- Whether a value differs from a window bound that fits (R133): the new window and its overlap with the window of
another live slot. -/
def windowBad (s : State) (lo hi : Nat) : Bool :=
  decide (hi < lo + 8) || decide (lo + 128 < hi) || s.here.slots.any (fun p =>
    p.1 != s.iss.slot && p.2.phase != .free && decide ((winOf p.1 p.2).1 < hi) && decide (lo < (winOf p.1 p.2).2))
    || decide (1984 < hi)

/-- Entries that join the window read zero and full (R133). -/
def joinWindow (s : State) (c lo hi lo' hi' : Nat) : State :=
  ((List.range (hi' - lo')).map (lo' + ·)).foldl (fun t e => if lo ≤ e ∧ e < hi then t else setEntry t c e 0) s

/-- Move the window of the thread in issue (R133). -/
def moveWindow (s : State) (lo' hi' : Nat) : State :=
  let l := s.cur
  (joinWindow s s.iss.core l.wbase l.wlim lo' hi').modCur (fun l => { l with wbase := lo', wlim := hi' })

/-- What follows both slots of a bundle, but the end of a thread. TRAP and BKPT save the address of the next bundle
(R135, R139). -/
def applyPost (s : State) : Post → State
  | .trap code tval => (takeTrap s s.iss.core s.iss.slot code 0 tval (s.cur.pc + 8)).ended .trapped
  | .exit => s
  | .window lim v => if lim then moveWindow s s.cur.wbase v else moveWindow s v s.cur.wlim
  | .yield => s.modCur (fun l => { l with yielded := some (s.here.issued, s.here.cyc) })

/-- An effect that follows the bundle: at once when the instruction is alone, else after both slots. -/
def after (s : State) (p : Post) : State :=
  if s.iss.pair then s.modIss (fun i => { i with post := i.post ++ [p] }) else applyPost s p

/-- Retirement of a bundle: the emptying of R25 and the consumption of R104. -/
def retire (s : State) (is : List Instr) : State := consume (emptySync s is) is

/-- The body of an instruction between the checks of R42 and retirement. Within a paired bundle, `Step` has made the
checks and retires the bundle after its second slot. -/
def runBundle (i : Instr) (body : Act) (s : State) : State :=
  match (if s.iss.passed then .ok () else checks s [i]) with
  | .error e => stopped false s e
  | .ok () =>
    match body s with
    | .error e => stopped true s e
    | .ok t => if s.iss.pair then t else retire t [i]

/-- The frame of every instruction of a thread. An ill-formed term is refused; a slot without a ready thread is a
fault that no step meets. DESIGN CHOICE (log 55, safe). -/
def guard (i : Instr) (body : Act) (s : State) : Host.Outcome State Fault Refusal :=
  if i.wf then
    if s.cur.phase = .ready then .next (runBundle i body s) else .fault .noThread
  else .refused .illFormed

/-- The body of an instruction that only writes a scalar register from values it reads (R79). -/
def setX (d : Nat) (f : State → Word) : Act := fun s => .ok (wx s d (f s))

/-- The body of an instruction that only writes a vector register from values it reads (R79). -/
def setV (d : Nat) (f : State → List Lane) : Act := fun s => .ok (wv s d (f s))

/-- The frame of every event: `ok` says that the agents it names exist (R13, R16), as `Instr.wf` does.
DESIGN CHOICE (log 55, safe). -/
def event (ok : Bool) (f : State → State) (s : State) : Host.Outcome State Fault Refusal :=
  if ok then .next (f s) else .refused .illFormed

end Sys2Proof.Machine
end

