-- ==== Sys2Proof/Machine/Float.lean ====
section
/-!
DEFINITION. Floating-point values, their formats, rounding and arithmetic (R55 to R61, R69, R89 to R94). Every operation is
computed exactly on values `m · 2^e` and rounded once.
-/
namespace Sys2Proof.Machine

/-- A floating-point value: a NaN, an infinity, or `± m · 2^e`. -/
inductive FVal where
  | nan
  | inf (neg : Bool)
  | fin (neg : Bool) (m : Nat) (e : Int)
  deriving DecidableEq, Repr, Inhabited

/-- A format: exponent bits and mantissa bits (R55, R57). -/
structure FFmt where
  eb : Nat
  mb : Nat
  deriving DecidableEq, Repr, Inhabited

def b64 : FFmt := ⟨11, 52⟩
def b32 : FFmt := ⟨8, 23⟩
def bf16 : FFmt := ⟨8, 7⟩
def f16 : FFmt := ⟨5, 10⟩
def e8m10 : FFmt := ⟨8, 10⟩

/-- The exponent of the least quantum of a format: 1 − bias − mb. -/
def FFmt.low (f : FFmt) : Int := 2 - (2 ^ (f.eb - 1) : Nat) - (f.mb : Int)

/-- The magnitude bits of infinity. -/
def FFmt.infBits (f : FFmt) : Nat := (2 ^ f.eb - 1) * 2 ^ f.mb

/-- The sign bit. -/
def FFmt.signBit (f : FFmt) : Nat := 2 ^ (f.eb + f.mb)

/-- The canonical quiet NaN (R56). -/
def FFmt.nanBits (f : FFmt) : Nat := f.infBits + 2 ^ (f.mb - 1)

/-- The value of bits in a format (R55, R57). -/
def FFmt.dec (f : FFmt) (v : Nat) : FVal :=
  let neg := v / f.signBit % 2 == 1
  let mag := v % f.signBit
  let e := mag / 2 ^ f.mb
  let m := mag % 2 ^ f.mb
  if f.infBits < mag then .nan
  else if mag = f.infBits then .inf neg
  else if e = 0 then .fin neg m f.low
  else .fin neg (m + 2 ^ f.mb) (f.low + (e - 1 : Nat))

/-- Whether a remainder `rem` of `d` rounds the magnitude up (R59). -/
def roundUp (r : Rnd) (neg odd : Bool) (rem d : Nat) : Bool :=
  match r with
  | .rne => decide (d < 2 * rem) || (decide (2 * rem = d) && odd)
  | .rtz => false
  | .rdn => neg && decide (0 < rem)
  | .rup => !neg && decide (0 < rem)
  | .rna => decide (d ≤ 2 * rem)

/-- `m / 2^s` rounded to an integer. -/
def roundShift (r : Rnd) (neg : Bool) (m s : Nat) : Nat :=
  let q := m / 2 ^ s
  if roundUp r neg (q % 2 == 1) (m % 2 ^ s) (2 ^ s) then q + 1 else q

/-- The magnitude bits to which a finite value rounds, with the exponent unbounded above. -/
def FFmt.roundMag (f : FFmt) (r : Rnd) (neg : Bool) (m : Nat) (e : Int) : Nat :=
  let q := max f.low ((Nat.log2 m : Int) + e - f.mb)
  let k := if q ≤ e then m * 2 ^ (e - q).toNat else roundShift r neg m (q - e).toNat
  (q - f.low).toNat * 2 ^ f.mb + k

/-- The result of an overflow: the largest finite value or infinity (R61). -/
def FFmt.overflow (f : FFmt) (r : Rnd) (sat neg : Bool) : Nat :=
  if sat then f.infBits - 1
  else
    match r with
    | .rne | .rna => f.infBits
    | .rtz => f.infBits - 1
    | .rup => if neg then f.infBits - 1 else f.infBits
    | .rdn => if neg then f.infBits else f.infBits - 1

/-- Round a value to the bits of a format (R59, R61). An infinity under `.sat` gives the largest finite value, as R61's table says of an
overflow, in a widening conversion too, which R58 and R61 also call exact.
PRESUMED (log 60, unsafe). DESIGN CHOICE (log 72, unsafe). -/
def FFmt.enc (f : FFmt) (r : Rnd) (sat : Bool) : FVal → Nat
  | .nan => f.nanBits
  | .inf neg => (if neg then f.signBit else 0) + (if sat then f.infBits - 1 else f.infBits)
  | .fin neg m e =>
    let g := if m = 0 then 0 else f.roundMag r neg m e
    (if neg then f.signBit else 0) + (if f.infBits ≤ g then f.overflow r sat neg else g)

/-- Round to nearest-even, the mode of every operation without a modifier (R60). -/
def FFmt.rne (f : FFmt) (v : FVal) : Nat := f.enc .rne false v

def FVal.isNan : FVal → Bool
  | .nan => true
  | _ => false

def FVal.negate : FVal → FVal
  | .nan => .nan
  | .inf n => .inf (!n)
  | .fin n m e => .fin (!n) m e

/-- The signed integer `± m`. -/
def signedNat (neg : Bool) (m : Nat) : Int := if neg then -(m : Int) else m

/-- A value from a signed integer and an exponent; a zero takes the given sign. -/
def FVal.ofInt (i : Int) (e : Int) (zneg : Bool) : FVal :=
  if i = 0 then .fin zneg 0 e else .fin (decide (i < 0)) i.natAbs e

/-- The exact sum (R56, R69, R89): a zero sum is +0 but for (−0) + (−0). PRESUMED (log 60, unsafe). -/
def FVal.add : FVal → FVal → FVal
  | .nan, _ | _, .nan => .nan
  | .inf a, .inf b => if a = b then .inf a else .nan
  | .inf a, _ => .inf a
  | _, .inf b => .inf b
  | .fin a m e, .fin b n g =>
    let l := min e g
    .ofInt (signedNat a (m * 2 ^ (e - l).toNat) + signedNat b (n * 2 ^ (g - l).toNat)) l (a && b)

/-- The exact product. PRESUMED (log 60, unsafe). -/
def FVal.mul : FVal → FVal → FVal
  | .nan, _ | _, .nan => .nan
  | .inf a, .inf b => .inf (a != b)
  | .inf a, .fin b n _ => if n = 0 then .nan else .inf (a != b)
  | .fin a m _, .inf b => if m = 0 then .nan else .inf (a != b)
  | .fin a m e, .fin b n g => .fin (a != b) (m * n) (e + g)

/-- Multiply by a power of two. -/
def FVal.scale (v : FVal) (k : Int) : FVal :=
  match v with
  | .fin a m e => .fin a m (e + k)
  | v => v

/-- The quotient, to more bits than any format holds, with a last bit that says whether it is inexact (R91).
PRESUMED (log 60, unsafe). -/
def FVal.div : FVal → FVal → FVal
  | .nan, _ | _, .nan => .nan
  | .inf _, .inf _ => .nan
  | .inf a, .fin b _ _ => .inf (a != b)
  | .fin a _ _, .inf b => .fin (a != b) 0 0
  | .fin a m e, .fin b n g =>
    if n = 0 then (if m = 0 then .nan else .inf (a != b))
    else
      let k := 128 + Nat.log2 n
      let x := m * 2 ^ k
      .fin (a != b) (2 * (x / n) + (if x % n = 0 then 0 else 1)) (e - g - k - 1)

/-- The integer square root, from its bit `i` down. -/
def isqrtFrom (x : Nat) : Nat → Nat → Nat
  | 0, r => if (r + 1) * (r + 1) ≤ x then r + 1 else r
  | i + 1, r => isqrtFrom x i (if (r + 2 ^ (i + 1)) * (r + 2 ^ (i + 1)) ≤ x then r + 2 ^ (i + 1) else r)

/-- The integer square root. -/
def isqrt (x : Nat) : Nat := isqrtFrom x (Nat.log2 x / 2) 0

/-- The square root, with a last bit that says whether it is inexact (R90). PRESUMED (log 60, unsafe). -/
def FVal.sqrt : FVal → FVal
  | .nan => .nan
  | .inf neg => if neg then .nan else .inf false
  | .fin neg m e =>
    if m = 0 then .fin neg 0 e
    else if neg then .nan
    else
      let odd := e % 2
      let x := m * 2 ^ (128 + odd.toNat)
      let r := isqrt x
      .fin false (2 * r + (if r * r = x then 0 else 1)) ((e - odd) / 2 - 65)

/-- The reciprocal square root (R94). -/
def FVal.rsqrt : FVal → FVal
  | .nan => .nan
  | .inf neg => if neg then .nan else .fin false 0 0
  | .fin neg m e =>
    if m = 0 then .inf neg
    else if neg then .nan
    else
      let odd := e % 2
      let n := m * 2 ^ odd.toNat
      let x := 2 ^ 192 / n
      let r := isqrt x
      .fin false (2 * r + (if r * r * n = 2 ^ 192 then 0 else 1)) (-(e - odd) / 2 - 97)

/-- Terms of the series of e^x in fixed point with 160 bits. -/
def expTerms (x : Nat) : Nat → Nat → Nat → Nat → Nat
  | 0, _, _, acc => acc
  | n + 1, k, t, acc => expTerms x n (k + 1) (t * x / 2 ^ 160 / k) (acc + t * x / 2 ^ 160 / k)

/-- The natural logarithm of 2 with 160 bits after the point. -/
def ln2 : Nat := 0xB17217F7D1CF79ABC9E3B39803F2F6AF40F34326

/-- 2 to a finite power, to 160 bits (R94). A power that is no integer has an irrational result, so the last bit says inexact. -/
def exp2Fin (neg : Bool) (m : Nat) (e : Int) : FVal :=
  if 0 ≤ e then
    if 12 < Nat.log2 m + e.toNat then (if neg then .fin false 1 (-100000) else .fin false 1 100000)
    else .fin false 1 (signedNat neg (m * 2 ^ e.toNat))
  else
    let s := (-e).toNat
    let i := signedNat neg m
    let n := i / (2 ^ s : Nat)
    let f := (i % (2 ^ s : Nat)).toNat
    if n < -4096 then .fin false 1 (-100000)
    else if 4096 < n then .fin false 1 100000
    else if f = 0 then .fin false 1 n
    else
      let x := f * 2 ^ 160 / 2 ^ s * ln2 / 2 ^ 160
      .fin false (2 * expTerms x 48 1 (2 ^ 160) (2 ^ 160) + 1) (n - 161)

/-- 2^a (R94). PRESUMED (log 60, unsafe). -/
def FVal.exp2 : FVal → FVal
  | .nan => .nan
  | .inf neg => if neg then .fin false 0 0 else .inf false
  | .fin neg m e => exp2Fin neg m e

/-- Bits of the base-2 logarithm of `y / 2^320`, 1 ≤ y / 2^320 < 2, by repeated squaring. -/
def log2Bits : Nat → Nat → Nat → Nat
  | 0, _, acc => acc
  | n + 1, y, acc =>
    let z := y * y / 2 ^ 320
    if 2 ^ 321 ≤ z then log2Bits n (z / 2) (2 * acc + 1) else log2Bits n z (2 * acc)

/-- log2 a (R94). PRESUMED (log 60, unsafe). -/
def FVal.log2 : FVal → FVal
  | .nan => .nan
  | .inf neg => if neg then .nan else .inf false
  | .fin neg m e =>
    if m = 0 then .inf true
    else if neg then .nan
    else
      let l := Nat.log2 m
      let n : Int := l + e
      if m = 2 ^ l then .ofInt n 0 false
      else
        let y := m * 2 ^ 320 / 2 ^ l
        .ofInt (2 * (n * (2 ^ 128 : Nat) + (log2Bits 128 y 0 : Nat)) + 1) (-129) false

/-- A total order of the values that are no NaN, −0 below +0 (R56, R98): the pattern as a signed number. -/
def FFmt.order (f : FFmt) (v : Nat) : Int :=
  if f.signBit ≤ v then -1 - (v - f.signBit : Nat) else v

/-- The pattern is a NaN. -/
def FFmt.isNan (f : FFmt) (v : Nat) : Bool := decide (f.infBits < v % f.signBit)

/-- FMIN, FMAX, VMIN, VMAX and the reductions (R56). -/
def FFmt.min (f : FFmt) (a b : Nat) : Nat :=
  if f.isNan a || f.isNan b then f.nanBits else if f.order b < f.order a then b else a
def FFmt.max (f : FFmt) (a b : Nat) : Nat :=
  if f.isNan a || f.isNan b then f.nanBits else if f.order a < f.order b then b else a

def FFmt.addB (f : FFmt) (a b : Nat) : Nat := f.rne ((f.dec a).add (f.dec b))
def FFmt.subB (f : FFmt) (a b : Nat) : Nat := f.rne ((f.dec a).add (f.dec b).negate)
def FFmt.mulB (f : FFmt) (a b : Nat) : Nat := f.rne ((f.dec a).mul (f.dec b))
def FFmt.fmaB (f : FFmt) (a b c : Nat) : Nat := f.rne (((f.dec a).mul (f.dec b)).add (f.dec c))
def FFmt.divB (f : FFmt) (a b : Nat) : Nat := f.rne ((f.dec a).div (f.dec b))
def FFmt.sqrtB (f : FFmt) (a : Nat) : Nat := f.rne (f.dec a).sqrt

/-- The pattern with the sign inverted, and with the sign cleared (R90). -/
def FFmt.negB (f : FFmt) (a : Nat) : Nat := if f.signBit ≤ a then a - f.signBit else a + f.signBit
def FFmt.absB (f : FFmt) (a : Nat) : Nat := a % f.signBit

/-- A relation between patterns (R91): −0 and +0 are equal. -/
def FFmt.rel (f : FFmt) (r : Rel) (a b : Nat) : Bool :=
  if f.isNan a || f.isNan b then r == .ne || r == .un
  else
    let zero := decide (a % f.signBit = 0) && decide (b % f.signBit = 0)
    match r with
    | .eq => zero || decide (a = b)
    | .ne => !(zero || decide (a = b))
    | .lt => !zero && decide (f.order a < f.order b)
    | .le => zero || decide (f.order a ≤ f.order b)
    | .un => false

/-- The class of a pattern, one bit (R90). -/
def FFmt.classBit (f : FFmt) (v : Nat) : Nat :=
  let neg := decide (f.signBit ≤ v)
  let mag := v % f.signBit
  if f.infBits < mag then (if mag % 2 ^ f.mb < 2 ^ (f.mb - 1) then 8 else 9)
  else if mag = f.infBits then (if neg then 0 else 7)
  else if mag = 0 then (if neg then 3 else 4)
  else if mag < 2 ^ f.mb then (if neg then 2 else 5)
  else (if neg then 1 else 6)

end Sys2Proof.Machine
end

