-- ==== Sys2Proof/Machine/Memory.lean ====
section
/-!
DEFINITION. Memory as the threads and engines reach it: page faults and their records (R186), ranges, the split (R191), and the loads and
stores of a thread (R109 to R113, R118).
-/
namespace Sys2Proof.Machine

/-! Page faults. -/

/-- The token of a fault record: `res:23 slice:9 seq:32` (R186). DESIGN CHOICE (log 6, unsafe). -/
def faultToken (slice seq : Nat) : Nat := slice * 2 ^ 32 + seq % 2 ^ 32

/-- The message of a record (R186). -/
def faultWords (f : FaultRec) : List Word :=
  [wd (faultToken f.slice f.seq), wd f.va,
    wd (f.src * 2 ^ 41 + f.acc * 2 ^ 39 + f.kind * 2 ^ 37 + f.cause * 2 ^ 29 + f.lvl * 2 ^ 26 + f.thid), f.entry]

/-- Open a new record at a slice: it takes the next number and sends its message (R186). -/
def openRecord (s : State) (f : FaultRec) : State × Nat :=
  let n := (lookD s.faultSeq f.slice 0 + 1) % 2 ^ 32
  let g := { f with seq := n, open_ := true }
  (toPager { s with faultSeq := put s.faultSeq f.slice n, faults := s.faults ++ [g] } f.ctx (faultWords g), faultToken f.slice n)

/-- Records in use at a slice. -/
def openAt (s : State) (slice : Nat) : Nat := (s.faults.filter (fun f => f.slice == slice && f.open_)).length

/-- Two faults share a record (R186). -/
def FaultRec.joins (f g : FaultRec) : Bool :=
  f.slice == g.slice && f.ctx == g.ctx && f.va / 4096 == g.va / 4096 && f.kind == g.kind && f.acc == g.acc && f.cause == g.cause

/-- A thread's wait; whose it is. -/
def Waiting.thread? : Waiting → Option (Nat × Nat × Nat)
  | .thread c t uid _ => some (c, t, uid)
  | _ => none

/-- The open record that a fault joins (R186). A bundle that was dropped, saved and issued again sends a message of its own, so it does
not join the record of its earlier fault (R142). -/
def recordFor (s : State) (f : FaultRec) : Option FaultRec :=
  s.faults.find? (fun g => g.open_ && f.joins g
    && !f.joined.any (fun w => w.1.thread?.isSome && g.joined.any (fun v => v.1.thread? == w.1.thread?)))

/-- A fault at a slice joins an open record, opens a new one when one of the sixteen is free, or waits for one (R186). -/
def admitOne (s : State) (f : FaultRec) : State :=
  match recordFor s f with
  | some g => { s with faults := modFirst (· == g) (fun g => { g with joined := g.joined ++ f.joined }) s.faults }
  | none => if openAt s f.slice < 16 then (openRecord s f).1 else { s with faults := s.faults ++ [f] }

/-- A page fault is raised at its slice (R186); `w` makes its waiter of the fault's number, which is returned.
DESIGN CHOICE (log 6, unsafe; log 20, unsafe). -/
def raiseFault (s : State) (x va src acc thid : Nat) (p : PFault) (w : Nat → Waiting) : State × Nat :=
  (admitOne s.tick.2 ⟨p.slice, 0, false, x, va, src, acc, p.kind, p.cause, p.lvl, thid, p.entry, [(w s.tick.1, va)]⟩, s.tick.1)

/-- A thread is dropped for a page fault (R160, R161). -/
def Slot.drop (n : Nat) (l : Slot) : Slot := { l.awake with phase := .dropped, waitSeq := n }

/-- The bundle in issue is dropped for a page fault (R160, R161, R186); a fault of the pager or monitor moves the context to
faulted, and the bundle is issued again once the context runs (R129). -/
def dropBundle (s : State) (va : Word) (g : Rights) (f : PFault) : Stop :=
  let x := s.myCtx
  if s.isPager x s.iss.core s.iss.slot || s.isMonitor x s.iss.core s.iss.slot then
    .drop ((contextFaulted s x (thid s.iss.core s.iss.slot) (causeWord f.cause 0) va).modCur Slot.awake)
  else
    let r := raiseFault s x va.toNat 0 g.acc (thid s.iss.core s.iss.slot) f (.thread s.iss.core s.iss.slot s.cur.uid)
    .drop (r.1.modCur (Slot.drop r.2))

/-- What a refused access does to the bundle in issue (R107, R109, R186). -/
def refusal (s : State) (va : Word) (g : Rights) : Refuse → Stop
  | .trap code tval => .trap code 0 tval
  | .far => .trap g.cause 0 va
  | .fault f => dropBundle s va g f

/-! Ranges: accesses that an instruction or an engine makes in several parts, all checked before any is performed. -/

/-- Where the parts of a range go, or the first address that is refused. DESIGN CHOICE (log 14, unsafe). -/
def locateRange (s : State) (x : Nat) (priv : Bool) (va : Word) (n : Nat) (g : Rights) :
    Except (Word × Refuse) (List (Nat × Nat × Place)) :=
  (parts 4096 va.toNat n).mapM (fun (p : Nat × Nat) =>
    match locate s x priv (wd p.1) p.2 g with
    | .ok q => .ok (p.1, p.2, q)
    | .error e => .error (wd p.1, e))

/-- The bytes of located parts. -/
def rangeBytes (s : State) (ps : List (Nat × Nat × Place)) : List Byte := ps.flatMap (fun p => loadAt s p.2.2 p.2.1)

/-- The first poisoned word of located parts. -/
def rangePoison (s : State) (ps : List (Nat × Nat × Place)) : Option Word :=
  ps.findSome? (fun p => poisonedAt s p.2.2 (wd p.1) p.2.1)

/-- Store bytes over located parts for a core. DESIGN CHOICE (log 14, unsafe). -/
def rangeStore (s : State) (c x : Nat) : List (Nat × Nat × Place) → List Byte → State
  | [], _ => s
  | (va, n, p) :: t, bs => rangeStore (homeStore s c x va p (bs.take n)) c x t (bs.drop n)

/-! The split of the local array. -/

/-- Shift rising keys of a region: by `d` up, or down with `up` false; keys that leave the region go. -/
def shiftKeys (lo hi d : Nat) (up : Bool) (k : Nat) : Option Nat :=
  if lo ≤ k ∧ k < hi then
    (if up then (if k + d < hi then some (k + d) else none) else if lo + d ≤ k then some (k - d) else none)
  else some k

/-- Move the split of a core (R191), one event. A larger scratchpad has a new region of zeros with empty tags at its
lowest offsets, a smaller one loses its lowest bytes; every ring is unset (R243); the lines in the region that leaves the cache are
removed: registered words are written back, clean lines and victims are dropped. -/
def moveSplit (s : State) (c new : Nat) : State :=
  let old := (s.core c).spad
  if new = old then s
  else
    let d := 16384 * (max new old - min new old)
    let lo := spadKey c 0
    let hi := lo + 2 ^ 20
    let up := decide (old < new)
    let s := { s with
      mem := s.mem.filterMap (fun (p : Host.Cell) => (shiftKeys lo hi d up p.1).map (fun k => (k, p.2)))
      full := s.full.filterMap (shiftKeys (lo / 8) (hi / 8) (d / 8) up)
      poison := s.poison.filterMap (shiftKeys (lo / 8) (hi / 8) (d / 8) up) }
    let s := s.modCore c (fun k => { k with spad := new, rings := [] })
    ((s.core c).lines.filter (fun l => decide (cacheLines (s.core c) ≤ l.place))).foldl (fun t l =>
      if l.st = .registered then endRegistration t c l.ctx l.line else dropClean t c l) s

/-- Write `vgroup` (R192): a pool that the write breaks loses the victims held across it. -/
def setVgroup (s : State) (c mask : Nat) : State :=
  let before := poolOf s c
  let s := s.modCore c (fun k => { k with vgroup := mask })
  (before.filter (fun b => !pools s c b)).foldl (fun t b =>
    let drop := fun (t : State) (holder owner : Nat) =>
      ((t.core holder).lines.filter (fun l => l.owner == owner)).foldl (fun u l => dropClean u holder l) t
    drop (drop t b c) c b) s

/-! What stands before an access (R118, R120, R195, R196, R331). -/

/-- The cores that an access in flight goes to: those of a fabric address, and of the scale of an STMX (R115). -/
def Flight.targets (f : Flight) : List Nat := fabCore f.addr :: (f.also.map (fun a => fabCore a.1)).toList

/-- The bytes that an access in flight covers meet a range. -/
def Flight.meets (f : Flight) (va n : Nat) : Bool :=
  (decide (f.addr.toNat < va + n) && decide (va < f.addr.toNat + f.len))
    || (match f.also with
      | some a => decide (a.1.toNat < va + n) && decide (va < a.1.toNat + a.2.length)
      | none => false)

/-- A store in flight of a thread overlaps an access (R118, R120). DESIGN CHOICE (log 13, unsafe). -/
def storeInFlight (s : State) (c t uid va n : Nat) : Bool :=
  s.flights.any (fun f => f.core == c && f.slot == t && f.uid == uid && f.isStore && f.meets va n)

/-- The target of a fabric access has answered it, and the answer is on its way. -/
def Flight.answered (f : Flight) : Bool :=
  match f.stage with
  | .arrived _ | .refused _ _ | .acked _ => true
  | _ => false

/-- A packet that one core sent another before number `n` has not arrived: an access to its scratchpad, or the answer to one (R331). -/
def pathBefore (s : State) (c target n : Nat) : Bool :=
  s.flights.any (fun f => f.isFabric
    && ((f.core == c && f.targets.contains target && f.stage == .issued && decide (f.seq < n))
      || (f.core == target && fabCore f.addr == c && f.answered && decide (f.stamp < n))))

/-- A packet of a core for another is still on its way (R331). -/
def pathBusy (s : State) (c target : Nat) : Bool := pathBefore s c target s.env.fresh

/-- The lines that an access in flight is about: that of its address, and that of the scale of an STMX (R115). -/
def Flight.lines (f : Flight) : List Nat := f.line :: (f.also.map (fun a => a.1.toNat / 128)).toList

/-- A registration of the line waits for acknowledgements, so every further request for the line waits (R195). An STMX holds the line of its
scale with that of its block (R115). -/
def lineHeld (s : State) (x line : Nat) : Bool :=
  s.flights.any (fun f => !f.isFabric && f.ctx == x && f.lines.contains line && (match f.stage with | .invalidating _ _ => true | _ => false))

/-- A request for the line waits at its home (R195). -/
def lineQueued (s : State) (x line : Nat) : Bool :=
  s.flights.any (fun f => !f.isFabric && f.ctx == x && f.line == line && f.stage == .translated)

/-- A part of a range within one line lies in host memory and its home slice does not hold its line, which cannot come while the link enables
no protocol (R339): the access waits, and the spec does not say so. DESIGN CHOICE (log 51, unsafe). -/
def hostCut (s : State) (x va : Nat) : Bool :=
  !s.manage.cxlUsable && (match walk s x va with
    | .leaf _ pb e => eTier e == 2 && !s.hostLines.contains (memKey 2 (eFrame e * 4096 + va % 2 ^ pb) / 128)
    | _ => false)

/-- Some line of a range is held for a registration, has requests before this one, or cannot come from the host. -/
def rangeHeld (s : State) (x va n : Nat) : Bool :=
  (parts 128 va n).any (fun q => lineHeld s x (q.1 / 128) || lineQueued s x (q.1 / 128) || hostCut s x q.1)

/-- A core serves an access to a part of a line from its own array: it holds the words registered, or for a load a copy of the line,
itself or in a pooled core (R192, R193, R197). -/
def servedHere (s : State) (c x va n : Nat) (load : Bool) : Bool :=
  (parts 128 va n).all (fun q =>
    wordMask q.1 q.2 &&& regMask s c x (q.1 / 128) == wordMask q.1 q.2
      || (load && (s.dirOf x (q.1 / 128)).regs.isEmpty && holdsLine s c x (q.1 / 128)))

/-- A fabric address of the issuing core (R109). -/
def ownSpad (s : State) (va : Word) : Bool := va.getLsbD 63 && fabCore va == s.iss.core

/-- An earlier access or its answer stands before one that an engine of a core makes: on its path, or at the home of a line (R195, R196, R331). An STMX with
a part in its core's own scratchpad stands before the next access to that scratchpad (R115, R120).
DESIGN CHOICE (log 13, unsafe). -/
def engineBehind (s : State) (c x : Nat) (va : Word) (n : Nat) : Bool :=
  if va.getLsbD 63 then pathBusy s c (fabCore va)
  else rangeHeld s x va.toNat n || (!(s.flights.isEmpty && s.notices.isEmpty) && (parts 128 va.toNat n).any (fun q =>
    slicePathBusy s c x q.1 || onTheWay s c (homeOf s x q.1) s.env.fresh))

/-- A message stands between the home of a line of a range and a reader of the line, so an invalidation of that reader, or its
acknowledgement, does not pass at once (R195, R196). -/
def readersBehind (s : State) (c x va n : Nat) : Bool :=
  !(s.flights.isEmpty && s.notices.isEmpty) && (parts 128 va n).any (fun q => ((s.dirOf x (q.1 / 128)).readers c).any (fun d =>
    slicePathBusy s d x q.1 || onTheWay s d (homeOf s x q.1) s.env.fresh))

/-- A line of a range is being filled for the core (R193). -/
def filling (s : State) (c x va n : Nat) : Bool :=
  s.flights.any (fun f => f.fills && f.core == c && f.ctx == x && (parts 128 va n).any (fun q => q.1 / 128 == f.line))

/-- An earlier access of any agent stands before one that a core makes at once, unless the core's own array serves it (R192, R193, R195,
R196, R331). DESIGN CHOICE (log 13, unsafe). -/
def behind (s : State) (c x : Nat) (va : Word) (n : Nat) (g : Rights) : Bool :=
  if va.getLsbD 63 then engineBehind s c x va n
  else !(!g.a && servedHere s c x va.toNat n (!g.w)) && (filling s c x va.toNat n || engineBehind s c x va n || (g.w && readersBehind s c x va.toNat n))

/-- A store that a thread sent before number `n` to the home slice of an address, and that the slice has accepted, is not performed yet
(R111, R120). -/
def storeBefore (s : State) (c t uid x va n : Nat) : Bool :=
  s.flights.any (fun f => f.core == c && f.slot == t && f.uid == uid && f.isStore && !f.isFabric && decide (f.seq < n)
    && (match f.stage with | .translated | .invalidating _ _ => true | _ => false)
    && (f.addr.toNat :: (f.also.map (·.1.toNat)).toList).any (fun a => homeOf s f.ctx a == homeOf s x va))

/-- Something of an earlier access stands before one of the bundle in issue, which waits for it (R118, R120, R195, R196, R331).
DESIGN CHOICE (log 13, unsafe). -/
def heldBack (s : State) (va : Word) (n : Nat) (g : Rights) : Bool :=
  storeInFlight s s.iss.core s.iss.slot s.cur.uid va.toNat n || behind s s.iss.core s.myCtx va n g
    || (g.w && !va.getLsbD 63 && storeBefore s s.iss.core s.iss.slot s.cur.uid s.myCtx va.toNat s.env.fresh)

/-! Ranges of the bundle in issue. -/

/-- The read requests of the bundle in issue for a range, which a trace records (R217). -/
def readTraced (s : State) (va : Word) (n : Nat) : State := traceReads s s.iss.core s.myCtx va n

/-- A range read as loads of the bundle in issue. -/
def loadRange (s : State) (va : Word) (n : Nat) (g : Rights) : Except Stop (List Byte) :=
  if heldBack s va n g then .error (.wait (.retry .unbounded) s)
  else
    match locateRange s s.myCtx s.priv va n g with
    | .error e => .error (refusal s e.1 g e.2)
    | .ok ps =>
      match rangePoison s ps with
      | some a => .error (.keep (readTraced s va n) cPOISON 0 a)
      | none => .ok (rangeBytes s ps)

/-- A range read as loads of the bundle in issue: its bytes, and the state in which the requests for it have been traced (R217). -/
def readRange (s : State) (va : Word) (n : Nat) (g : Rights) : Except Stop (List Byte × State) :=
  match loadRange s va n g with
  | .error e => .error e
  | .ok bs => .ok (bs, readTraced s va n)

/-- Several ranges read as loads of the bundle in issue, in order. -/
def readRanges (s : State) : List (Nat × Nat) → Except Stop (List (List Byte) × State)
  | [] => .ok ([], s)
  | (a, n) :: t =>
    match readRange s (wd a) n forLoad with
    | .error e => .error e
    | .ok (bs, u) =>
      match readRanges u t with
      | .error e => .error e
      | .ok r => .ok (bs :: r.1, r.2)

/-! The loads and stores of a thread. -/

/-- The load of the core whose fill of a line a new load of the bundle in issue takes its value from (R193, R198): no invalidation of the line
has reached the core since it was sent. -/
def fillOf (s : State) (va : Word) (op : AccOp) : Option Nat :=
  if op == .load && !va.getLsbD 63 then
    (s.flights.find? (fun f => f.fills && !f.once && f.core == s.iss.core && f.ctx == s.myCtx && f.priv == s.priv
      && f.line == va.toNat / 128)).map (·.id)
  else none

/-- The access in flight of the bundle in issue. DESIGN CHOICE (log 13, unsafe). -/
def newFlight (s : State) (va : Word) (n : Nat) (op : AccOp) (posted : Bool) : State × Nat :=
  let q := s.tick
  ({ q.2 with flights := q.2.flights ++ [{ id := q.1, core := s.iss.core, slot := s.iss.slot, uid := s.cur.uid, ctx := s.myCtx, priv := s.priv, addr := va, len := n, op := op, posted := posted, seq := q.1, stage := .issued, stamp := q.1, joins := fillOf s va op }] }, q.1)

/-- One more store of the thread is not performed (R111). -/
def countStore (s : State) : State := s.modCur (fun l => { l with unack := l.unack + 1 })

/-- The bundle waits for the reply of a new access in flight; a store counts in `unack` meanwhile (R111).
DESIGN CHOICE (log 13, unsafe). -/
def fly (s : State) (va : Word) (n : Nat) (op : AccOp) (g : Rights) : Stop :=
  if !issueOk va then .trap g.cause 0 va
  else if storeInFlight s s.iss.core s.iss.slot s.cur.uid va.toNat n then .wait (.retry .unbounded) s
  else
    let q := newFlight s va n op false
    .wait (.reply q.2) (match op with | .store _ => countStore q.1 | _ => q.1)

/-- The bundle has its reply. -/
def takeReply (s : State) : State := s.modCur (fun l => { l with reply := none })

/-- A load performed at once: its bytes, and the state after it. DESIGN CHOICE (log 13, unsafe). -/
def loadNow (s : State) (va : Word) (n : Nat) (g : Rights) : Except Stop (List Byte × State) :=
  if heldBack s va n g then .error (.wait (.retry .unbounded) s)
  else
    match locate s s.myCtx s.priv va n g with
    | .error e => .error (refusal s va g e)
    | .ok p =>
      match poisonedAt s p va n with
      | some a => .error (.keep (readTraced s va n) cPOISON 0 a)
      | none => .ok (loadAt s p n, if p.glob then touchLoad (install s s.myCtx va.toNat p) s.iss.core s.myCtx va.toNat n p else s)

/-- An access is performed within its bundle: accesses are prompt, or the core serves the address from its own array (R109, R192, R197). -/
def atOnce (s : State) (va : Word) (n : Nat) (load : Bool) : Bool :=
  s.env.prompt || ownSpad s va || (issueOk va && !va.getLsbD 63 && servedHere s s.iss.core s.myCtx va.toNat n load)

/-- A load of the bundle in issue (R110, R111): at once, or as an access in flight whose reply brings the value. -/
def threadLoad (s : State) (va : Word) (n : Nat) : Except Stop (List Byte × State) :=
  match s.cur.reply with
  | some bs => .ok (bs, takeReply s)
  | none => if atOnce s va n true then loadNow s va n forLoad else .error (fly s va n .load forLoad)

/-- Loads of `z` bytes each, in order, of an instruction that is made of them (R75, R249, R257): each is an access of its own, and the
bytes that have come stay with the bundle while it waits for the next. -/
def gatherLoads (s : State) (z : Nat) : List Word → Except Stop (List Byte × State)
  | vas => (vas.drop (s.cur.part.length / z)).foldlM (fun r va =>
      match threadLoad r.2 va z with
      | .error e => .error e
      | .ok q => .ok (r.1 ++ q.1, q.2.modCur (fun l => { l with part := r.1 ++ q.1 }))) (s.cur.part, s)

/-- The bytes of the bundle's loads are used up. -/
def gathered (s : State) : State := s.modCur (fun l => { l with part := [], tile := none, leaf := none })

/-- A failed fabric store is kept for the thread's next report, the earliest in its program order (R109). -/
def recordFailure (l : Slot) (seq : Nat) (va : Word) : Slot :=
  match l.failed with
  | some f => if f.1 ≤ seq then l else { l with failed := some (seq, va) }
  | none => { l with failed := some (seq, va) }

/-- A store of the bundle in issue has failed at its target (R109). -/
def failHere (s : State) (va : Word) : State := s.modCur (fun l => recordFailure l s.env.fresh va)

/-- A store performed at a located place within its bundle (R110, R197). -/
def performStore (s : State) (va : Word) (p : Place) (bs : List Byte) : State :=
  storeAt (if p.glob then touchStore (install s s.myCtx va.toNat p) s.iss.core s.myCtx va.toNat bs.length p else s) p.key bs

/-- A store performed at once (R110, R111): a fabric store that the target refuses is kept for the deferred report.
DESIGN CHOICE (log 13, unsafe). -/
def storeNow (s : State) (va : Word) (bs : List Byte) : Except Stop State :=
  if heldBack s va bs.length forStore then .error (.wait (.retry .unbounded) s)
  else
    match locate s s.myCtx s.priv va bs.length forStore with
    | .error .far => .ok (failHere s va)
    | .error e => .error (refusal s va forStore e)
    | .ok p => .ok (performStore s va p bs)

/-- A store that retires at issue and travels to another core's scratchpad (R111). -/
def post (s : State) (va : Word) (bs : List Byte) : State := countStore (newFlight s va bs.length (.store bs) true).1

/-- A store of the bundle in issue (R110, R111). A store to another core's fabric address retires at issue and counts in
`unack`; the spec does not say whether STL retires so too, and the model posts it like ST. A store to a global address waits for its
acceptance. DESIGN CHOICE (log 13, unsafe). -/
def threadStore (s : State) (va : Word) (bs : List Byte) : Except Stop State :=
  match s.cur.reply with
  | some _ => .ok (takeReply s)
  | none =>
    if atOnce s va bs.length false then storeNow s va bs
    else if !issueOk va then .error (.trap cWRITE 0 va)
    else if storeInFlight s s.iss.core s.iss.slot s.cur.uid va.toNat bs.length || decide (65535 ≤ s.cur.unack) then
      .error (.wait (.retry .unbounded) s)
    else if va.getLsbD 63 then .ok (post s va bs)
    else .error (fly s va bs.length (.store bs) forStore)

/-- The stores of an instruction that is made of them, in order (R257): each is a store of its own, and the bundle that waits for one keeps
how many are done. -/
def storeEach (n : Nat) : List (Word × List Byte) → State → Except Stop State
  | [], s => .ok s
  | p :: t, s =>
    match threadStore s p.1 p.2 with
    | .ok u => storeEach (n + 1) t u
    | .error (.wait w u) => .error (.wait w (u.modCur (fun l => { l with part := List.replicate n 0 })))
    | .error e => .error e

/-- Parts of an instruction's store: those to another core's scratchpad are posted unless accesses are prompt (R111). -/
def postedPart (s : State) (va : Word) : Bool := !s.env.prompt && va.getLsbD 63 && !ownSpad s va

/-- One part of a store that was checked. -/
def storePart (s : State) (p : Word × List Byte) : Except Stop State :=
  if postedPart s p.1 then .ok (post s p.1 p.2) else storeNow s p.1 p.2

/-- The first part of a store that stops its bundle: something stands before it, or its address or page does not allow it; the checks of
a target core are made when the part reaches it (R107, R108, R186). `counted` is the number of stores that it would add to `unack`. -/
def partsStop (s : State) (ps : List (Word × List Byte)) (counted : Nat) : Option Stop :=
  if ps.any (fun p => heldBack s p.1 p.2.length forStore && !postedPart s p.1)
    || (ps.any (fun p => postedPart s p.1)
      && (decide (65535 < s.cur.unack + counted) || ps.any (fun p => storeInFlight s s.iss.core s.iss.slot s.cur.uid p.1.toNat p.2.length))) then
    some (.wait (.retry .unbounded) s)
  else
    ps.findSome? (fun p =>
      match locate s s.myCtx s.priv p.1 p.2.length forStore with
      | .error .far => none
      | .error e => some (refusal s p.1 forStore e)
      | .ok _ => none)

/-- The parts of a store are checked before any is performed, so that a page fault on one drops them all (R114); a part that its target
refuses is not performed and is kept for the deferred report (R109). DESIGN CHOICE (log 14, unsafe). -/
def storeParts (s : State) (ps : List (Word × List Byte)) : Except Stop State :=
  match partsStop s ps (ps.filter (fun p => postedPart s p.1)).length with
  | some e => .error e
  | none => ps.foldlM storePart s

/-- The stores of an instruction that is made of them: all are checked before the first is performed, so that a page fault that one meets
then drops the bundle with nothing stored (R114, R257). DESIGN CHOICE (log 14, unsafe). -/
def storeRows (s : State) (ps : List (Word × List Byte)) : Except Stop State :=
  let k := s.cur.part.length
  match (if k = 0 ∧ s.cur.reply.isNone = true then partsStop s ps (ps.filter (fun p => postedPart s p.1)).length else none) with
  | some e => .error e
  | none =>
    match storeEach k (ps.drop k) s with
    | .error e => .error e
    | .ok t => .ok (if k = 0 then t else gathered t)

/-- A store of two parts has left: one access in flight, which counts once in `unack` (R111, R115). -/
def blockFlight (s : State) (a b : Word × List Byte) (posted : Bool) : State :=
  let q := newFlight s a.1 a.2.length (.store a.2) posted
  countStore { q.1 with flights := q.1.flights.map (fun f => if f.id = q.2 then { f with also := some b } else f) }

/-- A store of two parts that is one event (R114, R115): it is performed whole, or not at all when a target refuses a part (R109); with a
part in another core's scratchpad, or to global addresses that the core does not serve itself, both travel together. Where both parts are
refused the block's address is reported. DESIGN CHOICE (log 13, unsafe; log 73, unsafe). -/
def storeBlock (s : State) (a b : Word × List Byte) : Except Stop State :=
  if s.cur.reply.isSome then .ok (takeReply s)
  else
  match partsStop s [a, b] 1 with
  | some e => .error e
  | none =>
    if postedPart s a.1 || postedPart s b.1 then
      .ok (blockFlight s a b true)
    else if !a.1.getLsbD 63 && !(atOnce s a.1 a.2.length false && atOnce s b.1 b.2.length false) then
      if 65535 ≤ s.cur.unack then .error (.wait (.retry .unbounded) s)
      else .error (.wait (.reply s.tick.1) (blockFlight s a b false))
    else
      match locate s s.myCtx s.priv a.1 a.2.length forStore, locate s s.myCtx s.priv b.1 b.2.length forStore with
      | .ok p, .ok q => .ok (performStore (performStore s a.1 p a.2) b.1 q b.2)
      | .ok _, .error _ => .ok (failHere s b.1)
      | .error _, _ => .ok (failHere s a.1)

/-- A range written as stores of the bundle in issue, in parts of 64 bytes. -/
def storeRange (s : State) (va : Word) (bs : List Byte) : Except Stop State :=
  storeParts s ((parts 64 va.toNat bs.length).map (fun q => (wd q.1, (bs.drop (q.1 - va.toNat)).take q.2)))

/-- Wait until `unack` is zero (R121). -/
def performed (s : State) : Except Stop State :=
  if s.cur.unack ≠ 0 then .error (.wait (.retry .unbounded) s) else .ok s

/-- Wait until `unack` is zero, then take the deferred report of a failed fabric store (R109, R113, R121).
DESIGN CHOICE (log 13, unsafe). DEDUCED (log 75, unsafe). -/
def drained (s : State) : Except Stop State :=
  if s.cur.unack ≠ 0 then .error (.wait (.retry .unbounded) s)
  else
    match s.cur.failed with
    | some f => .error (.keep (s.modCur (fun l => { l with failed := none })) cWRITE 0 f.2)
    | none => .ok s

/-- Align check (R110). -/
def aligned (va : Word) (n : Nat) : Bool := va.toNat % n == 0

/-- An address from a base and an offset in units (R110). -/
def addrOf (base : Word) (off : Int) (unit : Nat) : Word := base + BitVec.ofInt 64 (off * (unit : Int))

end Sys2Proof.Machine
end

