-- ==== Sys2Proof/Machine/Sheet.lean ====
section
/-!
DEFINITION. The sheet of a context as plain data: cell handles (R260), versions and their choice (R262 to R264), edges, ranks
and the union graph (R265, R266, R270), the marks of waves and items, and what a failed work item leaves (R274).
-/
namespace Sys2Proof.Machine

/-- The heap window (R294). -/
def windowBase : Nat := 0x01FE000000000000

/-- The cell-owned pages of a context lie in the upper half of its heap window; the spec gives them no addresses.
DESIGN CHOICE (log 68, unsafe). -/
def cellBase : Nat := windowBase + 2 ^ 47

/-! Cells. -/

/-- The handle of a cell (R260). -/
def cellHandle (n tag : Nat) : Word := wd (2 ^ 60 + n * 2 ^ 36 + tag % 2 ^ 16 * 2 ^ 20)

def Ctx.cell (k : Ctx) (n : Nat) : Cell := lookD k.cells n {}
def Ctx.setCell (k : Ctx) (n : Nat) (c : Cell) : Ctx := { k with cells := put k.cells n c }
def Ctx.modCell (k : Ctx) (n : Nat) (f : Cell → Cell) : Ctx := k.setCell n (f (k.cell n))

/-- The cell that a handle names: the right kind, no reserved bit, a bound number, and its current tag (R260). -/
def cellNamed (k : Ctx) (h : Word) : Option Nat :=
  let n := wbits h 55 36
  let c := k.cell n
  if wbits h 62 60 = 1 ∧ wbits h 59 56 = 0 ∧ wbits h 19 0 = 0 ∧ c.bound = true ∧ wbits h 35 20 = c.tag then some n else none

/-- The cell of a handle, for uses other than a read at a generation: an unbinding that has been applied leaves no cell (R280). -/
def cellOf (k : Ctx) (h : Word) : Option Nat :=
  match cellNamed k h with
  | some n => if (k.cell n).unboundAt.isSome then none else some n
  | none => none

/-- The bytes of an element by format code (R261): none for a format that a cell does not take. -/
def elemBytes : Nat → Option Nat
  | 1 => some 8
  | 2 | 9 | 10 => some 4
  | 3 | 4 | 11 | 12 => some 2
  | 5 | 7 | 8 => some 1
  | _ => none

/-- Bytes of a row, and of a version (R261). -/
def Binding.rowBytes (b : Binding) : Nat := b.cols * (elemBytes b.fmt).getD 1
def Binding.bytes (b : Binding) : Nat := b.rows * b.rowBytes

/-- An input cell has no formula (R261). -/
def Binding.input (b : Binding) : Bool := b.launch == 0 && b.entry == 0

/-- Row `r` of a version. -/
def Binding.row (b : Binding) (data : List Byte) (r : Nat) : List Byte := (data.drop (r * b.rowBytes)).take b.rowBytes

/-- A version with rows replaced from row `r` on. -/
def Binding.withRows (b : Binding) (data : List Byte) (r : Nat) (bs : List Byte) : List Byte :=
  data.take (r * b.rowBytes) ++ bs ++ data.drop (r * b.rowBytes + bs.length)

/-! Buffers. -/

/-- The condition of a buffer that belongs to a batch or a wave. -/
def Cond.pending : Cond → Bool
  | .inBatch _ | .inWave _ => true
  | _ => false

/-- A buffer that may hold a version a generation chooses (R263, R288). -/
def Cond.version : Cond → Bool
  | .present | .dropped | .poisoned => true
  | _ => false

/-- A version that a read must have repaired first (R277). -/
def Cond.lost : Cond → Bool
  | .dropped | .poisoned => true
  | _ => false

def Cell.buf (c : Cell) (one : Bool) : Buf := if one then c.buf1 else c.buf0
def Cell.setBuf (c : Cell) (one : Bool) (b : Buf) : Cell := if one then { c with buf1 := b } else { c with buf0 := b }

/-- Snapshots that no buffer of a cell records and no arming keeps are freed (R313). DESIGN CHOICE (log 36, unsafe). -/
def freeTaps (c : Cell) : Cell :=
  { c with taps := c.taps.filter (fun t => t.armed || c.buf0.arm == t.arm || c.buf1.arm == t.arm) }

/-- Change a buffer; a snapshot that only its old version recorded is freed (R313). -/
def Cell.modBuf (c : Cell) (one : Bool) (f : Buf → Buf) : Cell := freeTaps (c.setBuf one (f (c.buf one)))

/-- A buffer that holds no version; its storage stays. -/
def Buf.blank (u : Buf) : Buf := { addr := u.addr, runs := u.runs }

/-- Which buffer a wave writes: the one that is pending for it, else the older one: the empty one, or the one with the smaller stamp
(R264, R288). DEDUCED (log 39, unsafe). -/
def Cell.older (c : Cell) : Bool :=
  if c.buf0.cond.pending then false
  else if c.buf1.cond.pending then true
  else if c.buf0.cond = .empty then false
  else if c.buf1.cond = .empty then true
  else decide (c.buf1.stamp < c.buf0.stamp)

/-- Which buffer is the newer one (R286): a pending version is newer than the present one. DEDUCED (log 39, unsafe). -/
def Cell.newest (c : Cell) : Bool := if c.buf0.cond.pending then false else if c.buf1.cond.pending then true else !c.older

/-- The buffer that a generation chooses (R263). -/
def Cell.choose (c : Cell) (g : Nat) : Option Bool :=
  let ok := fun (b : Buf) => b.cond.version && decide (b.stamp ≤ g)
  match ok c.buf0, ok c.buf1 with
  | true, true => some (decide (c.buf0.stamp < c.buf1.stamp))
  | true, false => some false
  | false, true => some true
  | false, false => none

/-- The buffer of a pending version of a wave. -/
def Cell.pendingOf (c : Cell) (g : Nat) : Option Bool :=
  if c.buf0.cond = .inWave g then some false else if c.buf1.cond = .inWave g then some true else none

/-- The buffer that holds a stamp's version. -/
def Cell.stamped (c : Cell) (g : Nat) : Option Bool :=
  if c.buf0.cond.version && c.buf0.stamp == g then some false
  else if c.buf1.cond.version && c.buf1.stamp == g then some true else none

/-- The buffer of the version of a stamp, pending or not. -/
def Cell.holding (c : Cell) (g : Nat) : Option Bool :=
  match c.pendingOf g with
  | some b => some b
  | none => c.stamped g

/-- The buffer from which a work item of generation g reads a non-lagged precedent: a pending one of its wave counts (R272). -/
def Cell.chooseAt (c : Cell) (g : Nat) : Option Bool :=
  match c.pendingOf g with
  | some b => some b
  | none => c.choose g

/-- A wave may write the older buffer (R264): the newer one is not pending, and no live view is pinned below its stamp; an empty buffer
counts as overwritable (R288). -/
def canWrite (views : List (Nat × Nat)) (c : Cell) : Bool :=
  let n := c.buf (!c.older)
  !c.buf0.cond.pending && !c.buf1.cond.pending
    && ((c.buf c.older).cond == .empty || n.cond == .empty || views.all (fun v => decide (n.stamp ≤ v.2)))

/-! The storage of a version (R259, R262): its bytes lie row after row in frames of tier 0, in cell-owned pages. -/

/-- The frame of a page of a range at a place in it, by the range's runs. -/
def frameAt : List (Nat × Nat) → Nat → Nat
  | [], _ => 0
  | (f, n) :: t, i => if i < n then f + i else frameAt t (i - n)

/-- The key of a byte of a version. -/
def Buf.key (u : Buf) (o : Nat) : Nat := memKey 0 (frameAt u.runs (o / 4096) * 4096 + o % 4096)

/-- Bytes of a version. -/
def bufBytes (s : State) (u : Buf) (o n : Nat) : List Byte := (parts 4096 o n).flatMap (fun p => s.bytes (u.key p.1) p.2)

/-- Write bytes of a version. -/
def bufStore (s : State) (u : Buf) (o : Nat) (bs : List Byte) : State :=
  (parts 4096 o bs.length).foldl (fun t p => storeAt t (u.key p.1) ((bs.drop (p.1 - o)).take p.2)) s

/-- A word under some bytes of a version is poisoned (R199). -/
def bufLost (s : State) (u : Buf) (o n : Nat) : Bool :=
  !u.runs.isEmpty && (parts 4096 o n).any (fun p =>
    s.poison.any (fun w => decide (u.key p.1 / 8 ≤ w) && decide (8 * w < u.key p.1 + p.2)))

/-- A word of a version is poisoned (R199, R262). -/
def bufPoison (s : State) (u : Buf) : Bool := bufLost s u 0 u.bind.bytes

/-- Bytes of a version become poisoned: every word that they touch (R199, R273). -/
def poisonBuf (s : State) (u : Buf) (o n : Nat) : State :=
  (parts 8 o n).foldl (fun t p => t.setPoison (u.key p.1 / 8 * 8) true) s

/-- A version is poisoned (R262): it was committed from a failed item, or holds a poisoned word. -/
def Buf.poi (s : State) (u : Buf) : Bool := u.cond == .poisoned || (u.cond == .present && bufPoison s u)

/-- A version that a read must have repaired first (R274, R277): it is dropped or poisoned, or pending from a failed item. -/
def badBuf (s : State) (u : Buf) : Bool := u.cond.lost || u.bad || bufPoison s u

/-! The graph. -/

/-- The non-lagged edges of a binding of cell n: precedent and dependant. -/
def edgesOf (n : Nat) (b : Binding) : List (Nat × Nat) := (b.precs.filter (fun p => !p.lag)).map (fun p => (p.cell, n))

/-- A cell that stands in the committed sheet. -/
def Cell.inSheet (c : Cell) : Bool := c.bound && c.joined && c.unboundAt.isNone

/-- The non-lagged edges of the committed sheet. -/
def edges (k : Ctx) : List (Nat × Nat) :=
  k.cells.flatMap (fun p => if p.2.inSheet then edgesOf p.1 p.2.bind else [])

/-- The edits of a context that are pending (R266): those of its batches and those deferred. -/
def pendingEdits (k : Ctx) : List Edit := k.batches.flatMap (·.edits) ++ k.deferred

/-- The new edges of an edit. A cell bound in a batch holds its binding already (R288). -/
def editEdges (k : Ctx) (e : Edit) : List (Nat × Nat) :=
  match e.kind with
  | .bind => edgesOf e.cell (k.cell e.cell).bind
  | .rebind b => edgesOf e.cell b
  | _ => []

/-- The union graph (R266). DESIGN CHOICE (log 33, unsafe). -/
def unionEdges (k : Ctx) : List (Nat × Nat) := edges k ++ (pendingEdits k).flatMap (editEdges k)

/-- A set and the dependants of its members, as often as it takes (R270). -/
def spread (es : List (Nat × Nat)) : Nat → List Nat → List Nat
  | 0, set => set
  | n + 1, set => spread es n (es.foldl (fun t e => if t.contains e.1 then insN t e.2 else t) set)

/-- The cells that a set of roots makes stale (R270). -/
def downstream (es : List (Nat × Nat)) (roots : List Nat) : List Nat := spread es es.length (roots.foldl insN [])

/-- The edges close a cycle through a cell (R266). -/
def closesCycle (es : List (Nat × Nat)) (n : Nat) : Bool :=
  (downstream es ((es.filter (fun e => e.1 == n)).map (·.2))).contains n

/-- Ranks from edges (R265), by repeated raising; a cell not listed has rank 0. -/
def ranksFrom (es : List (Nat × Nat)) : Nat → SMap Nat → SMap Nat
  | 0, r => r
  | n + 1, r => ranksFrom es n (es.foldl (fun t e => if lookD t e.2 0 < lookD t e.1 0 + 1 then put t e.2 (lookD t e.1 0 + 1) else t) r)

def ranks (es : List (Nat × Nat)) : SMap Nat := ranksFrom es es.length []

/-- Set every cell's rank from the committed graph. DESIGN CHOICE (log 33, unsafe). -/
def rerank (k : Ctx) : Ctx :=
  let r := ranks (edges k)
  { k with cells := k.cells.map (fun p => (p.1, { p.2 with rank := if p.2.inSheet then lookD r p.1 0 else p.2.rank })) }

/-! Waves and items. -/

/-- A wave holds a cell. -/
def Wave.holds (w : Wave) (n : Nat) : Bool := w.items.any (·.1 == n) || w.inputs.any (·.1 == n)

/-- A cell is stale or computing in an open wave (R269). -/
def busyCell (k : Ctx) (n : Nat) : Bool := k.waves.any (·.holds n)

/-- The state of a cell's item in a wave. -/
def Wave.item (w : Wave) (n : Nat) : Option ItemState := (w.items.find? (·.1 == n)).map (·.2)

/-- Set the state of an item. -/
def setItem (k : Ctx) (g n : Nat) (st : ItemState) : Ctx :=
  { k with waves := k.waves.map (fun w =>
      if w.gen = g then { w with items := w.items.map (fun i => if i.1 = n then (n, st) else i) } else w) }

/-- A formula work item has failed (R274): its pending version will be committed poisoned, or its repair has failed (R277); the
monitor receives the FORMULA report, with the cause and the info of the handler's last trap (R138).
DESIGN CHOICE (log 40, unsafe). -/
def failItem (s : State) (x : Nat) (i : Item) (cause thid : Nat) : State :=
  let h := cellHandle i.cell ((s.ctx x).cell i.cell).tag
  let s := s.modCtx x (fun k =>
    if i.repair then
      { k with repairs := k.repairs.map (fun r => if r.cell = i.cell ∧ r.stamp = i.gen then { r with failed := true } else r) }
    else
      setItem (k.modCell i.cell (fun c =>
        match c.pendingOf i.gen with
        | some b => c.modBuf b (fun u => { u with bad := true })
        | none => c)) i.gen i.cell .finished)
  toMonitor s x [reportWord 0x41 cause (cause / 256) thid, h, wd i.gen]

/-- The mask pairs of slot 62 when the handler of an item starts (R272). -/
def itemMasks (hold : List Nat) : SMap MaskPair :=
  let rows := BitVec.ofNat 16 ((List.range 16).foldl (fun m i => if hold.contains i then m else m + 2 ^ i) 0)
  (List.range 4).map (fun p => (p, ⟨rows, -1⟩))

/-- The hold mask under which an item works: the cell's, or for a repair the one recorded in the version at its commit (R272, R318). -/
def itemHold (c : Cell) (i : Item) : List Nat :=
  if i.repair && (c.pendingOf i.gen).isNone then (match c.stamped i.gen with | some b => (c.buf b).hold | none => []) else c.hold

/-- The binding of the version of a stamp: its formula and precedents are those under which it was made (R1, R277). -/
def Cell.bindAt (c : Cell) (g : Nat) : Binding :=
  match c.holding g with
  | some b => (c.buf b).bind
  | none => c.bind

/-- The binding under which an item runs: the cell's, or for a repair the version's own. -/
def itemBind (c : Cell) (i : Item) : Binding := if i.repair then c.bindAt i.gen else c.bind

end Sys2Proof.Machine
end

