-- ==== Sys2Proof/Machine/Assay.lean ====
section
/-!
DEFINITION. The Assay units: steering, scoring and holding the rows of a tapped cell (R309 to R318).
-/
namespace Sys2Proof.Machine

/-- The float format of a cell that can be tapped (R313). -/
def tapFmt : Nat → Option FFmt
  | 2 => some b32
  | 3 => some bf16
  | 4 => some f16
  | _ => none

/-- A row that no sequence owns (R312). -/
def padSeq : Nat := 0xFFFF

/-- The fields of a map entry (R312). -/
def mSeq (m : Lane) : Nat := bits m.toNat 15 0
def mSv (m : Lane) : Nat := bits m.toNat 23 16
def mSt (m : Lane) : Bool := m.getLsbD 24

/-- The cell rows of a logical row (R311). -/
def Tap.rowsOf (t : Tap) (l : Nat) : List Nat := (List.range t.rpr).map (fun i => t.rpr * l + i)

/-- The logical rows of a sequence. -/
def Tap.seqRows (t : Tap) (q : Nat) : List Nat :=
  if q = padSeq then [] else (List.range t.map.length).filter (fun l => mSeq (t.map.getD l 0) == q)

/-- The cell rows of a sequence. -/
def Tap.seqCells (t : Tap) (q : Nat) : List Nat := (t.seqRows q).flatMap t.rowsOf

/-- The cell rows of a tap's held and killed sequences (R317). -/
def Tap.heldCells (t : Tap) : List Nat := (t.heldSeqs ++ t.killed).flatMap t.seqCells

/-- The sequences of a map, padding apart. -/
def Tap.seqs (t : Tap) : List Nat := ((t.map.map mSeq).filter (· != padSeq)).foldl insN []

/-- The elements of bytes in a format. -/
def elemsOf (f : FFmt) (bs : List Byte) : List Nat :=
  let n := (f.eb + f.mb + 8) / 8
  (List.range (bs.length / n)).map (fun i => ofBytes ((bs.drop (n * i)).take n))

/-- The bytes of elements in a format. -/
def bytesOf (f : FFmt) (es : List Nat) : List Byte := es.flatMap (toBytes ((f.eb + f.mb + 8) / 8))

/-- Round a value to FP64 (R315). -/
def to64 (v : FVal) : FVal := b64.dec (b64.rne v)

/-- The sum of values in ascending order, rounded after each add (R315). -/
def sum64 (vs : List FVal) : FVal := vs.foldl (fun a v => to64 (a.add v)) (.fin false 0 0)

/-- BF16 values. -/
def bfVal (w : BitVec 16) : FVal := bf16.dec w.toNat

/-- The divisor of a score (R315). -/
def rootMean (t : Tap) (xs : List FVal) : FVal :=
  if t.nrm then
    to64 (FVal.sqrt (to64 ((to64 ((sum64 (xs.map (fun x => x.mul x))).div (.fin false t.dim 0))).add (b32.dec t.eps.toNat))))
  else .fin false 1 0

/-- The score of a vector (R315). DESIGN CHOICE (log 36, unsafe). -/
def probeScore (t : Tap) (xs : List FVal) : Lane :=
  let q := (List.range xs.length).map (fun k =>
    let p := (xs.getD k (.fin false 0 0)).mul (bfVal (t.weights.getD k 0))
    if t.nrm then p.mul (bfVal (t.gains.getD k 0)) else p)
  let sr := to64 ((sum64 q).div (rootMean t xs))
  BitVec.ofNat 32 (b32.rne (to64 (sr.add (b32.dec t.bias.toNat))))

/-- A score trips the probe (R315). -/
def trips (t : Tap) (score : Lane) : Bool :=
  b32.isNan score.toNat
    || (if t.dir then b32.rel .lt score.toNat t.thr.toNat else b32.rel .lt t.thr.toNat score.toNat)

/-- Steer elements (R316): each sum is rounded once to the cell's format. -/
def steer (f : FFmt) (v : List (BitVec 16)) (es : List Nat) : List Nat :=
  (List.range es.length).map (fun k => f.rne ((f.dec (es.getD k 0)).add (bfVal (v.getD k 0))))

/-- The Assay unit's work on one logical row (R314): the data after it, and the score unless it only steers. -/
def assayRow (t : Tap) (f : FFmt) (b : Binding) (steerOnly : Bool) (data : List Byte) (l : Nat) : List Byte × Option Lane :=
  let m := t.map.getD l 0
  let es := elemsOf f ((data.drop (t.rpr * l * b.rowBytes)).take (t.rpr * b.rowBytes))
  let after := if mSt m then steer f (t.steer.getD (mSv m) []) es else es
  (b.withRows data (t.rpr * l) (bytesOf f after),
    if steerOnly then none else some (probeScore t ((if t.ord then after else es).map f.dec)))

/-- The rows on which the unit acts (R314): every cell row written by the item, none held, and no padding.
DESIGN CHOICE (log 36, unsafe). -/
def assayRows (t : Tap) (written hold : List Nat) : List Nat :=
  (List.range t.map.length).filter (fun l =>
    mSeq (t.map.getD l 0) != padSeq && (t.rowsOf l).all (fun r => written.contains r && !hold.contains r))

/-- The data and the scores by row after the unit has acted. -/
def assay (t : Tap) (b : Binding) (steerOnly : Bool) (written hold : List Nat) (data : List Byte) : List Byte × List (Nat × Lane) :=
  match tapFmt b.fmt with
  | none => (data, [])
  | some f =>
    (assayRows t written hold).foldl (fun (p : List Byte × List (Nat × Lane)) l =>
      let r := assayRow t f b steerOnly p.1 l
      (r.1, p.2 ++ (r.2.map (l, ·)).toList)) (data, [])

/-- The sequences that trip, with the lowest tripping row and its score (R314). -/
def tripped (t : Tap) (scores : List (Nat × Lane)) : List (Nat × Nat × Lane) :=
  t.seqs.filterMap (fun q => (scores.find? (fun p => mSeq (t.map.getD p.1 0) == q && trips t p.2)).map (fun p => (q, p.1, p.2)))

/-- The PROBE message (R317). DESIGN CHOICE (log 36, unsafe). -/
def probeWords (t : Tap) (h : Word) (g : Nat) (p : Nat × Nat × Lane) : List Word :=
  [wd (p.1 * 2 ^ 48 + p.2.1 * 2 ^ 36 + t.probe * 2 ^ 8 + 0x40), h, wd g, wd p.2.2.toNat]

/-- A trip holds the rows of its sequence (R317). -/
def holdSeqs (c : Cell) (arm : Nat) (qs : List Nat) : Cell :=
  { c with
    hold := (c.taps.filter (·.arm == arm)).foldl (fun h t => (qs.flatMap t.seqCells).foldl insN h) c.hold
    taps := c.taps.map (fun t => if t.arm = arm then { t with heldSeqs := qs.foldl insN t.heldSeqs } else t) }

/-- The rows on which the unit does not act at a CFIN: those under the item's hold mask, those that the tap itself holds although a release
upstream has cleared the mask meanwhile (R317), which a repair steers by its recorded mask alone (R318), and those with a poisoned word, which
is no data (R2): the spec does not say what the unit does with one. DESIGN CHOICE (log 36, unsafe). -/
def idleRows (s : State) (t : Tap) (b : Binding) (u : Buf) (repair : Bool) (hold : List Nat) : List Nat :=
  hold ++ (if repair then [] else t.heldCells) ++ (List.range b.rows).filter (fun r => bufLost s u (r * b.rowBytes) b.rowBytes)

/-- The unit acts at the CFIN of a work item (R314, R317, R318): steering, scores, holds and PROBE messages. -/
def assayItem (s : State) (x : Nat) (i : Item) (one : Bool) (hold : List Nat) : State :=
  let c := (s.ctx x).cell i.cell
  let u := c.buf one
  match c.taps.find? (fun t => t.arm == u.arm) with
  | none => s
  | some t =>
    let data := bufBytes s u 0 c.bind.bytes
    let r := assay t c.bind i.repair i.written (idleRows s t c.bind u i.repair hold) data
    let trip := if i.repair then [] else tripped t r.2
    let s := (List.range c.bind.rows).foldl (fun s l =>
      if c.bind.row r.1 l = c.bind.row data l then s else bufStore s u (l * c.bind.rowBytes) (c.bind.row r.1 l)) s
    let s := s.modCtx x (fun k => k.modCell i.cell (fun c =>
      let c := { c with taps := c.taps.map (fun t =>
        if t.arm = u.arm then { t with fresh := t.fresh ++ r.2.map (fun p => (i.gen, p.1, p.2)) } else t) }
      holdSeqs c u.arm (trip.map (·.1))))
    trip.foldl (fun s p => toMonitor s x (probeWords t (cellHandle i.cell c.tag) i.gen p)) s

/-- The tap that is armed on a cell. -/
def armedTap (c : Cell) : Option Tap := c.taps.find? (·.armed)

/-- The rows that a cell's tap holds: those of its held and killed sequences (R317). -/
def tapHeld (c : Cell) : List Nat :=
  match armedTap c with
  | some t => t.heldCells
  | none => []

/-- Sequences leave the held and killed sets, and their rows leave the hold masks of the cell and of every cell downstream (R321). -/
def releaseSeqs (k : Ctx) (n : Nat) (qs : List Nat) : Ctx :=
  match armedTap (k.cell n) with
  | none => k
  | some t =>
    let rows := qs.flatMap t.seqCells
    let down := downstream (edges k) [n]
    let k : Ctx := { k with cells := k.cells.map (fun (p : Nat × Cell) =>
      if down.contains p.1 then (p.1, { p.2 with hold := p.2.hold.filter (fun r => !rows.contains r) }) else p) }
    k.modCell n (fun c => { c with taps := c.taps.map (fun (t : Tap) =>
      if t.armed then { t with heldSeqs := t.heldSeqs.filter (fun q => !qs.contains q), killed := t.killed.filter (fun q => !qs.contains q) }
      else t) })

/-- TAPOFF's effect: every sequence is released and the tap is disarmed (R320). -/
def disarm (k : Ctx) (n : Nat) : Ctx :=
  match armedTap (k.cell n) with
  | none => k
  | some t =>
    (releaseSeqs k n (t.heldSeqs ++ t.killed)).modCell n (fun c =>
      freeTaps { c with taps := c.taps.map (fun t => { t with armed := false }) })

end Sys2Proof.Machine
end

