-- ==== Sys2Proof/Machine/Waits.lean ====
section
/-!
DEFINITION. The limits of waits (R20, R25, R206, R222, R253, R337), and the rows of the table that are their expiries.
-/
namespace Sys2Proof.Machine

/-- The count of a waiting thread has reached `waitlim` (R20, R206). A limit of 0 is none (R131). The waits of a thread that is
pre-empted or cancelled are withdrawn (R142, R152). R25 speaks of a limit that is exceeded and that runs out; the model takes every limit
as reached when the count equals it, as R206 says. DESIGN CHOICE (log 62, unsafe). -/
def limitReached (s : State) (c t : Nat) : Bool :=
  let l := s.slot c t
  l.phase == .waiting && !l.stopping && !l.cancelled && wbits l.waitlim 31 0 != 0 && decide (l.waitFrom + wbits l.waitlim 31 0 ≤ (s.core c).cyc)

/-- The limit of a wait. -/
def Wait.limit : Wait → Limit
  | .retry l => l
  | .home _ l => l
  | .reply _ => .unbounded

/-- The limit of what a slot waits for: a matrix operation that has issued waits for its tiles, whatever its bundle's C-slot waits for (R253). -/
def Slot.limit (l : Slot) : Limit :=
  match l.wait, l.mop with
  | some w, some o => if o.started then w.limit else .tile o.qa o.qb
  | some w, none => w.limit
  | none, _ => .unbounded

/-- Count a bundle that a thread issues with `st.te` = 0: for its view (R276), and for a handler (R168).
DESIGN CHOICE (log 52, unsafe). -/
def countBundle (up : Bool) (te vw : Bool) (t : Nat) (l : Slot) : Slot :=
  let d := fun (n : Nat) => if up then n + 1 else n - 1
  if te then l
  else { l with viewCount := if vw then d l.viewCount else l.viewCount, bundles := if t = 62 then d l.bundles else l.bundles }

/-- A bundle that has been counted, and neither retires nor traps, is not counted: it is issued again (R142, R161).
DESIGN CHOICE (log 52, unsafe). -/
def uncountHeld (t : Nat) (l : Slot) : Slot :=
  match l.held with
  | some h => if h.latch.isSome then countBundle false l.st.te l.st.vw t l else l
  | none => l

/-- A core withdraws a request queued or parked at a home (R206). -/
def withdrawWaiter (s : State) (c t : Nat) : State :=
  { s with waiters := s.waiters.filter (fun w => !(w.core == c && w.slot == t)) }

/-- The number of the lowest-numbered register still empty (R25). -/
def lowestEmpty (s : State) (c t : Nat) (regs : List Nat) : Nat :=
  let base := (winOf t (s.slot c t)).1
  ((regs.find? (fun r => (s.core c).empty.contains (base + r))).getD (regs.headD 0))

/-- A matrix operation that runs names the ring (R247, R248). -/
def ringBusy (k : Core) (q : Nat) : Bool :=
  match k.mma with
  | some m => m.qa == q || m.qb == q
  | none => false

/-- A ring holds no tile that no running operation has taken (R253). -/
def ringEmpty (s : State) (c q : Nat) : Bool :=
  match look (s.core c).rings q with
  | some r => decide (r.cnt ≤ (if ringBusy (s.core c) q then 1 else 0))
  | none => true

/-- What the limit of a wait does when it runs out: the trap of the wait, or the return of an instruction that does not
trap on its limit (R150, R214, R337). Nothing of a trapped bundle is performed. Of a matrix operation that waits for the unit alone, both
rings holding tiles, `tval` names ring a. DESIGN CHOICE (log 25, unsafe). -/
def expireLimit (s : State) (c t : Nat) : Limit → State
  | .unbounded => s
  | .trap code info tval => trapWaiting (withdrawWaiter s c t) c t code info tval
  | .sync regs => trapWaiting s c t cWAITLIMIT 1 (wd (lowestEmpty s c t regs))
  | .tile a b => trapWaiting s c t cRING 1 (wd (if ringEmpty s c a || !ringEmpty s c b then a else b))
  | .arrived v => (withdrawWaiter s c t).modSlot c t (fun l => { l.again with reply := some (toBytes 8 v.toNat) })
  | .returns k => (withdrawWaiter s c t).modSlot c t (fun l => { l with wait := some (.retry (.returns k)), expired := true })

/-- WITHDRAW (R206): on the limit of the wait, a pre-emption or a cancel a core withdraws a thread's request from its home: the wait
ends as its limit does, a BCPL keeps its arrival and returns (R214), and under a pre-emption or a cancel any other bundle is checked again
from the first step of R42 when it next issues. -/
def withdraw (c t : Nat) (s : State) : State :=
  let l := s.slot c t
  match l.wait with
  | some (.home _ (.arrived v)) =>
    if l.stopping || l.cancelled || limitReached s c t then expireLimit s c t (.arrived v) else s
  | some (.home _ lim) =>
    if l.stopping || l.cancelled then (withdrawWaiter s c t).modSlot c t (fun l => (uncountHeld t l).awake)
    else if limitReached s c t then expireLimit s c t lim
    else s
  | _ => s

/-- WITHDRAW (R206). -/
def execWithdraw (core slot : Nat) (s : State) : Host.Outcome State Fault Refusal :=
  event (slotOk core slot) (withdraw core slot) s

end Sys2Proof.Machine
end

