-- ==== Sys2Proof/Machine/Home.lean ====
section
/-!
DEFINITION. The home of full/empty words and barriers: the barrier object, requests as one event, waiter queues, parking and retry (R202
to R207, R209, R210).
-/
namespace Sys2Proof.Machine

/-! The barrier object (R209). -/

/-- A barrier: arrivals expected and awaited, pending bytes, phases completed. -/
structure Bar where
  exp : Nat
  arr : Nat
  bytes : Int
  count : Nat
  deriving DecidableEq, Repr, Inhabited

/-- The barrier in 32 bytes, unless it is malformed (R209). DESIGN CHOICE (log 21, unsafe). -/
def parseBar (bs : List Byte) : Option Bar :=
  let w := fun i => ofBytes ((bs.drop (8 * i)).take 8)
  let b : Bar := ⟨bits (w 0) 47 24, bits (w 0) 23 0,
    (if bits (w 1) 55 0 < 2 ^ 55 then (bits (w 1) 55 0 : Int) else (bits (w 1) 55 0 : Int) - (2 ^ 56 : Nat)), bits (w 2) 61 0⟩
  if bits (w 0) 62 48 = 0 ∧ bits (w 1) 63 56 = 0 ∧ bits (w 2) 63 62 = 0 ∧ w 3 = 0 ∧ b.exp ≠ 0 ∧ b.arr ≤ b.exp
    ∧ bits (w 0) 63 63 = b.count % 2 then some b else none

/-- The bytes of a barrier (R209). -/
def barBytes (b : Bar) : List Byte :=
  toBytes 8 (b.count % 2 * 2 ^ 63 + b.exp * 2 ^ 24 + b.arr) ++ toBytes 8 (b.bytes % (2 ^ 56 : Nat)).toNat ++ toBytes 8 b.count
    ++ toBytes 8 0

/-- The phase completes at the event that leaves no arrivals and no bytes awaited (R210). -/
def completePhase (b : Bar) : Bar :=
  if b.arr = 0 ∧ b.bytes = 0 then { b with count := (b.count + 1) % 2 ^ 62, arr := b.exp } else b

/-- The phase of a token has completed (R211). -/
def Bar.passed (b : Bar) (t : Word) : Bool :=
  let d := (((b.count : Int) - (t.toNat : Int)) % (2 ^ 62 : Nat)).toNat
  decide (1 ≤ d) && decide (d ≤ 2 ^ 61 - 1)

/-- A status of a barrier instruction (R211). -/
def barStatus (n : Nat) : Word := wd (2 ^ 63 + n)

/-! Requests at their home (R203, R204). -/

/-- The outcome of a request at its home: its condition does not hold, it traps, or it is performed with a result. -/
inductive HomeOutcome where
  | waits
  | traps (code : Nat) (va : Word)
  | done (v : Word) (s : State)
  deriving Repr, Inhabited

/-- The line or block whose queue a request joins (R204). -/
def lineId (x : Nat) (va : Word) (key : Nat) : Nat := if va.getLsbD 63 then 2 ^ 70 + key / 128 else dirKey x (va.toNat / 128)

def Waiter.line (w : Waiter) : Nat := lineId w.ctx w.va w.key

/-- The place of a request. -/
def Waiter.place (w : Waiter) : Place := { key := w.key, home := w.home, glob := !w.va.getLsbD 63 }

/-- A word registered by a writer is recalled to its home before an event of this chapter (R203). -/
def recalled (s : State) (x : Nat) (va : Word) (n : Nat) : State :=
  if va.getLsbD 63 then s else recallWords s x (va.toNat / 128) (wordMask va.toNat n) 8192

/-- A request changes the tag of its word when it is performed (R208). -/
def HomeOp.changesTag : HomeOp → Bool
  | .ldfe | .stfe _ => true
  | _ => false

/-- The bytes that a request is about. -/
def HomeOp.size : HomeOp → Nat
  | .bwait _ | .bcpl _ => 32
  | _ => 8

/-- The word or barrier of a request lies no more in the scratchpad of its core, which has become smaller (R191): the request stays and waits;
the spec does not say what becomes of it. DESIGN CHOICE (log 21, unsafe). -/
def Waiter.gone (s : State) (w : Waiter) : Bool :=
  w.va.getLsbD 63 && decide (spadBytes (s.core (fabCore w.va)) < wbits w.va 19 0 + w.op.size)

/-- How the wait of a BCPL ends that is not passed: with 2^62 more than its token (R214). -/
def arrivedOnly (token : Word) : Word := token + 0x4000000000000000

/-- A request performed as one event, if its condition holds. A poisoned barrier is no data (R2): BWAIT traps as on its issue, and the wait
of a BCPL, whose arrival stands, ends as R214 gives; the spec names neither. DESIGN CHOICE (log 21, unsafe). -/
def homeEvent (s : State) (w : Waiter) : HomeOutcome :=
  let full := s.isFull w.key && !w.dead
  let line := fun (s : State) => recalled s w.ctx w.va 8
  if w.gone s then .waits
  else
  match w.op with
  | .ldfe => if !full then .waits else if s.isPoison w.key then .traps cPOISON w.va
    else .done (wd (s.num w.key 8)) ((line s).setTag w.key false)
  | .ldf => if !full then .waits else if s.isPoison w.key then .traps cPOISON w.va else .done (wd (s.num w.key 8)) (line s)
  | .stfe v => if full then .waits
    else .done 0 ((storeAt (touchHome s w.core w.ctx w.va.toNat 8 w.place) w.key (toBytes 8 v.toNat)).setTag w.key true)
  | .bwait t =>
    match (if w.dead then none else poisonedAt s w.place w.va 32), (if w.dead then none else parseBar (s.bytes w.key 32)) with
    | some a, _ => .traps cPOISON a
    | none, some b => if b.passed t then .done (wd b.count) (recalled s w.ctx w.va 32) else .waits
    | none, none => .waits
  | .bcpl t =>
    match (if w.dead then none else poisonedAt s w.place w.va 32), (if w.dead then none else parseBar (s.bytes w.key 32)) with
    | some _, _ => .done (arrivedOnly t) s
    | none, some b => if b.passed t then .done (wd b.count) (recalled s w.ctx w.va 32) else .waits
    | none, none => .waits

/-- The home's answer wakes the thread: its bundle is tried again with the reply. -/
def answer (s : State) (c t : Nat) (v : Word) : State :=
  (s.wake c).modSlot c t (fun l => { l.again with reply := some (toBytes 8 v.toNat) })

/-- The oldest queued waiter of a line whose condition holds, with its outcome (R204). -/
def eligible (s : State) (line : Nat) : List Waiter → Option (Waiter × HomeOutcome)
  | [] => none
  | w :: ws =>
    if w.parked || w.line != line then eligible s line ws
    else
      match homeEvent s w with
      | .waits => eligible s line ws
      | o => some (w, o)

/-- A home serves the queue of a line: each eligible waiter in turn, oldest first (R204). -/
def serveQueue : Nat → Nat → State → State
  | 0, _, s => s
  | n + 1, line, s =>
    match eligible s line s.waiters with
    | none => s
    | some (w, o) =>
      match o with
      | .waits => s
      | .traps code va =>
        let s := { s with waiters := dropFirst (· == w) s.waiters }
        serveQueue n line (trapWaiting s w.core w.slot code 0 va)
      | .done v t => serveQueue n line (answer { t with waiters := dropFirst (· == w) t.waiters } w.core w.slot v)

/-- After an event that changes a tag or advances a barrier, the home serves the line's queue and sends a RETRY to each core
noted for the line (R204, R205). -/
def serve (line : Nat) (s : State) : State :=
  let t := serveQueue (s.waiters.length + 1) line s
  { t with notes := t.notes.map (fun n => if n.line = line then { n with sent := true } else n) }

/-- Set the tag of a word at its home; where this changes the tag, the home serves the word's line (R204). -/
def retag (x : Nat) (va : Word) (key : Nat) (f : Bool) (s : State) : State :=
  if s.isFull key == f then s else serve (lineId x va key) (s.setTag key f)

/-- Tags and words of a core's scratchpad have changed all at once: the home serves the lines where a request waits for a tag that has
changed, or for a barrier whose words have (R204). -/
def serveChanged (before : State) (c : Nat) (s : State) : State :=
  ((s.waiters.filter (fun w => w.va.getLsbD 63 && fabCore w.va == c && !w.gone s
    && (before.isFull w.key != s.isFull w.key || (w.op.size == 32 && before.bytes w.key 32 != s.bytes w.key 32)))).map
      Waiter.line).eraseDups.foldl (fun t l => serve l t) s

/-- A move of the split (R191), after which the requests whose tag or barrier it has changed are served (R204). -/
def resplit (s : State) (c new : Nat) : State := serveChanged s c (moveSplit s c new)

/-- A request that must wait joins the queue of its line, or is parked in its core: with a note at the home, or without one,
to retry after 1,024 cycles, which its core, if gated, wakes to count (R21, R204, R205). -/
def enqueue (s : State) (w : Waiter) : State :=
  if (s.waiters.filter (fun u => !u.parked && u.line == w.line)).length < 8 then
    { s with waiters := s.waiters ++ [{ w with parked := false, retryAt := none }] }
  else if s.notes.any (fun n => !n.sent && n.line == w.line && n.core == w.core) then
    { s with waiters := s.waiters ++ [{ w with parked := true, retryAt := none }] }
  else if (s.notes.filter (fun n => !n.sent && n.home == w.home)).length < 32 then
    { s with
      waiters := s.waiters ++ [{ w with parked := true, retryAt := none }]
      notes := s.notes ++ [⟨w.home, w.line, w.core, false⟩] }
  else { s.wake w.core with waiters := s.waiters ++ [{ w with parked := true, retryAt := some ((s.core w.core).cyc + 1024) }] }

/-- A parked request is sent again: performed, queued, or refused again (R205). DESIGN CHOICE (log 21, unsafe). -/
def resend (s : State) (w : Waiter) : State :=
  let s := traceReads { s with waiters := dropFirst (· == w) s.waiters } w.core w.ctx w.va w.op.size
  match homeEvent s w with
  | .waits => enqueue s w
  | .traps code va => trapWaiting s w.core w.slot code 0 va
  | .done v t => if w.op.changesTag then serve w.line (answer t w.core w.slot v) else answer t w.core w.slot v

/-- A registration of the line of a request waits for acknowledgements (R195). -/
def Waiter.held (s : State) (w : Waiter) : Bool := !w.va.getLsbD 63 && lineHeld s w.ctx (w.va.toNat / 128)

/-- RETRY (R205): the core wakes and sends its parked requests for the line again. -/
def retryLine (c line : Nat) (s : State) : State :=
  if s.notes.any (fun n => n.sent && n.line == line && n.core == c)
      && !s.waiters.any (fun w => w.parked && w.core == c && w.line == line && w.held s) then
    let s := { s with notes := s.notes.filter (fun n => !(n.sent && n.line == line && n.core == c)) }
    (s.waiters.filter (fun w => w.parked && w.core == c && w.line == line)).foldl resend (s.wake c)
  else s

/-- RETRY (R205). -/
def execRetry (core line : Nat) (s : State) : Host.Outcome State Fault Refusal :=
  event (decide (core < coreCount)) (retryLine core line) s

/-- PARKED_RETRY_TIMEOUT (R205): a parked request without a note is sent again after 1,024 cycles of its core.
DESIGN CHOICE (log 21, unsafe). -/
def parkedTimeout (c t : Nat) (s : State) : State :=
  match s.waiters.find? (fun w => w.parked && w.core == c && w.slot == t) with
  | some w =>
    match w.retryAt with
    | some n => if n ≤ (s.core c).cyc ∧ w.held s = false then resend s w else s
    | none => s
  | none => s

/-- PARKED_RETRY_TIMEOUT (R205). -/
def execParkedRetryTimeout (core slot : Nat) (s : State) : Host.Outcome State Fault Refusal :=
  event (slotOk core slot) (parkedTimeout core slot) s

/-! Requests whose page has changed (R207). -/

/-- The wait of a BCPL meets a page fault when it is sent again: the fault is recorded and the thread is dropped, but the arrival stands,
so the bundle keeps its wait, and a wake sends the wait alone again (R186, R207, R214). A fault of the pager or monitor moves the context to
faulted (R129), and the wait ends as R214 gives. DESIGN CHOICE (log 21, unsafe). -/
def dropWait (s : State) (w : Waiter) (token : Word) (f : PFault) : State :=
  if s.isPager w.ctx w.core w.slot || s.isMonitor w.ctx w.core w.slot then
    expireLimit (contextFaulted s w.ctx (thid w.core w.slot) (causeWord f.cause 0) w.va) w.core w.slot (.arrived (arrivedOnly token))
  else
    let r := raiseFault s w.ctx w.va.toNat 0 forBarrier.acc (thid w.core w.slot) f (.thread w.core w.slot w.uid)
    r.1.modSlot w.core w.slot (fun l => { l with phase := .dropped, waitSeq := r.2 })

/-- The request of a waiter goes back to its core, is sent again and is checked afresh (R207). The arrival of a BCPL stands, so only
its wait is sent again: it is performed, joins the back of its new queue, or meets a page fault; on a page whose memory has no tags the wait
ends as R214 gives. DESIGN CHOICE (log 21, unsafe). -/
def resendWaiter (s : State) (w : Waiter) : State :=
  match w.op with
  | .bcpl token =>
    match locate s w.ctx w.priv w.va 32 forBarrier with
    | .ok p =>
      if p.tagged then resend s { w with key := p.key, home := p.home, dead := p.dead }
      else expireLimit s w.core w.slot (.arrived (arrivedOnly token))
    | .error (.fault f) => dropWait s w token f
    | .error _ => expireLimit s w.core w.slot (.arrived (arrivedOnly token))
  | _ => (withdrawWaiter s w.core w.slot).modSlot w.core w.slot Slot.again

/-- Requests queued or parked on a word of a range go back to their cores (R207). -/
def resendWaiters (s : State) (x lo hi : Nat) : State :=
  let mine := s.waiters.filter (fun w => w.ctx == x && decide (lo ≤ w.va.toNat) && decide (w.va.toNat < hi))
  mine.foldl resendWaiter { s with waiters := s.waiters.filter (fun w => !mine.contains w) }

end Sys2Proof.Machine
end

