-- ==== Sys2Proof/Machine/Scalar.lean ====
section
/-!
DEFINITION. Integer and address arithmetic on scalar registers (R84 to R88, R39) and RAND (R105).
-/
namespace Sys2Proof.Machine

/-- A comparison's result: 1 or 0. -/
def flag (b : Bool) : Word := if b then 1 else 0

/-- A shift count, xB[5:0] (R84). -/
def shiftCount (b : Word) : Nat := b.toNat % 64

def minS (a b : Word) : Word := if b.slt a then b else a
def maxS (a b : Word) : Word := if a.slt b then b else a
def minU (a b : Word) : Word := if b.ult a then b else a
def maxU (a b : Word) : Word := if a.ult b then b else a

/-- High halves of the 128-bit products (R84). -/
def mulHighS (a b : Word) : Word := BitVec.ofInt 64 (a.toInt * b.toInt / 2 ^ 64)
def mulHighU (a b : Word) : Word := wd (a.toNat * b.toNat / 2 ^ 64)

/-- Quotients and remainders with the edge cases of R85; the signed quotient is truncated towards zero. -/
def divS (a b : Word) : Word := if b = 0 then -1 else BitVec.ofInt 64 (a.toInt.tdiv b.toInt)
def remS (a b : Word) : Word := if b = 0 then a else BitVec.ofInt 64 (a.toInt.tmod b.toInt)
def divU (a b : Word) : Word := if b = 0 then -1 else wd (a.toNat / b.toNat)
def remU (a b : Word) : Word := if b = 0 then a else wd (a.toNat % b.toNat)

/-- The number of set bits among the low `n` bits. -/
def onesBelow (a : Word) : Nat → Nat
  | 0 => 0
  | n + 1 => onesBelow a n + (if a.getLsbD n then 1 else 0)

/-- Leading zeros, counting from bit `n - 1` down. -/
def zerosFrom (a : Word) : Nat → Nat
  | 0 => 0
  | n + 1 => if a.getLsbD n then 0 else zerosFrom a n + 1

/-- Bits of a field (R88). -/
def fieldMask (len : Nat) : Word := wd (2 ^ len - 1)

/-- BFX: the field at `pos` of `len` bits, sign- or zero-extended (R88). -/
def bitField (signed : Bool) (a : Word) (pos len : Nat) : Word :=
  let f := (a >>> pos) &&& fieldMask len
  if signed && f.getLsbD (len - 1) then f ||| ~~~ fieldMask len else f

/-- BFI: the low bits of `a` inserted in `d` (R88). -/
def bitInsert (d a : Word) (pos len : Nat) : Word :=
  (d &&& ~~~ (fieldMask len <<< pos)) ||| ((a &&& fieldMask len) <<< pos)

/-- The mixing rounds of RAND (R105). -/
def randRounds (k : Word) : Nat → Word → Word
  | 0, z => z
  | n + 1, z =>
    let z := (z ^^^ (z >>> 31)) * 0xB7E35A19C4D26F87
    let z := (z ^^^ (z >>> 27)) * 0xE9F13C6B8A45D023
    randRounds k n (z + k)

/-- The function g of RAND (R105). -/
def randWord (k c : Word) : Word :=
  let z := randRounds k 3 (c + (k ^^^ 0x8F3AC55E2B71D4A9))
  z ^^^ (z >>> 33)

/-- ADD (R84): the sum, wrapping. -/
def execAdd (d : Nat) (a b : Src) (s : State) : Host.Outcome State Fault Refusal :=
  guard (.add d a b) (setX d fun s => rx s a.r + rx s b.r) s

/-- SUB (R84): the difference, wrapping. -/
def execSub (d : Nat) (a b : Src) (s : State) : Host.Outcome State Fault Refusal :=
  guard (.sub d a b) (setX d fun s => rx s a.r - rx s b.r) s

/-- AND (R84). -/
def execAnd (d : Nat) (a b : Src) (s : State) : Host.Outcome State Fault Refusal :=
  guard (.and d a b) (setX d fun s => rx s a.r &&& rx s b.r) s

/-- OR (R84). -/
def execOr (d : Nat) (a b : Src) (s : State) : Host.Outcome State Fault Refusal :=
  guard (.or d a b) (setX d fun s => rx s a.r ||| rx s b.r) s

/-- XOR (R84). -/
def execXor (d : Nat) (a b : Src) (s : State) : Host.Outcome State Fault Refusal :=
  guard (.xor d a b) (setX d fun s => rx s a.r ^^^ rx s b.r) s

/-- ANDN (R84). -/
def execAndn (d : Nat) (a b : Src) (s : State) : Host.Outcome State Fault Refusal :=
  guard (.andn d a b) (setX d fun s => rx s a.r &&& ~~~ rx s b.r) s

/-- SHL (R84). -/
def execShl (d : Nat) (a b : Src) (s : State) : Host.Outcome State Fault Refusal :=
  guard (.shl d a b) (setX d fun s => rx s a.r <<< shiftCount (rx s b.r)) s

/-- SHR (R84). -/
def execShr (d : Nat) (a b : Src) (s : State) : Host.Outcome State Fault Refusal :=
  guard (.shr d a b) (setX d fun s => rx s a.r >>> shiftCount (rx s b.r)) s

/-- SRA (R84). -/
def execSra (d : Nat) (a b : Src) (s : State) : Host.Outcome State Fault Refusal :=
  guard (.sra d a b) (setX d fun s => (rx s a.r).sshiftRight (shiftCount (rx s b.r))) s

/-- ROT (R84). -/
def execRot (d : Nat) (a b : Src) (s : State) : Host.Outcome State Fault Refusal :=
  guard (.rot d a b) (setX d fun s => (rx s a.r).rotateLeft (shiftCount (rx s b.r))) s

/-- MIN (R84). -/
def execMin (d : Nat) (a b : Src) (s : State) : Host.Outcome State Fault Refusal :=
  guard (.min d a b) (setX d fun s => minS (rx s a.r) (rx s b.r)) s

/-- MAX (R84). -/
def execMax (d : Nat) (a b : Src) (s : State) : Host.Outcome State Fault Refusal :=
  guard (.max d a b) (setX d fun s => maxS (rx s a.r) (rx s b.r)) s

/-- MINN (R84). -/
def execMinn (d : Nat) (a b : Src) (s : State) : Host.Outcome State Fault Refusal :=
  guard (.minn d a b) (setX d fun s => minU (rx s a.r) (rx s b.r)) s

/-- MAXN (R84). -/
def execMaxn (d : Nat) (a b : Src) (s : State) : Host.Outcome State Fault Refusal :=
  guard (.maxn d a b) (setX d fun s => maxU (rx s a.r) (rx s b.r)) s

/-- SLT (R84). -/
def execSlt (d : Nat) (a b : Src) (s : State) : Host.Outcome State Fault Refusal :=
  guard (.slt d a b) (setX d fun s => flag ((rx s a.r).slt (rx s b.r))) s

/-- SLTN (R84). -/
def execSltn (d : Nat) (a b : Src) (s : State) : Host.Outcome State Fault Refusal :=
  guard (.sltn d a b) (setX d fun s => flag ((rx s a.r).ult (rx s b.r))) s

/-- SEQ (R84). -/
def execSeq (d : Nat) (a b : Src) (s : State) : Host.Outcome State Fault Refusal :=
  guard (.seq d a b) (setX d fun s => flag (rx s a.r == rx s b.r)) s

/-- SEL (R84): the condition is the old xD. -/
def execSel (d : Nat) (a b : Src) (s : State) : Host.Outcome State Fault Refusal :=
  guard (.sel d a b) (setX d fun s => if rx s d = 0 then rx s b.r else rx s a.r) s

/-- MUL (R84): the low half of the product. -/
def execMul (d : Nat) (a b : Src) (s : State) : Host.Outcome State Fault Refusal :=
  guard (.mul d a b) (setX d fun s => rx s a.r * rx s b.r) s

/-- MULH (R84). -/
def execMulh (d : Nat) (a b : Src) (s : State) : Host.Outcome State Fault Refusal :=
  guard (.mulh d a b) (setX d fun s => mulHighS (rx s a.r) (rx s b.r)) s

/-- MULHN (R84). -/
def execMulhn (d : Nat) (a b : Src) (s : State) : Host.Outcome State Fault Refusal :=
  guard (.mulhn d a b) (setX d fun s => mulHighU (rx s a.r) (rx s b.r)) s

/-- DIV (R84, R85). -/
def execDiv (d : Nat) (a b : Src) (s : State) : Host.Outcome State Fault Refusal :=
  guard (.div d a b) (setX d fun s => divS (rx s a.r) (rx s b.r)) s

/-- DIVN (R84, R85). -/
def execDivn (d : Nat) (a b : Src) (s : State) : Host.Outcome State Fault Refusal :=
  guard (.divn d a b) (setX d fun s => divU (rx s a.r) (rx s b.r)) s

/-- REM (R84, R85). -/
def execRem (d : Nat) (a b : Src) (s : State) : Host.Outcome State Fault Refusal :=
  guard (.rem d a b) (setX d fun s => remS (rx s a.r) (rx s b.r)) s

/-- REMN (R84, R85). -/
def execRemn (d : Nat) (a b : Src) (s : State) : Host.Outcome State Fault Refusal :=
  guard (.remn d a b) (setX d fun s => remU (rx s a.r) (rx s b.r)) s

/-- POPC (R84). -/
def execPopc (d : Nat) (a : Src) (s : State) : Host.Outcome State Fault Refusal :=
  guard (.popc d a) (setX d fun s => wd (onesBelow (rx s a.r) 64)) s

/-- CLZ (R84): 64 when xA is 0. -/
def execClz (d : Nat) (a : Src) (s : State) : Host.Outcome State Fault Refusal :=
  guard (.clz d a) (setX d fun s => wd (zerosFrom (rx s a.r) 64)) s

/-- MOV (R84). -/
def execMov (d : Nat) (a : Src) (s : State) : Host.Outcome State Fault Refusal :=
  guard (.mov d a) (setX d fun s => rx s a.r) s

/-- ADDSH (R84). -/
def execAddsh (d : Nat) (a b : Src) (n : Nat) (s : State) : Host.Outcome State Fault Refusal :=
  guard (.addsh d a b n) (setX d fun s => rx s a.r + (rx s b.r <<< n)) s

/-- ADD with an immediate (R86). -/
def execAddImm (d : Nat) (a : Src) (imm : Int) (s : State) : Host.Outcome State Fault Refusal :=
  guard (.addImm d a imm) (setX d fun s => rx s a.r + BitVec.ofInt 64 imm) s

/-- AND with an immediate (R86). -/
def execAndImm (d : Nat) (a : Src) (imm : Int) (s : State) : Host.Outcome State Fault Refusal :=
  guard (.andImm d a imm) (setX d fun s => rx s a.r &&& BitVec.ofInt 64 imm) s

/-- OR with an immediate (R86). -/
def execOrImm (d : Nat) (a : Src) (imm : Int) (s : State) : Host.Outcome State Fault Refusal :=
  guard (.orImm d a imm) (setX d fun s => rx s a.r ||| BitVec.ofInt 64 imm) s

/-- XOR with an immediate (R86). -/
def execXorImm (d : Nat) (a : Src) (imm : Int) (s : State) : Host.Outcome State Fault Refusal :=
  guard (.xorImm d a imm) (setX d fun s => rx s a.r ^^^ BitVec.ofInt 64 imm) s

/-- MUL with an immediate (R86). -/
def execMulImm (d : Nat) (a : Src) (imm : Int) (s : State) : Host.Outcome State Fault Refusal :=
  guard (.mulImm d a imm) (setX d fun s => rx s a.r * BitVec.ofInt 64 imm) s

/-- SHL by an amount (R86). -/
def execShlImm (d : Nat) (a : Src) (imm : Nat) (s : State) : Host.Outcome State Fault Refusal :=
  guard (.shlImm d a imm) (setX d fun s => rx s a.r <<< imm) s

/-- SHR by an amount (R86). -/
def execShrImm (d : Nat) (a : Src) (imm : Nat) (s : State) : Host.Outcome State Fault Refusal :=
  guard (.shrImm d a imm) (setX d fun s => rx s a.r >>> imm) s

/-- SRA by an amount (R86). -/
def execSraImm (d : Nat) (a : Src) (imm : Nat) (s : State) : Host.Outcome State Fault Refusal :=
  guard (.sraImm d a imm) (setX d fun s => (rx s a.r).sshiftRight imm) s

/-- ROT by an amount (R86). -/
def execRotImm (d : Nat) (a : Src) (imm : Nat) (s : State) : Host.Outcome State Fault Refusal :=
  guard (.rotImm d a imm) (setX d fun s => (rx s a.r).rotateLeft imm) s

/-- SLT with a value (R86). -/
def execSltImm (d : Nat) (a : Src) (imm : Int) (s : State) : Host.Outcome State Fault Refusal :=
  guard (.sltImm d a imm) (setX d fun s => flag ((rx s a.r).slt (BitVec.ofInt 64 imm))) s

/-- SLTN with a value (R86). -/
def execSltnImm (d : Nat) (a : Src) (imm : Nat) (s : State) : Host.Outcome State Fault Refusal :=
  guard (.sltnImm d a imm) (setX d fun s => flag ((rx s a.r).ult (wd imm))) s

/-- SEQ with a value (R86). -/
def execSeqImm (d : Nat) (a : Src) (imm : Int) (s : State) : Host.Outcome State Fault Refusal :=
  guard (.seqImm d a imm) (setX d fun s => flag (rx s a.r == BitVec.ofInt 64 imm)) s

/-- MOV with an immediate (R86). -/
def execMovImm (d : Nat) (imm : Int) (s : State) : Host.Outcome State Fault Refusal :=
  guard (.movImm d imm) (setX d fun _ => BitVec.ofInt 64 imm) s

/-- LI (R39): `hi:16` above the 32-bit literal, sign-extended from bit 47. -/
def execLi (d hi lit : Nat) (s : State) : Host.Outcome State Fault Refusal :=
  guard (.li d hi lit) (setX d fun _ => (BitVec.ofNat 48 (hi * 2 ^ 32 + lit)).signExtend 64) s

/-- LI.n (R39): `hi:16` above the 32-bit literal, zero-extended. -/
def execLiN (d hi lit : Nat) (s : State) : Host.Outcome State Fault Refusal :=
  guard (.liN d hi lit) (setX d fun _ => wd (hi * 2 ^ 32 + lit)) s

/-- LI.hi (R39, R87). -/
def execLiHi (d hi : Nat) (s : State) : Host.Outcome State Fault Refusal :=
  guard (.liHi d hi) (setX d fun s => BitVec.ofNat 16 hi ++ (rx s d).extractLsb' 0 48) s

/-- BFX (R88). -/
def execBfx (signed : Bool) (d : Nat) (a : Src) (pos len : Nat) (s : State) : Host.Outcome State Fault Refusal :=
  guard (.bfx signed d a pos len) (setX d fun s => bitField signed (rx s a.r) pos len) s

/-- BFI (R88). -/
def execBfi (d : Nat) (a : Src) (pos len : Nat) (s : State) : Host.Outcome State Fault Refusal :=
  guard (.bfi d a pos len) (setX d fun s => bitInsert (rx s d) (rx s a.r) pos len) s

/-- RAND (R105). -/
def execRand (d : Nat) (a b : Src) (s : State) : Host.Outcome State Fault Refusal :=
  guard (.rand d a b) (setX d fun s => randWord (rx s a.r) (rx s b.r)) s

/-- RAND.v (R105): lane i from counter xB + i, its bits 63:32. -/
def execRandV (d : Nat) (a b : Src) (s : State) : Host.Outcome State Fault Refusal :=
  guard (.randV d a b) (setV d fun s => (List.range 16).map fun i =>
    (randWord (rx s a.r) (rx s b.r + wd i)).extractLsb' 32 32) s

end Sys2Proof.Machine
end

