-- ==== Sys2Proof/Machine/Control.lean ====
section
/-!
DEFINITION. Branches, jumps, NOP, the format prefix, traps and the return from them (R80 to R83, R103, R139, R140, R165).
-/
namespace Sys2Proof.Machine

/-- The code address of the bundle in issue. -/
def State.pc (s : State) : Word := s.cur.pc

/-- A target in the bundle's own segment (R80, R81). -/
def sameSegment (pc tgt : Word) : Bool := decide (tgt.toNat < 2 ^ 15) && tgt.toNat / 4096 == pc.toNat / 4096

/-- The target `off` bundles from the bundle (R23, R80), or 8 times an immediate from a register (R81): the sum wraps modulo 2^64.
DESIGN CHOICE (log 65, unsafe). -/
def branchTarget (pc : Word) (off : Int) : Word := pc + BitVec.ofInt 64 (8 * off)

/-- Go to a target (R82): it takes effect when the bundle retires. -/
def goTo (s : State) (tgt : Word) : State := s.modIss (fun i => { i with npc := tgt })

/-- A conditional branch (R80). -/
def branch (c : State → Bool) (off : Int) : Act := fun s =>
  if c s then
    if sameSegment s.pc (branchTarget s.pc off) then .ok (goTo s (branchTarget s.pc off))
    else .error (.trap cOVERLAY 0 (branchTarget s.pc off))
  else .ok s

/-- A jump with a link (R81). -/
def jump (link : Nat) (tgt : State → Word) : Act := fun s =>
  if sameSegment s.pc (tgt s) then .ok (goTo (wx s link (s.pc + 8)) (tgt s))
  else .error (.trap cOVERLAY 0 (tgt s))

/-- BEQ (R80). -/
def execBeq (d : Nat) (a : Src) (off : Int) (s : State) : Host.Outcome State Fault Refusal :=
  guard (.beq d a off) (branch (fun s => rx s d == rx s a.r) off) s

/-- BNE (R80). -/
def execBne (d : Nat) (a : Src) (off : Int) (s : State) : Host.Outcome State Fault Refusal :=
  guard (.bne d a off) (branch (fun s => rx s d != rx s a.r) off) s

/-- BLT (R80). -/
def execBlt (d : Nat) (a : Src) (off : Int) (s : State) : Host.Outcome State Fault Refusal :=
  guard (.blt d a off) (branch (fun s => (rx s d).slt (rx s a.r)) off) s

/-- BGE (R80). -/
def execBge (d : Nat) (a : Src) (off : Int) (s : State) : Host.Outcome State Fault Refusal :=
  guard (.bge d a off) (branch (fun s => !(rx s d).slt (rx s a.r)) off) s

/-- BLTN (R80). -/
def execBltn (d : Nat) (a : Src) (off : Int) (s : State) : Host.Outcome State Fault Refusal :=
  guard (.bltn d a off) (branch (fun s => (rx s d).ult (rx s a.r)) off) s

/-- BGEN (R80). -/
def execBgen (d : Nat) (a : Src) (off : Int) (s : State) : Host.Outcome State Fault Refusal :=
  guard (.bgen d a off) (branch (fun s => !(rx s d).ult (rx s a.r)) off) s

/-- BZ (R80). -/
def execBz (a : Nat) (off : Int) (s : State) : Host.Outcome State Fault Refusal :=
  guard (.bz a off) (branch (fun s => rx s a == 0) off) s

/-- BNZ (R80). -/
def execBnz (a : Nat) (off : Int) (s : State) : Host.Outcome State Fault Refusal :=
  guard (.bnz a off) (branch (fun s => rx s a != 0) off) s

/-- JAL (R81). -/
def execJal (link : Nat) (off : Int) (s : State) : Host.Outcome State Fault Refusal :=
  guard (.jal link off) (jump link fun s => branchTarget s.pc off) s

/-- JALR (R81): the target must be 8-byte aligned. -/
def execJalr (link : Nat) (a : Src) (imm : Int) (s : State) : Host.Outcome State Fault Refusal :=
  guard (.jalr link a imm) (fun s =>
    if (branchTarget (rx s a.r) imm).toNat % 8 ≠ 0 then .error (.trap cALIGN 0 (branchTarget (rx s a.r) imm))
    else jump link (fun s => branchTarget (rx s a.r) imm) s) s

/-- The segment of a core's code store (R162). -/
def Core.seg (k : Core) (n : Nat) : Seg := lookD k.segs n {}

/-- JMPF (R165): the way into another segment, which must have landed. -/
def execJmpf (link : Nat) (idx : Nat) (s : State) : Host.Outcome State Fault Refusal :=
  guard (.jmpf link idx) (fun s =>
    if (s.here.seg (idx / 512)).st = .landed then .ok (goTo (wx s link (s.pc + 8)) (wd (8 * idx)))
    else .error (.trap cOVERLAY 0 (wd (8 * idx)))) s

/-- NOP (R83). -/
def execNop (s : State) : Host.Outcome State Fault Refusal := guard .nop (fun s => .ok s) s

/-- FMT (R103): a second prefix traps with cause PREFIX, by the checks of R42. -/
def execFmt (lit : Nat) (s : State) : Host.Outcome State Fault Refusal :=
  guard (.fmt lit) (fun s =>
    .ok (s.modCur (fun l => { l with latch := BitVec.ofNat 32 lit, st := { l.st with pp := true } }))) s

/-- TRAP and BKPT (R139): the bundle retires and trap entry follows; with te set it is a double trap, of which nothing
is performed (R137). -/
def trapAfter (code : Nat) (tval : Word) : Act := fun s =>
  if s.cur.st.te then .error (.trap code 0 tval) else .ok (after s (.trap code tval))

/-- TRAP (R139). -/
def execTrap (code : Nat) (s : State) : Host.Outcome State Fault Refusal :=
  guard (.trap code) (trapAfter cTRAP (wd code)) s

/-- BKPT (R139). -/
def execBkpt (s : State) : Host.Outcome State Fault Refusal := guard .bkpt (trapAfter cBKPT 0) s

/-- ERET (R140). -/
def execEret (s : State) : Host.Outcome State Fault Refusal := guard .eret (fun s => .ok (returnTrap s)) s

end Sys2Proof.Machine
end

