-- ==== Sys2Proof/Machine/Csr.lean ====
section
/-!
DEFINITION. Writing the control registers (R131 to R134, R189, R192, R222), and the control-register instructions.
-/
namespace Sys2Proof.Machine

/-- `st` after a write (R132): vw is read-only to every thread, and the other fields to an unprivileged one. -/
def writeSt (s : State) (v : Word) : State :=
  if s.priv then s.modCur (fun l => { l with st := { Status.ofWord v with vw := l.st.vw } }) else s

/-- A write of `wbase` or `wlim` (R133): the new window must fit, and it takes effect at the next bundle; in slots 62 and
63 the write is ignored. -/
def writeWindow (lim : Bool) (v : Word) : Act := fun s =>
  if fixedSlot s.iss.slot then .ok s
  else
    let n := wbits v 10 0
    let lo := if lim then s.cur.wbase else n
    let hi := if lim then n else s.cur.wlim
    if windowBad s lo hi then .error (.trap cWINDOW 0 v) else .ok (after s (.window lim n))

/-- A live launch on the core holds scratchpad (R189, R190). -/
def scratchHeld (s : State) (c : Nat) : Bool :=
  s.ctxs.any (fun p => p.2.launches.any (fun l => l.2.st.live && l.2.cores.contains c && l.2.scr != 0))

/-- A privileged write of `ssplit` (R189). -/
def writeSsplit (s : State) (v : Word) : State :=
  let n := wbits v 4 0
  if scratchHeld s s.iss.core || decide (20 ≤ n) then s else resplit s s.iss.core n

/-- A write of `vgroup` (R192). -/
def writeVgroup (s : State) (v : Word) : State := setVgroup s s.iss.core (wbits v 3 0)

/-- Place words in empty mailboxes. DESIGN CHOICE (log 28, unsafe). -/
def placeMailboxes (m w : SMap Word) : SMap Word := w.foldl (fun m p => put m p.1 p.2) m

/-- A write of a mailbox (R126, R222, R223): it waits, within `waitlim`, while another thread's claim stands, or with a shadow to place while a
complete request of its own has not been taken; else it claims the set, with
the thread's shadow, and waits while the mailbox is full, and at mb3 while one of the others is empty; the write to mb3 is a store-release.
DESIGN CHOICE (log 28, unsafe). -/
def writeMailbox (k : Nat) (v : Word) : Act := fun s =>
  let wait := fun (t : State) => Except.error (ε := Stop) (α := State) (.wait (.retry (.trap cWAITLIMIT 2 (wd k))) t)
  let me := (s.iss.slot, s.cur.uid)
  if s.here.claim.isSome && (s.here.claim != some me || (!s.cur.shadow.isEmpty && (look s.here.mbox 3).isSome)) then wait s
  else
    let m := placeMailboxes s.here.mbox s.cur.shadow
    let claimed := (s.modHere (fun c => { c with claim := some me, mbox := m })).modCur (fun l => { l with shadow := [] })
    if (look m k).isSome then wait claimed
    else if k = 3 then
      (if (look m 0).isSome && (look m 1).isSome && (look m 2).isSome then
        match drained claimed with
        | .error e => .error e
        | .ok t => .ok (t.modHere (fun c => { c with mbox := put m k v, writer := some (s.iss.slot, s.cur.uid, s.myCtx, s.priv) }))
      else wait claimed)
    else .ok (claimed.modHere (fun c => { c with mbox := put m k v }))

/-- What a write of a control register does (R131, R134): fields that are read-only to the issuer and reserved fields keep
their values, and a register that is read-only for every thread ignores the write. -/
def writeCsr (r : Csr) (v : Word) : Act := fun s =>
  match r with
  | .st => .ok (writeSt s v)
  | .trapvec => .ok (s.modCur (fun l => { l with trapvec := v &&& 0x7FF8 }))
  | .epc => .ok (s.modCur (fun l => { l with epc := v &&& 0x7FFF }))
  | .cause => .ok (s.modCur (fun l => { l with cause := v &&& 0xFFFF }))
  | .tval => .ok (s.modCur (fun l => { l with tval := v }))
  | .ssplit => .ok (writeSsplit s v)
  | .vgroup => .ok (writeVgroup s v)
  | .waitlim => .ok (s.modCur (fun l => { l with waitlim := v &&& 0xFFFFFFFF }))
  | .msglim => .ok (s.modHere (fun c => { c with msglim := wbits v 15 0 }))
  | .viewlim => .ok (s.modCur (fun l => { l with viewlim := v &&& 0xFFFFFFFF }))
  | .wbase => writeWindow false v s
  | .wlim => writeWindow true v s
  | .dtsel => .ok (s.modCur (fun l => { l with dtsel := v.getLsbD 0 }))
  | .prio => .ok (s.modCur (fun l => { l with prio := wbits v 2 0 }))
  | .mb k => writeMailbox k v s
  | .unack | .ctxid | .thid | .cyc => .ok s

/-- A control-register write (R134): xD receives the old value in the window as it stands, then the register is written. A
write of a mailbox may wait, and xD is written only when it is performed. -/
def csrBody (d : Nat) (r : Csr) (v : State → Word) : Act := fun s =>
  match r with
  | .mb k =>
    match writeMailbox k (v s) s with
    | .error e => .error e
    | .ok t => .ok (wx t d 0)
  | r => writeCsr r (v s) (wx s d (csrGet s r))

/-- CSRR (R134). -/
def execCsrr (d : Nat) (r : Csr) (s : State) : Host.Outcome State Fault Refusal :=
  guard (.csrr d r) (setX d fun s => csrGet s r) s

/-- CSRW (R134). -/
def execCsrw (d : Nat) (r : Csr) (a : Nat) (s : State) : Host.Outcome State Fault Refusal :=
  guard (.csrw d r a) (csrBody d r fun s => rx s a) s

/-- CSRS (R134). -/
def execCsrs (d : Nat) (r : Csr) (a : Nat) (s : State) : Host.Outcome State Fault Refusal :=
  guard (.csrs d r a) (csrBody d r fun s => csrGet s r ||| rx s a) s

/-- CSRC (R134). -/
def execCsrc (d : Nat) (r : Csr) (a : Nat) (s : State) : Host.Outcome State Fault Refusal :=
  guard (.csrc d r a) (csrBody d r fun s => csrGet s r &&& ~~~ rx s a) s

/-! The rows of the table for the effect of a write, performed for the thread in issue. -/

/-- An effect of the thread in issue; it does not occur for a slot without a ready thread. -/
def forThread (a : Act) (s : State) : State :=
  if s.cur.phase = .ready then
    match a s with
    | .ok t => t
    | .error e => stopped true s e
  else s

/-- A write that an unprivileged thread may not make traps with cause PRIV (R134). -/
def asWriter (ok : State → Bool) (a : Act) : Act := fun s =>
  if ok s then a s else .error (.trap cPRIV 0 (wd s.iss.bundle))

/-- ST_REGISTER_WRITE (R132). -/
def execStRegisterWrite (v : Nat) (s : State) : Host.Outcome State Fault Refusal :=
  event (decide (v < 2 ^ 64)) (forThread (asWriter (fun s => s.priv || (wd v ^^^ csrGet s .st) &&& stPrw == 0)
    (writeCsr .st (wd v)))) s

/-- WINDOW_WRITE (R133). -/
def execWindowWrite (lim : Bool) (v : Nat) (s : State) : Host.Outcome State Fault Refusal :=
  event (decide (v < 2 ^ 64)) (forThread (asWriter (fun s => s.priv || fixedSlot s.iss.slot) (writeWindow lim (wd v)))) s

/-- SSPLIT_WRITE (R189, R191). -/
def execSsplitWrite (v : Nat) (s : State) : Host.Outcome State Fault Refusal :=
  event (decide (v < 2 ^ 64)) (forThread (asWriter State.priv (writeCsr .ssplit (wd v)))) s

/-- VGROUP_WRITE (R192). -/
def execVgroupWrite (v : Nat) (s : State) : Host.Outcome State Fault Refusal :=
  event (decide (v < 2 ^ 64)) (forThread (asWriter State.priv (writeCsr .vgroup (wd v)))) s

/-- MAILBOX_WRITE (R222). -/
def execMailboxWrite (k v : Nat) (s : State) : Host.Outcome State Fault Refusal :=
  event (decide (k < 4) && decide (v < 2 ^ 64)) (forThread (writeMailbox k (wd v))) s

end Sys2Proof.Machine
end

