-- ==== Sys2Proof/Machine/Group.lean ====
section
/-!
DEFINITION. Groups: views' release, queue-entry completion, completion counters, launches and their closing, the creation
and the end of threads (R145 to R160, R166, R175, R190), with LAUNCH, CNTRD, CNTWAIT, TID and YIELD.
-/
namespace Sys2Proof.Machine

/-! Views (R276, R280). -/

/-- The unbinding of a cell has committed, and no view is pinned below it (R280). -/
def unbindOver (k : Ctx) (c : Cell) : Bool :=
  match c.unboundAt with
  | some g => decide (g ≤ k.committed) && k.views.all (fun v => decide (g ≤ v.2))
  | none => false

/-- Frames of runs. -/
def runFrames (rs : List (Nat × Nat)) : Nat := rs.foldl (fun n r => n + r.2) 0

/-- The storage of a version buffer, as the engine takes it back. -/
def Buf.range (die : Nat) (u : Buf) : List Unmap :=
  if u.runs.isEmpty then [] else [{ addr := u.addr, size := 4096 * runFrames u.runs, tier := 0, die := die, runs := u.runs }]

/-- The storage and number of an unbound cell are freed when its unbinding has committed and no view is pinned below it
(R280), which the sheet marks dead (R179); the tag of the number advances. -/
def freeCells (k : Ctx) : Ctx :=
  { k with
    unmaps := k.unmaps ++ ((k.cells.filter (fun p => unbindOver k p.2)).flatMap (fun p => p.2.buf0.range p.2.die ++ p.2.buf1.range p.2.die)).map
      (fun u => { u with dead := true })
    cells := k.cells.map (fun p => if unbindOver k p.2 then (p.1, { tag := (p.2.tag + 1) % 2 ^ 16 }) else p) }

/-- The view of a thread is released (R276). -/
def closeView (s : State) (c t : Nat) : State :=
  match (s.slot c t).view with
  | none => s
  | some _ =>
    (s.modSlot c t (fun l => { l with view := none, viewCount := 0, st := { l.st with vw := false } })).modCtx (s.ctxOf c t)
      (fun k => freeCells { k with views := k.views.filter (fun v => v.1 != (s.slot c t).uid) })

/-- The view that a CLD opened for itself is released (R276). -/
def closeImplicit (s : State) (c t : Nat) : State := if (s.slot c t).st.vw then s else closeView s c t

/-- A reader waits for no repair any more (R277): a failed repair of which no reader has still to learn is forgotten. -/
def leaveRepairs (s : State) (x uid : Nat) : State :=
  if (s.ctx x).repairs.any (fun r => r.waiters.contains uid) then
    s.modCtx x (fun k => { k with repairs := (k.repairs.map (fun r => { r with waiters := delN r.waiters uid })).filter (fun r =>
      !(r.failed && r.waiters.isEmpty)) })
  else s

/-! Queue entries (R171, R172, R175). -/

/-- The address of word 0 of an entry's ring slot (R171), and its key. -/
def entryAddr (q : Queue) (seq : Nat) : Nat := q.base + 64 * (seq % 2 ^ q.lg)
def entryKey (q : Queue) (seq : Nat) : Nat := memKey q.tier (entryAddr q seq)

/-- How far the entries from `r` on are complete. -/
def retiredFrom (codes : SMap Nat) : Nat → Nat → Nat
  | 0, r => r
  | n + 1, r => if (look codes r).isSome then retiredFrom codes n (r + 1) else r

/-- The completion record of a queue (R172), written at system scope (R127): queue 0 of a context keeps its event record, and what is
reserved is zero. -/
def writeRecord (s : State) (zero : Bool) (q : Queue) : State :=
  let counts := toBytes 8 q.taken ++ toBytes 8 q.retired ++ toBytes 8 ((if q.badtail then 2 else 0) + (if q.overrun then 1 else 0))
  if zero then deviceWrite (deviceWrite s q.recTier q.record counts) q.recTier (q.record + 0x38) (toBytes 8 0)
  else deviceWrite s q.recTier q.record (counts ++ List.replicate 40 0)

/-- An entry of a queue is complete: its code is kept, and `retired` follows (R172). -/
def Queue.complete (u : Queue) (seq code : Nat) : Queue :=
  let codes := put u.codes seq code
  { u with codes := codes, entries := u.entries.filter (·.seq != seq), retired := retiredFrom codes (codes.length + 1) u.retired }

/-- The status word of an entry: `done:1 res:15 code:16 val:32` (R174, R175). -/
def statusOf (code val : Nat) : Nat := 2 ^ 63 + code % 2 ^ 16 * 2 ^ 32 + val % 2 ^ 32

/-- The status word of an entry is written at system scope (R127, R175). -/
def writeStatus (s : State) (u : Queue) (seq code val : Nat) : State :=
  deviceWrite s u.tier (entryAddr u seq + 0x38) (toBytes 8 (statusOf code val))

/-- An entry completes with its status word (R175); the queue's completion record follows. -/
def completeEntry (s : State) (x q seq code val : Nat) : State :=
  match look (s.ctx x).queues q with
  | none => s
  | some u =>
    writeRecord ((writeStatus s u seq code val).modCtx x (fun k => { k with queues := put k.queues q (u.complete seq code) }))
      (q == 0) (u.complete seq code)

/-! Completion counters (R146 to R148). -/

def recCode : RecState → Nat
  | .open_ => 0 | .complete => 1 | .cancelling => 2 | .cancelled => 3

/-- A counter's record: `st:3 res:13 total:24 done:24`, the counts saturating (R147). -/
def recWord (st : RecState) (total done : Nat) : Word :=
  wd (recCode st * 2 ^ 61 + min total (2 ^ 24 - 1) * 2 ^ 24 + min done (2 ^ 24 - 1))

/-- NOTFOUND (R147). -/
def notFound : Word := wd (7 * 2 ^ 61)

/-- A record is kept until 256 later instances of its level have closed (R148). -/
def kept (st : RecState) (closedAt closes : Nat) : Bool := st.live || decide (closes < closedAt + 256)

/-- A phase takes no more entries and its members have all closed: it closes (R148, R153). -/
def tryClosePhase (k : Ctx) (p : Nat) : Ctx :=
  match look k.phases p with
  | none => k
  | some r =>
    if r.st.live && !r.intake && r.done == r.total then
      let n := k.phaseCloses + 1
      let r := { r with st := if r.anyCancel || r.st == .cancelling then .cancelled else .complete, closedAt := n }
      { k with
        phaseCloses := n
        closedPhases := insN k.closedPhases p
        phases := (put k.phases p r).filter (fun e => kept e.2.st e.2.closedAt n)
        job := (k.job.1, k.job.2 + 1) }
    else k

/-- The phase that a wave joins (R145): once closed a phase never changes again (R147), so the wave of a deferred edit whose issuer's phase
has closed belongs to the job alone. DESIGN CHOICE (log 35, unsafe). -/
def joinedOpen (k : Ctx) (phase : Option Nat) : Option Nat :=
  phase.filter (fun p => (match look k.phases p with | some r => r.st.live | none => true) && !k.closedPhases.contains p)

/-- A launch or a wave joins its phase, or the job (R145). -/
def joinPhase (k : Ctx) : Option Nat → Ctx
  | some p =>
    match look k.phases p with
    | some r => { k with phases := put k.phases p { r with total := r.total + 1 } }
    | none => { k with phases := put k.phases p { total := 1 }, job := (k.job.1 + 1, k.job.2) }
  | none => { k with job := (k.job.1 + 1, k.job.2) }

/-- A launch or a wave closes as a member (R148). -/
def leavePhase (k : Ctx) (cancelled : Bool) : Option Nat → Ctx
  | some p =>
    match look k.phases p with
    | some r => tryClosePhase { k with phases := put k.phases p { r with done := r.done + 1, anyCancel := r.anyCancel || cancelled } } p
    | none => k
  | none => { k with job := (k.job.1, k.job.2 + 1) }

/-- The core no longer serves a launch: its segments become empty (R162); when it held the scratchpad, the split moves back
(R190) and the rings and the station's match entries go (R232, R243). -/
def leaveCore (s : State) (x n : Nat) (scr : Nat) (c : Nat) : State :=
  let s := s.modCore c (fun k => { k with
    segs := k.segs.filter (fun p => p.2.holder != some (x, n)) })
  let s := if scr = 0 then s else resplit s c 0
  if scr ≠ 0 || !(s.ctx x).launches.any (fun p => p.2.st.live && p.2.cores.contains c) then
    s.modCore c (fun k => { k with matches_ := [], rings := [] })
  else s

/-- A launch entry that waits for one of the cores, or (`own`) for a launch of its context to close, is eligible again (R177). -/
def unblock (own : Bool) (cores : List Nat) (e : Entry) : Entry :=
  match e.blocked with
  | some cs => if (own && cs.isEmpty) || cs.any cores.contains then { e with blocked := none } else e
  | none => e

/-- Launch entries that waited for cores which a launch of a context held, or its pager or monitor, are eligible again (R177). -/
def unblockAll (s : State) (x : Nat) (launch : Bool) (cores : List Nat) : State :=
  { s with ctxs := s.ctxs.map (fun p => (p.1, { p.2 with queues := p.2.queues.map (fun q =>
      (q.1, { q.2 with entries := q.2.entries.map (unblock (launch && p.1 == x) cores) })) })) }

/-- A thread of the context is resident on a core (R128). -/
def residentIn (s : State) (x : Nat) : Bool :=
  s.cores.any (fun p => p.2.slots.any (fun t => t.1 != 63 && t.2.phase != .free && s.ctxOf p.1 t.1 == x))

/-- A thread of a context has left its core: a running context of which none is left is runnable (R128). -/
def leftCore (x : Nat) (s : State) : State :=
  if (s.ctx x).st = .running ∧ residentIn s x = false then s.modCtx x (fun k => { k with st := .runnable }) else s

/-- A launch closes when its last thread has finished (R148, R153): one event, which completes its queue entry (R175) and
counts it in its phase. -/
def closeLaunch (s : State) (x n : Nat) : State :=
  match look (s.ctx x).launches n with
  | none => s
  | some l =>
    let st := if l.anyCancel || l.st == .cancelling then RecState.cancelled else .complete
    let s := s.modCtx x (fun k =>
      leavePhase { k with
        closes := k.closes + 1
        launches := (put k.launches n { l with st := st, closedAt := k.closes + 1 }).filter (fun p => kept p.2.st p.2.closedAt (k.closes + 1)) }
        (st == .cancelled) l.phase)
    let s := unblockAll s x true l.cores
    let s := l.cores.foldl (fun t c => leaveCore t x n l.scr c) s
    match l.fromEntry with
    | some (q, seq) => if st = .complete then completeEntry s x q seq 0 n else completeEntry s x q seq 8 0
    | none => s

/-- A thread's transfers that have neither completed nor stopped (R148). -/
def transfersOf (s : State) (c uid : Nat) : Nat :=
  ((s.core c).chans.filter (fun p => match p.2.who with | some w => w.2.1 == uid | none => false)).length
    + (match (s.core c).writer with | some w => if w.2.1 = uid && (look (s.core c).mbox 3).isSome then 1 else 0 | none => 0)

/-- A member thread has finished (R148). -/
def finishMember (s : State) (x n idx : Nat) (cancelled : Bool) : State :=
  match look (s.ctx x).launches n with
  | none => s
  | some l =>
    if l.finished.contains idx then s
    else
      let l := { l with
        finished := insN l.finished idx
        done := l.done + 1
        stopped := if cancelled then insN l.stopped idx else l.stopped
        anyCancel := l.anyCancel || cancelled }
      let s := s.modCtx x (fun k => { k with launches := put k.launches n l })
      if l.done = l.total then closeLaunch s x n else s

/-- A thread of the context with this identity is on a core, or saved (R142, R144). -/
def threadLives (s : State) (x c uid : Nat) : Bool :=
  (s.core c).slots.any (fun p => p.2.uid == uid && p.2.phase != .free) || (s.ctx x).saved.any (fun p => p.uid == uid)

/-- After a transfer of an ended thread has finished, the thread finishes (R148). -/
def settleMember (s : State) (x c uid : Nat) : State :=
  match ((s.ctx x).launches.findSome? (fun p => if p.2.st.live then
      ((List.range p.2.threads.length).find? (fun i => p.2.threads.getD i (0, 0, 0) |>.2.2 == uid)).map (fun i => (p.1, i)) else none)) with
  | some (n, i) =>
    if threadLives s x c uid || transfersOf s c uid ≠ 0 then s
    else finishMember s x n i (((look (s.ctx x).launches n).getD {}).stopped.contains i)
  | none => s

/-- An incomplete mailbox set of a thread is discarded (R223); `all`: a complete one too (R152 step 5).
DESIGN CHOICE (log 28, unsafe). -/
def discardMailboxes (s : State) (c t uid : Nat) (all : Bool) : State :=
  if (s.core c).claim = some (t, uid) ∧ (all ∨ (look (s.core c).mbox 3).isNone) then
    s.modCore c (fun k => { k with mbox := [], claim := none, writer := none })
  else s

/-- The completion messages of a thread that has ended are discarded, wherever they wait (R158, R229). -/
def dropCompletions (s : State) (c uid : Nat) : State :=
  let other := fun (m : Msg) => m.kind != .completion uid
  s.modCore c (fun k => { k with queue := k.queue.filter other, station := k.station.filter other, kept := k.kept.filter other })

/-- A user thread ends (R158): its view and streams are released, an incomplete claim is discarded, its window and
accumulators return to the core, and its launch is credited once its transfers have completed. -/
def endUser (s : State) (c t : Nat) (cancelled : Bool) : State :=
  let l := s.slot c t
  let x := l.ctx
  let s := leaveRepairs (discardMailboxes (closeView s c t) c t l.uid cancelled) x l.uid
  let s := dropCompletions s c l.uid
  let s := { s with waiters := s.waiters.filter (fun w => !(w.core == c && w.slot == t)) }
  let s := leftCore x (s.setSlot c t {})
  if l.launch = 0 then s
  else
    let s := if cancelled then s.modCtx x (fun k => { k with launches := k.launches.map (fun p =>
        if p.1 = l.launch then (p.1, { p.2 with anyCancel := true, stopped := insN p.2.stopped l.index }) else p) }) else s
    if transfersOf s c l.uid = 0 then finishMember s x l.launch l.index cancelled else s

/-! LAUNCH. -/

/-- A launch descriptor (R166). -/
structure Desc where
  entry : Nat
  thr : Nat
  win : Nat
  scr : Nat
  acc : Nat
  first : Nat
  count : Nat
  list : Nat
  image : Nat
  segmask : Nat
  waitlim : Nat
  viewlim : Nat
  deriving DecidableEq, Repr, Inhabited

/-- The descriptor's fields, when every reserved bit is zero and every field lies within its limits (R166). -/
def parseDesc (bs : List Byte) : Option Desc :=
  let w := fun i => ofBytes ((bs.drop (8 * i)).take 8)
  let w0 := w 0
  let w1 := w 1
  let d : Desc := {
    entry := bits w0 14 0, thr := bits w0 35 28, win := bits w0 43 36, scr := bits w0 48 44, acc := bits w0 55 52
    first := bits w1 12 0, count := bits w1 28 15, list := w 2, image := w 3, segmask := bits (w 4) 7 0
    waitlim := bits (w 5) 31 0, viewlim := bits (w 5) 63 32 }
  let reserved := bits w0 63 56 + bits w0 51 49 + bits w0 27 15 + bits w1 63 29 + bits w1 14 13 + bits (w 4) 63 8 + w 6 + w 7
  if reserved = 0 ∧ d.entry % 8 = 0 ∧ d.segmask.testBit (d.entry / 4096) = true ∧ 1 ≤ d.thr ∧ d.thr ≤ 62
    ∧ 8 ≤ d.win ∧ d.win ≤ 128 ∧ d.thr * d.win ≤ 1984 ∧ d.acc ≤ 8 ∧ d.thr * d.acc ≤ 8 ∧ d.scr ≤ 19
    ∧ 1 ≤ d.count ∧ d.count ≤ 8192 ∧ (d.list ≠ 0 ∨ d.first + d.count ≤ 8192) ∧ d.image < 2 ^ 57 ∧ d.image % 4096 = 0
  then some d else none

/-- No number occurs twice. -/
def distinct : List Nat → Bool
  | [] => true
  | a :: t => !t.contains a && distinct t

/-- The core list's entries, `res:3 core:13` (R166): none when a reserved bit is set or a core is named twice. -/
def parseList (bs : List Byte) (count : Nat) : Option (List Nat) :=
  let cs := (List.range count).map (fun i => ofBytes ((bs.drop (2 * i)).take 2))
  if cs.all (fun c => decide (c < 8192)) && distinct cs then some cs else none

/-- Slots of a core that hold no thread, ascending (R155). DESIGN CHOICE (log 59, unsafe). -/
def freeSlots (k : Core) : List Nat := (List.range 62).filter (fun t => (k.slot t).phase == .free)

/-- Free physical accumulators, ascending (R238). -/
def freeAccs (k : Core) : List Nat := (List.range 8).filter (fun a => !k.slots.any (fun p => p.2.phase != .free && p.2.accs.contains a))

/-- The windows in use among entries 0 to 1,983 (R159). -/
def usedWindows (k : Core) : List (Nat × Nat) :=
  (k.slots.filter (fun p => decide (p.1 < 62) && p.2.phase != .free)).map (fun p => (p.2.wbase, p.2.wlim))

/-- A window of `n` entries fits at a base. -/
def fits (used : List (Nat × Nat)) (n base : Nat) : Bool :=
  decide (base + n ≤ 1984) && used.all (fun u => decide (base + n ≤ u.1) || decide (u.2 ≤ base))

/-- The lowest base at which a window fits (R159). -/
def lowestBase (used : List (Nat × Nat)) (n : Nat) : Option Nat :=
  (((0 :: used.map (·.2)).foldl insN []).find? (fits used n))

/-- The bases of several windows, placed one after another. -/
def placeWindows (used : List (Nat × Nat)) (n : Nat) : Nat → Option (List Nat)
  | 0 => some []
  | k + 1 =>
    match lowestBase used n with
    | none => none
    | some b => (placeWindows ((b, b + n) :: used) n k).map (b :: ·)

/-- The status of a launch on one core, 0 when it has room (R155, R166, R190). DESIGN CHOICE (log 59, unsafe). -/
def coreStatus (s : State) (d : Desc) (c : Nat) : Nat :=
  let k := s.core c
  if (freeSlots k).length < d.thr || k.segs.any (fun p => d.segmask.testBit p.1 && p.2.holder.isSome) then 3
  else if (placeWindows (usedWindows k) d.win d.thr).isNone then 4
  else if (freeAccs k).length < d.thr * d.acc then 5
  else if d.scr ≠ 0 && scratchHeld s c then 6
  else 0

/-- A core may not serve the context: it is absent, or another context holds it (R155, R351). -/
def badCore (s : State) (x c : Nat) : Bool :=
  decide (8192 ≤ c) || (s.core c).absent || s.ctxs.any (fun p => p.1 != x && p.2.holds c)

/-- The status of a launch: 2 BADCORE, 3 to 6 of the first core that is short, 7 BUSY, else 0 (R155). -/
def launchStatus (s : State) (x : Nat) (d : Desc) (cores : List Nat) : Nat :=
  if cores.any (badCore s x) then 2
  else
    match cores.findSome? (fun c => if coreStatus s d c = 0 then none else some (coreStatus s d c)) with
    | some n => n
    | none => if 4096 ≤ ((s.ctx x).launches.filter (fun p => p.2.st.live)).length then 7 else 0

/-- The next launch number (R146): one whose instance is open or kept is skipped. DESIGN CHOICE (log 7, unsafe). -/
def nextNumber (k : Ctx) : Nat → Nat → Nat
  | 0, n => n
  | f + 1, n => if (look k.launches n).isSome then nextNumber k f (if n = 2 ^ 24 - 1 then 1 else n + 1) else n

/-- Zero entries of a register file and set them full. -/
def zeroEntries (s : State) (c lo hi : Nat) : State :=
  s.modCore c (fun k => { k with
    regs := k.regs.filter (fun p => !(decide (lo ≤ p.1) && decide (p.1 < hi)))
    empty := k.empty.filter (fun e => !(decide (lo ≤ e) && decide (e < hi))) })

/-- The core begins to hold a context (R131, R159, R168): when it is another one, or a new one of the same number (R128), `msglim` and the fixed
windows are reset, and no result of a reduction of the old context is left. A pager or monitor of another context counts as a launch of it
does, so the first launch of that context there resets nothing more. DESIGN CHOICE (log 59, unsafe). -/
def beginHolding (s : State) (c x : Nat) : State :=
  if (s.core c).heldCtx = some x then s
  else (zeroEntries s c 1984 2048).modCore c (fun k => { k with heldCtx := some x, msglim := 1024, table := [] })

/-- A new thread in a slot (R130, R131, R158, R166): it waits for its entry segment. -/
def newThread (s : State) (c t : Nat) (l : Slot) : State :=
  let q := s.tick
  (zeroEntries q.2 c l.wbase l.wlim).setSlot c t { l with phase := .starting, uid := q.1 }

/-- The segments of a launch begin their fetch (R162, R166). -/
def fetchSegments (k : Core) (mask image : Nat) (priv : Bool) (holder : Nat × Nat) : Core :=
  { k with gated := false, segs := ((List.range 8).filter mask.testBit).foldl (fun m i =>
      put m i { st := .fetching, image := image + 4096 * i, priv := priv, ctx := holder.1, holder := some holder }) k.segs }

/-- The threads of a launch on one core (R155, R166, R238). DESIGN CHOICE (log 59, unsafe). -/
def launchOn (x n : Nat) (d : Desc) (prio : Nat) (arg : Word) (trapvec : Nat) (s : State) (c : Nat) : State :=
  let s := beginHolding s c x
  let k := s.core c
  let slots := (freeSlots k).take d.thr
  let bases := (placeWindows (usedWindows k) d.win d.thr).getD []
  let accs := freeAccs k
  let s := if d.scr = 0 then s else resplit s c d.scr
  let s := s.modCore c (fun k => fetchSegments k d.segmask d.image false (x, n))
  (List.range d.thr).foldl (fun s i =>
    let t := slots.getD i 0
    let b := bases.getD i 0
    let mine := (accs.drop (i * d.acc)).take d.acc
    let index := ((look (s.ctx x).launches n).getD {}).threads.length
    let s := newThread s c t { pc := wd d.entry, st := Status.created false, trapvec := wd trapvec
                               waitlim := wd d.waitlim, viewlim := wd d.viewlim, ctx := x, wbase := b, wlim := b + d.win
                               prio := prio, launch := n, index := index, accs := mine }
    let s := s.modCore c (fun k => { k with accs := mine.foldl (fun m a => put m a {}) k.accs })
    let s := setEntry s c (b + 1) arg
    s.modCtx x (fun k => { k with launches := k.launches.map (fun p =>
      if p.1 = n then (n, { p.2 with threads := p.2.threads ++ [(c, t, (s.slot c t).uid)] }) else p) })) s

/-- Create a launch: its counter, its membership and its threads (R145, R155). -/
def createLaunch (s : State) (x : Nat) (d : Desc) (cores : List Nat) (phase : Option Nat) (prio : Nat) (arg : Word)
    (fromEntry : Option (Nat × Nat)) : Nat × State :=
  let k := s.ctx x
  let n := nextNumber k (k.launches.length + 1) k.nextLaunch
  let q := s.tick
  let l : Launch := { total := d.thr * cores.length, cores := cores, thr := d.thr, win := d.win, acc := d.acc, scr := d.scr
                      entry := d.entry, segmask := d.segmask, image := d.image, viewlim := d.viewlim, waitlim := d.waitlim
                      phase := phase, made := q.1, fromEntry := fromEntry }
  let s := q.2.modCtx x (fun k => joinPhase { k with
    launches := put k.launches n l, nextLaunch := if n = 2 ^ 24 - 1 then 1 else n + 1 } phase)
  (n, cores.foldl (launchOn x n d prio arg k.trapvec) s)

/-- LAUNCH's failure (R155). -/
def launchFail (st : Nat) : Word := wd (2 ^ 63 + st)

/-- The phase of a thread's launch (R145). -/
def phaseOf (s : State) (l : Slot) : Option Nat :=
  ((look (s.ctx l.ctx).launches l.launch).bind (·.phase))

/-- The descriptor and core list at an address, read as loads of the bundle in issue (R155): none for BADDESC.
DESIGN CHOICE (log 14, unsafe). -/
def readDesc (s : State) (va : Word) : Except Stop (Option (Desc × List Nat) × State) :=
  if !aligned va 64 then .error (.trap cALIGN 0 va)
  else
    match readRange s va 64 forLoad with
    | .error e => .error e
    | .ok (bs, s) =>
      match parseDesc bs with
      | none => .ok (none, s)
      | some d =>
        if d.list = 0 then .ok (some (d, (List.range d.count).map (d.first + ·)), s)
        else if !aligned (wd d.list) 2 then .error (.keep s cALIGN 0 (wd d.list))
        else
          match readRange s (wd d.list) (2 * d.count) forLoad with
          | .error e => .error e
          | .ok (bs, s) => .ok ((parseList bs d.count).map (d, ·), s)

/-- LAUNCH (R155, R156): a release, then the descriptor; every thread of the launch or none. -/
def execLaunch (d : Nat) (a b : Src) (s : State) : Host.Outcome State Fault Refusal :=
  guard (.launch d a b) (fun s =>
    match drained s with
    | .error e => .error e
    | .ok s =>
      match readDesc s (rx s a.r) with
      | .error e => .error e
      | .ok (none, s) => .ok (wx s d (launchFail 1))
      | .ok (some (desc, cores), s) =>
        let x := s.myCtx
        let st := launchStatus s x desc cores
        if st ≠ 0 then .ok (wx s d (launchFail st))
        else
          let r := createLaunch s x desc cores (phaseOf s s.cur) s.cur.prio (rx s b.r) none
          .ok (wx r.2 d (wd r.1))) s

/-- Reports that the monitor's slot had refused are sent again when a thread starts in that slot, before those that were sent later and
still wait at the station (R138, R317). DESIGN CHOICE (log 27, unsafe). -/
def sendReports (x c t : Nat) (s : State) : State :=
  if (s.ctx x).monitorRec ≠ 0 ∧ (s.ctx x).monitor = (c, t) then
    (s.modCore c (fun k => { k with station := (s.ctx x).reports ++ k.station })).modCtx x (fun k => { k with reports := [] })
  else s

/-- THREAD_START (R166): the entry segment has landed or failed, and the thread is ready. -/
def threadStart (c t : Nat) (s : State) : State :=
  let l := s.slot c t
  let seg := (lookD (s.core c).segs (l.pc.toNat / 4096) {}).st
  if l.phase = .starting ∧ (match seg with | .landed => true | .failed _ => true | _ => false) = true then
    sendReports l.ctx c t ((s.wake c).modSlot c t (fun l => { l with phase := .ready }))
  else s

/-! CNTRD, CNTWAIT, TID, YIELD. -/

/-- The record of a thread by its launch, core and slot (R146, R147): it is being cancelled while the thread in the slot is, and after it
has ended so, until its transfers have stopped. A name whose launch is 0 names no thread: those of no launch are read under the name 0 alone.
DESIGN CHOICE (log 59, unsafe). -/
def threadRecord (s : State) (x n c t : Nat) : Word :=
  match look (s.ctx x).launches n with
  | none => notFound
  | some l =>
    match (List.range l.threads.length).find? (fun i => let p := l.threads.getD i (0, 0, 0); p.1 == c && p.2.1 == t) with
    | none => notFound
    | some i =>
      if l.finished.contains i then (if l.stopped.contains i then recWord .cancelled 1 1 else recWord .complete 1 1)
      else if l.st == .cancelling || l.stopped.contains i || ((s.slot c t).uid == (l.threads.getD i (0, 0, 0)).2.2 && (s.slot c t).cancelled) then
        recWord .cancelling 1 0
      else recWord .open_ 1 0

/-- The record of a wave by its generation. When the generation of a cancelled wave is given again (R268) the name has two records, and the
spec does not say which it reads: the model reads the open wave, whose record replaces the old one when it closes.
DESIGN CHOICE (log 33, unsafe). -/
def waveRecord (k : Ctx) (g : Nat) : Word :=
  match k.waves.find? (·.gen == g) with
  | some w => recWord (if w.cancelling then .cancelling else .open_) w.items.length (w.items.filter (fun i => i.2 == .finished)).length
  | none =>
    match k.waveRecs.find? (·.gen == g) with
    | some r => recWord r.st r.total r.done
    | none => notFound

/-- The wave of the formula work item in hand; repairs are members of no wave (R145, R154). -/
def ownWave (l : Slot) : Option Nat := l.item.bind (fun i => if i.repair then none else some i.gen)

/-- The record that a name names at a level (R146, R147); the name 0 names the issuer's own instance. -/
def counter (s : State) (lv : Level) (name : Word) : Word :=
  let k := s.ctx s.myCtx
  let l := s.cur
  match lv with
  | .thread =>
    if name = 0 then
      (if l.launch = 0 then recWord (if l.cancelled then .cancelling else .open_) 1 0
       else threadRecord s s.myCtx l.launch s.iss.core s.iss.slot)
    else if wbits name 63 43 ≠ 0 then notFound
    else threadRecord s s.myCtx (wbits name 42 19) (wbits name 18 6) (wbits name 5 0)
  | .launch =>
    let n := if name = 0 then l.launch else name.toNat
    (match look k.launches n with
    | some r => recWord r.st r.total r.done
    | none => notFound)
  | .wave =>
    (match (if name = 0 then ownWave l else some name.toNat) with
    | some g => waveRecord k g
    | none => notFound)
  | .phase =>
    (match (if name = 0 then phaseOf s l else some name.toNat) with
    | some p => (match look k.phases p with | some r => recWord r.st r.total r.done | none => notFound)
    | none => notFound)
  | .job => if name = 0 then recWord (if k.jobCancel then .cancelling else .open_) k.job.1 k.job.2 else notFound

/-- CNTRD (R150). -/
def execCntrd (l : Level) (d : Nat) (a : Src) (s : State) : Host.Outcome State Fault Refusal :=
  guard (.cntrd l d a) (setX d fun s => counter s l (rx s a.r)) s

/-- A record whose instance is open or being cancelled. -/
def recOpen (r : Word) : Bool := wbits r 63 61 == 0 || wbits r 63 61 == 2

/-- CNTWAIT (R150): it waits while the instance is open; on its limit it returns the record without a trap. -/
def execCntwait (l : Level) (d : Nat) (a : Src) (s : State) : Host.Outcome State Fault Refusal :=
  guard (.cntwait l d a) (fun s =>
    let r := counter s l (rx s a.r)
    if recOpen r && !s.cur.expired then .error (.wait (.retry (.returns 0)) s)
    else .ok (wx (s.modCur (fun l => { l with expired := false })) d r)) s

/-- TID (R154): all ones where the issuer has no instance. Of a formula work item selector 4 is its generation, of a repair the stamp of
the version under repair (R272). -/
def tidValue (s : State) (sel : Nat) : Word :=
  let l := s.cur
  if sel = 4 then (match l.item with | some i => wd i.gen | none => -1)
  else if l.launch = 0 then -1
  else
    match sel with
    | 0 => wd l.index
    | 1 => (match look (s.ctx l.ctx).launches l.launch with | some r => wd r.total | none => -1)
    | 2 => wd l.launch
    | _ => (match phaseOf s l with | some p => wd p | none => -1)

/-- TID (R154). -/
def execTid (d sel : Nat) (s : State) : Host.Outcome State Fault Refusal :=
  guard (.tid d sel) (setX d fun s => tidValue s sel) s

/-- YIELD (R157, R158). -/
def execYield (s : State) : Host.Outcome State Fault Refusal := guard .yield (fun s => .ok (after s .yield)) s

end Sys2Proof.Machine
end

