-- ==== Sys2Proof/Machine/Kernel.lean ====
section
/-!
DEFINITION. The code store and its segments (R162 to R164), messages and handlers (R167 to R169), IDLE (R140), gating (R21).
-/
namespace Sys2Proof.Machine

/-! Segments. -/

/-- What a fetch of a segment meets (R164). -/
inductive FetchEnd where
  | image (bs : List Byte)
  | fails (cause : Nat)
  | stalls (va : Word) (f : PFault)
  | waits
  deriving DecidableEq, Repr, Inhabited

/-- The fetch of a segment's image by a core: 4,096 bytes with execute permission. A violated permission or a poisoned line fails the
segment; any other page fault stalls the fetch; it waits for what stands before it at the homes of its lines (R195).
DESIGN CHOICE (log 20, unsafe; log 58, unsafe). -/
def fetchEnd (s : State) (c : Nat) (g : Seg) : FetchEnd :=
  if engineBehind s c g.ctx (wd g.image) 4096 then .waits
  else
  match locateRange s g.ctx g.priv (wd g.image) 4096 forFetch with
  | .ok ps => if (rangePoison s ps).isSome then .fails cPOISON else .image (rangeBytes s ps)
  | .error (va, .fault f) => if f.kind = 1 then .fails f.cause else .stalls va f
  | .error _ => .fails cEXEC

/-- The read requests of a fetch, which a trace records (R217). -/
def fetchTraced (s : State) (c : Nat) (g : Seg) : State := traceReads s c g.ctx (wd g.image) 4096

/-- The slot of a thread on a core by its identity. -/
def slotOfUid (k : Core) (uid : Nat) : Option Nat :=
  (k.slots.find? (fun p => p.2.uid == uid && p.2.phase != .free)).map (·.1)

/-- The segment of a core. -/
def State.seg (s : State) (c n : Nat) : Seg := (s.core c).seg n
def State.setSeg (s : State) (c n : Nat) (g : Seg) : State := s.modCore c (fun k => { k with segs := put k.segs n g })

/-- SEGMENT_LAND (R163): the segment takes the whole image in one event; a page fault stalls the fetch (R164).
DESIGN CHOICE (log 58, unsafe). -/
def segmentLand (c n : Nat) (s : State) : State :=
  let g := s.seg c n
  if g.st = .fetching ∧ g.token = none then
    match fetchEnd s c g with
    | .image bs => ((fetchTraced s c g).setBytes (codeKey c (4096 * n)) bs).setSeg c n { g with st := .landed }
    | .stalls va f =>
      -- an issuer that has ended is shown as thid 0. DESIGN CHOICE (log 58, unsafe)
      let thid := if g.byUid = 0 then 0 else match slotOfUid (s.core c) g.byUid with | some t => thid c t | none => 0
      let r := raiseFault s g.ctx va.toNat 3 2 thid f (.seg c n)
      r.1.setSeg c n { g with token := some r.2 }
    | .fails _ | .waits => s
  else s

/-- SEGMENT_FAIL (R164). DESIGN CHOICE (log 58, unsafe). -/
def segmentFail (c n : Nat) (s : State) : State :=
  let g := s.seg c n
  if g.st = .fetching ∧ g.token = none then
    match fetchEnd s c g with
    | .fails cause => (if cause = cPOISON then fetchTraced s c g else s).setSeg c n { g with st := .failed cause }
    | _ => s
  else s

/-- SEGMENT_LAND (R163). -/
def execSegmentLand (core seg : Nat) (s : State) : Host.Outcome State Fault Refusal :=
  event (decide (core < coreCount) && decide (seg < 8)) (segmentLand core seg) s

/-- SEGMENT_FAIL (R164). -/
def execSegmentFail (core seg : Nat) (s : State) : Host.Outcome State Fault Refusal :=
  event (decide (core < coreCount) && decide (seg < 8)) (segmentFail core seg) s

/-- The issuer may fetch a segment (R164): one that its launch holds; a thread of no launch, one that its context holds. -/
def mayFetch (s : State) (n : Nat) : Bool :=
  match (s.here.seg n).holder with
  | some h => h.1 == s.myCtx && (s.cur.launch == 0 || h.2 == s.cur.launch)
  | none => false

/-- OFETCH (R164). -/
def execOfetch (n : Nat) (a : Src) (s : State) : Host.Outcome State Fault Refusal :=
  guard (.ofetch n a) (fun s =>
    let va := rx s a.r
    if !mayFetch s n then .error (.trap cOVERLAY 0 (wd (4096 * n)))
    else if va.getLsbD 63 || wbits va 62 57 != 0 then .error (.trap cEXEC 0 va)
    else if !aligned va 4096 then .error (.trap cALIGN 0 va)
    else .ok (s.setSeg s.iss.core n { s.here.seg n with
      st := .fetching, image := va.toNat, priv := s.priv, token := none, ctx := s.myCtx, byUid := s.cur.uid })) s

/-- The value of OSTAT: `cause << 8 | state` (R162, R164). -/
def segValue : SegState → Nat
  | .fetching => 0
  | .landed => 1
  | .failed cause => cause % 256 * 256 + 2
  | .empty => 3

/-- OSTAT (R164). -/
def execOstat (d n : Nat) (s : State) : Host.Outcome State Fault Refusal :=
  guard (.ostat d n) (setX d fun s => wd (segValue (s.here.seg n).st)) s

/-! Messages. -/

/-- Entries of a core's message queue in use (R167): a current message keeps its entry until its last word is taken. -/
def queueUsed (k : Core) : Nat := k.queue.length + (k.slots.filter (fun p => p.2.msg.isSome)).length

/-- A live thread is in a slot (R160). -/
def liveSlot (k : Core) (t : Nat) : Bool := (k.slot t).phase != .free

/-- The target refuses a message (R167). -/
def refuses (s : State) (c : Nat) (m : Msg) : Bool :=
  let k := s.core c
  k.absent || s.holder c != some m.ctx || (decide (m.slot < 62) && !liveSlot k m.slot)
    || (m.slot == 62 && m.kind == .plain && (wbits (m.words.headD 0) 63 15 != 0 || wbits (m.words.headD 0) 2 0 != 0))

/-- The fabric address of a core at offset 0 (R108, R167). -/
def fabBase (c : Nat) : Word := wd (spadKey c 0)

/-- A store of a cancelled thread failed: the monitor learns of it (R138, R152). DESIGN CHOICE (log 27, unsafe). -/
def lostStore (s : State) (c t : Nat) (va : Word) : State :=
  toMonitor s (s.ctxOf c t) [reportWord 0x43 cWRITE 0 (thid c t), va, wd (s.slot c t).launch]

/-- A store or message of a thread has been acknowledged (R111), or has failed (R109, R152): its place in the program order and its
address. DESIGN CHOICE (log 27, unsafe). -/
def acknowledge (s : State) (c t uid : Nat) (failedAt : Option (Nat × Word)) : State :=
  if (s.slot c t).uid = uid ∧ (s.slot c t).phase ≠ .free then
    let s := s.modSlot c t (fun l => { l with unack := l.unack - 1 })
    match failedAt with
    | none => s
    | some f => if (s.slot c t).cancelled then lostStore s c t f.2 else s.modSlot c t (fun l => recordFailure l f.1 f.2)
  else s

/-- The work item that a message carries (R272). -/
def itemOf : MsgKind → Option Item
  | .item cell gen repair => some ⟨cell, gen, repair, [], false⟩
  | _ => none

/-- A refused message goes back to its sender as a failed fabric store; a report is kept by the hub (R138, R167); a work item whose
formula launch has closed fails, and its report names slot 62 of the core to which it was dispatched (R274). -/
def refuseMessage (s : State) (c : Nat) (m : Msg) : State :=
  match itemOf m.kind with
  | some i => failItem s m.ctx i 0 (thid c 62)
  | none =>
  if m.counted then acknowledge s m.srcCore m.srcSlot m.srcUid (some (m.seq, fabBase c))
  else if (s.ctx m.ctx).monitorRec ≠ 0 ∧ (s.ctx m.ctx).monitor = (c, m.slot) then
    s.modCtx m.ctx (fun k => { k with reports := k.reports ++ [m] })
  else s

/-- A report whose slot refused earlier ones, which the hub still keeps, is kept behind them: they are sent again first (R138). -/
def behindReports (s : State) (c : Nat) (m : Msg) : Bool :=
  !m.counted && m.kind == .plain && (s.ctx m.ctx).monitor == (c, m.slot) && !(s.ctx m.ctx).reports.isEmpty

/-- MESSAGE_ACCEPT (R167): the message at the head of a core's station enters the queue, or is refused.
DESIGN CHOICE (log 27, unsafe). -/
def messageAccept (c : Nat) (s : State) : State :=
  match (s.core c).station with
  | [] => s
  | m :: rest =>
    if 32 ≤ queueUsed (s.core c) then s
    else
      let s := s.modCore c (fun k => { k with station := rest, gated := false })
      if refuses s c m || behindReports s c m then refuseMessage s c m
      else
        let s := s.modCore c (fun k => { k with queue := k.queue ++ [m] })
        if m.counted then acknowledge s m.srcCore m.srcSlot m.srcUid none else s

/-- The live launch of the context on a core that was created last (R168). -/
def newestLaunch (k : Ctx) (c : Nat) : Option Launch :=
  (k.launches.filter (fun p => p.2.st.live && p.2.cores.contains c)).foldl (fun b p =>
    match b with
    | some q => if q.made < p.2.made then some p.2 else b
    | none => some p.2) none

/-- A message that starts a handler. -/
def startsHandler (m : Msg) : Bool :=
  m.slot == 62 && (match m.kind with | .completion _ => false | _ => true)

/-- HANDLER_START (R168, R272): slot 62 is free, and the oldest handler message becomes its current message, word 0 skipped; it keeps its
entry although no word may be left. The handler belongs to the context that the core holds, or where the core holds none any more, for its last
launch has closed since, to that of the message; the spec does not say so. A formula work item takes its limits from its
formula launch, any other handler from the newest live launch; an item whose launch has closed fails (R274). Every other register of the
slot starts anew. DESIGN CHOICE (log 63, unsafe). -/
def handlerStart (c : Nat) (s : State) : State :=
  let k := s.core c
  match k.queue.find? startsHandler with
  | some m =>
    if (k.slot 62).phase = .free ∧ k.absent = false then
      let x := (s.holder c).getD m.ctx
      let item := itemOf m.kind
      let l := match item with
        | some i => look (s.ctx x).launches (itemBind ((s.ctx x).cell i.cell) i).launch
        | none => newestLaunch (s.ctx x) c
      if item.isSome && !(l.map (·.st.live)).getD false then
        (match item with
        | some i => failItem (s.modCore c (fun k => { k with queue := dropFirst (· == m) k.queue })) x i 0 (thid c 62)
        | none => s)
      else
      let q := s.tick
      let rest := m.words.drop 1
      (q.2.modCore c (fun k => { k with queue := dropFirst (· == m) k.queue, gated := false })).setSlot c 62
        { phase := .ready
          pc := wd (wbits (m.words.headD 0) 14 0)
          trapvec := wd (s.ctx x).trapvec
          ctx := x
          uid := q.1
          waitlim := wd ((l.map (·.waitlim)).getD 0)
          viewlim := wd ((l.map (·.viewlim)).getD 0)
          handler := wd (wbits (m.words.headD 0) 14 0)
          msg := some { m with words := rest }
          masks := match item with
            | some i => itemMasks (itemHold ((s.ctx x).cell i.cell) i)
            | none => []
          item := item }
    else s
  | none => s

/-- HANDLER_START (R168). -/
def execHandlerStart (core : Nat) (s : State) : Host.Outcome State Fault Refusal :=
  event (decide (core < coreCount)) (handlerStart core) s

/-- The bundle limit of `msglim` (R131, R168). -/
def msgLimit (k : Core) : Nat := if k.msglim = 0 then 65536 else k.msglim

/-- A handler in slot 62 with te clear whose bundle count has reached its limit (R42 step 1, R168). -/
def overLimit (s : State) (c t : Nat) : Bool :=
  t == 62 && !(s.slot c t).st.te && decide (msgLimit (s.core c) ≤ (s.slot c t).bundles)

/-- SEND (R169). The words are read plainly; the message is a release, and it counts in `unack` until the target accepts or
refuses it. A message to the issuer's own core is accepted before the bundle retires; one to another core stays behind the core's fabric
accesses on the same path (R331). DESIGN CHOICE (log 27, unsafe). -/
def execSend (a : Src) (b n slot : Nat) (s : State) : Host.Outcome State Fault Refusal :=
  guard (.send a b n slot) (fun s =>
    let va := rx s a.r
    if wbits va 63 13 ≠ 0 then .error (.trap cWRITE 0 va)
    else if s.size ≤ b + n - 1 then .error (.trap cWINDOW 0 (wd (b + n - 1)))
    else
      match drained s with
      | .error e => .error e
      | .ok s =>
        let c := va.toNat
        let own := c == s.iss.core
        let q := s.tick
        let m : Msg := { slot := slot, words := (List.range n).map (fun i => rx s (b + i)), ctx := s.myCtx, srcCore := s.iss.core
                         srcSlot := s.iss.slot, srcUid := s.cur.uid, counted := !own, kind := .plain, seq := q.1 }
        if own then
          (if s.here.station.isEmpty && decide (queueUsed s.here < 32) then
            .ok (if refuses s c m then failHere s (fabBase c)
              else s.modHere (fun k => { k with queue := k.queue ++ [m] }))
          else .error (.wait (.retry .unbounded) s))
        else if decide (65535 ≤ s.cur.unack) || pathBusy s s.iss.core c then .error (.wait (.retry .unbounded) s)
        else .ok (countStore (arrive q.2 c m))) s

/-- A queued message that the thread of a slot takes as its next one: in slot 62 only completions of its own requests. -/
def takes (t uid : Nat) (m : Msg) : Bool :=
  m.slot == t && (match m.kind with | .completion u => u == uid | _ => t != 62)

/-- A handler has a pending completion, whether its transfer runs or its message is on its way (R169, R229). -/
def pendingCompletion (s : State) (c t uid : Nat) : Bool :=
  t == 62 && (transfersOf s c uid != 0 || ((s.core c).queue ++ (s.core c).station ++ (s.core c).kept).any (takes t uid))

/-- A message for the slot is queued or current; in slot 62 there is nothing to wait for but a pending completion (R169). -/
def messageReady (s : State) : Bool :=
  let any := s.here.queue.any (takes s.iss.slot s.cur.uid)
  if s.iss.slot = 62 then any || !pendingCompletion s s.iss.core 62 s.cur.uid else any || s.cur.msg.isSome

/-- WMSG (R169). -/
def execWmsg (s : State) : Host.Outcome State Fault Refusal :=
  guard .wmsg (fun s => if messageReady s then .ok s else .error (.wait (.retry .unbounded) s)) s

/-- Take the next word of a current message; its entry is free once the last word is taken. -/
def takeWord (s : State) (d : Nat) (m : Msg) : State :=
  match m.words with
  | [] => wx s d 0
  | w :: rest => wx (s.modCur (fun l => { l with msg := if rest.isEmpty then none else some { m with words := rest } })) d w

/-- PMSG (R169): an acquire of the SEND that carried the word. -/
def execPmsg (d : Nat) (s : State) : Host.Outcome State Fault Refusal :=
  guard (.pmsg d) (fun s =>
    match s.cur.msg.bind (fun m => if m.words.isEmpty then none else some m) with
    | some m => .ok (takeWord s d m)
    | none =>
      match s.here.queue.find? (takes s.iss.slot s.cur.uid) with
      | some m => .ok (takeWord (s.modHere (fun k => { k with queue := dropFirst (· == m) k.queue })) d m)
      | none =>
        if s.iss.slot = 62 && !pendingCompletion s s.iss.core 62 s.cur.uid then .ok (wx s d 0)
        else .error (.wait (.retry .unbounded) s)) s

/-- MSTAT (R169): `free:6 queued:6 left:4`. -/
def execMstat (d : Nat) (s : State) : Host.Outcome State Fault Refusal :=
  guard (.mstat d) (setX d fun s =>
    wd ((32 - queueUsed s.here) * 2 ^ 10 + (s.here.queue.filter (·.slot == s.iss.slot)).length % 64 * 2 ^ 4
      + ((s.cur.msg.map (·.words.length)).getD 0) % 16)) s

/-- IDLE (R140): it waits for a message for the slot, for a cancel that reaches the thread, or on a command core for a snooped line of one
of its host queues. A line snooped before the IDLE is remembered: the next IDLE retires at once, and forgets it.
DESIGN CHOICE (log 71, unsafe). -/
def execIdle (s : State) : Host.Outcome State Fault Refusal :=
  guard .idle (fun s =>
    if messageReady s || s.cur.cancelled then .ok s
    else if s.here.snooped then .ok (s.modHere (fun k => { k with snooped := false }))
    else .error (.wait (.retry .unbounded) s)) s

/-- A slot keeps its core's clocks: its thread is ready or about to start, or an operation of it is outstanding (R21). A matrix operation
that has issued and a wait that the count of cycles is to end are such operations: gating has no effect that a program can see.
DESIGN CHOICE (log 5, unsafe). -/
def keepsClock (k : Core) (t : Nat) : Bool :=
  let l := k.slot t
  l.phase == .ready || l.phase == .starting || l.unack != 0 || (match l.wait with | some (.reply _) => true | _ => false)
    || (l.phase == .waiting && (l.mop.isSome || (wbits l.waitlim 31 0 != 0 && l.limit != .unbounded)))
    || l.streams.any (fun m => m.st == .running && decide (m.nxt < m.count) && k.empty.contains ((winOf t l).1 + m.reg))

/-- CORE_GATE (R21): a core with no ready thread and no outstanding operation is gated; a thread that waits for a message, a waiter queue
or a condition does not keep its clocks. -/
def coreGate (c : Nat) (s : State) : State :=
  let k := s.core c
  if k.gated = false ∧ k.slots.all (fun p => !keepsClock k p.1) ∧ k.station.isEmpty ∧ k.mma.isNone ∧ k.newTable.isEmpty ∧ (look k.mbox 3).isNone
    ∧ k.chans.all (fun p => p.2.who.isNone) ∧ k.segs.all (fun g => g.2.st != .fetching) ∧ s.flights.all (·.core != c)
    ∧ s.waiters.all (fun w => w.core != c || w.retryAt.isNone) then
    s.modCore c (fun k => { k with gated := true })
  else s

/-- CORE_GATE (R21). DESIGN CHOICE (log 5, unsafe). -/
def execCoreGate (core : Nat) (s : State) : Host.Outcome State Fault Refusal :=
  event (decide (core < coreCount)) (coreGate core) s

end Sys2Proof.Machine
end

