-- ==== Sys2Proof/Machine/Streams.lean ====
section
/-!
DEFINITION. Streams: their descriptors, binding, delivery and faults (R106, R234 to R237).
-/
namespace Sys2Proof.Machine

/-- The stream that a well-formed descriptor describes (R234). -/
def parseStream (reg seq desc : Nat) (bs : List Byte) : Option Stream :=
  let w := fun i => ofBytes ((bs.drop (8 * i)).take 8)
  if bits (w 2) 63 40 = 0 ∧ bits (w 3) 63 4 = 0 ∧ 2 ≤ bits (w 3) 1 0 then
    some { reg := reg, seq := seq, desc := desc, base := w 0, second := w 1, gth := (w 3).testBit 2, wide := (w 3).testBit 3
           size := 2 ^ bits (w 3) 1 0, count := bits (w 2) 39 0, nxt := 0, st := .running }
  else none

/-- Elements not yet delivered. -/
def Stream.left (t : Stream) : Nat := t.count - t.nxt

/-- The code of a stream's state (R237). -/
def Stream.code (t : Stream) : Nat :=
  match t.st with
  | .failed _ _ => 4
  | .stalled _ => 2
  | .running => if t.left = 0 then 3 else 1

/-- The stream bound to a register. -/
def Slot.stream (l : Slot) (r : Nat) : Option Stream := l.streams.find? (fun t => t.reg == r)

/-- Change the stream bound to a register. -/
def Slot.modStream (l : Slot) (r : Nat) (f : Stream → Stream) : Slot :=
  { l with streams := l.streams.map (fun t => if t.reg = r then f t else t) }

/-- SBIND (R237). -/
def execSbind (x : Nat) (a : Src) (off : Int) (s : State) : Host.Outcome State Fault Refusal :=
  guard (.sbind x a off) (fun s =>
    let va := addrOf (rx s a.r) off 32
    if !aligned va 32 then .error (.trap cALIGN 0 va)
    else
      match readRange s va 32 forLoad with
      | .error e => .error e
      | .ok (bs, s) =>
        if (s.cur.stream x).isSome || decide (4 ≤ s.cur.streams.length) then .error (.keep s cSTREAM 1 (wd x))
        else
          match parseStream x s.tick.1 va.toNat bs with
          | none => .error (.keep s cSTREAM 2 va)
          | some t => .ok (s.tick.2.modCur (fun l => { l with streams := l.streams ++ [t] }))) s

/-- SUNB (R237). -/
def execSunb (x : Nat) (s : State) : Host.Outcome State Fault Refusal :=
  guard (.sunb x) (fun s => .ok (s.modCur (fun l => { l with streams := l.streams.filter (fun t => t.reg != x) }))) s

/-- SCFG (R237): xD receives the elements not yet delivered, and the stream is changed. -/
def configure (d x : Nat) (f : Stream → Stream) : Act := fun s =>
  match s.cur.stream x with
  | none => .ok (wx s d (-1))
  | some t => .ok (wx (s.modCur (fun l => l.modStream x f)) d (wd t.left))

/-- SCFG.count (R237). DESIGN CHOICE (log 22, unsafe). -/
def execScfgCount (d x : Nat) (b : Src) (s : State) : Host.Outcome State Fault Refusal :=
  guard (.scfgCount d x b) (fun s => configure d x (fun t => { t with count := t.nxt + (rx s b.r).toNat }) s) s

/-- SCFG.skip (R237). DESIGN CHOICE (log 22, unsafe). -/
def execScfgSkip (d x : Nat) (b : Src) (s : State) : Host.Outcome State Fault Refusal :=
  guard (.scfgSkip d x b) (fun s =>
    configure d x (fun t => { t with nxt := min (t.nxt + (rx s b.r).toNat) (max t.nxt t.count) }) s) s

/-- SSTAT (R237): `st:3 res:21 left:40`. -/
def execSstat (d x : Nat) (s : State) : Host.Outcome State Fault Refusal :=
  guard (.sstat d x) (setX d fun s =>
    match s.cur.stream x with
    | none => 0
    | some t => wd (t.code * 2 ^ 61 + t.left % 2 ^ 40)) s

/-- What a read of a stream meets: bytes, with the state after the load; a fatal fault, poison, a page fault, with the address
concerned; or it comes later. -/
inductive StreamRead where
  | bytes (bs : List Byte) (t : State)
  | fatal (info : Nat) (va : Word) (t : State)
  | page (va : Word) (f : PFault)
  | later
  deriving DecidableEq, Repr, Inhabited

/-- A store of the thread that precedes the stream's binding has not been performed at an address (R235). -/
def boundBehind (s : State) (c t : Nat) (m : Stream) (va n : Nat) : Bool :=
  s.flights.any (fun f => f.core == c && f.slot == t && f.uid == (s.slot c t).uid && f.isStore && decide (f.seq < m.seq) && f.meets va n)

/-- A read of a stream, as a load of its thread (R235, R236): behind the stores that precede the binding. -/
def streamRead (s : State) (c t : Nat) (m : Stream) (va : Word) (n : Nat) : StreamRead :=
  let x := s.ctxOf c t
  if !aligned va n then .fatal 3 va s
  else if boundBehind s c t m va.toNat n || behind s c x va n forLoad then .later
  else
    match locate s x (s.slot c t).st.pv va n forLoad with
    | .ok p =>
      if (poisonedAt s p va n).isSome then .fatal 4 va (traceReads s c x va n)
      else .bytes (loadAt s p n) (if p.glob then touchLoad (install s x va.toNat p) c x va.toNat n p else s)
    | .error (.fault f) => .page va f
    | .error _ => .fatal 3 va s

/-- The next element of a stream (R234). -/
def nextElement (s : State) (c t : Nat) (m : Stream) : StreamRead :=
  if m.gth then
    let n := if m.wide then 8 else 4
    match streamRead s c t m (wd (m.second + m.nxt * n)) n with
    | .bytes bs u => streamRead u c t m (wd (m.base + ofBytes bs * m.size)) m.size
    | r => r
  else streamRead s c t m (wd (m.base + m.nxt * m.second)) m.size

/-- A context whose threads issue (R128). -/
def ctxRuns (s : State) (x : Nat) : Bool := (s.ctx x).st == .runnable || (s.ctx x).st == .running

/-- STREAM_ELEMENT_DELIVER (R235, R236): the next element enters its empty register, or the stream stalls or fails. -/
def deliverElement (c t r : Nat) (s : State) : State :=
  let l := s.slot c t
  let x := s.ctxOf c t
  let e := (winOf t l).1 + r
  match l.stream r with
  | none => s
  | some m =>
    if m.st = .running ∧ m.left ≠ 0 ∧ (s.core c).empty.contains e = true ∧ ctxRuns s x = true then
      match nextElement s c t m with
      | .bytes bs u => (setEntry u c e (wd (ofBytes bs))).modSlot c t (fun l => l.modStream r (fun m => { m with nxt := m.nxt + 1 }))
      | .fatal info va u => u.modSlot c t (fun l => l.modStream r (fun m => { m with st := .failed info va.toNat }))
      | .page va f =>
        if s.isPager x c t || s.isMonitor x c t then contextFaulted s x (thid c t) (causeWord f.cause 0) va
        else
          let q := raiseFault s x va.toNat 2 0 (thid c t) f (.stream c t r)
          q.1.modSlot c t (fun l => l.modStream r (fun m => { m with st := .stalled q.2 }))
      | .later => s
    else s

/-- STREAM_ELEMENT_DELIVER (R235). DESIGN CHOICE (log 22, unsafe). -/
def execStreamElementDeliver (core slot reg : Nat) (s : State) : Host.Outcome State Fault Refusal :=
  event (slotOk core slot && xok reg) (deliverElement core slot reg) s

end Sys2Proof.Machine
end

