-- ==== Sys2Proof/Machine/Page.lean ====
section
/-!
DEFINITION. The pager's instructions (R188): harvest, invalidation, waking and query; what an invalidation of pages removes
(R188, R207, R340).
-/
namespace Sys2Proof.Machine

/-! Leaf entries in the tables. -/

/-- The key of the entry at which the walk of an address stops, below a table at a level. -/
def leafKeyFrom (s : State) (va : Nat) : Nat → Nat → Nat
  | 0, base => base + 8 * walkIndex 0 va
  | l + 1, base =>
    let k := base + 8 * walkIndex (l + 1) va
    let e := wd (s.num k 8)
    if eV e && !eLeaf e && pointerOk e then leafKeyFrom s va l (memKey (eTier e) (eFrame e * 4096)) else k

/-- The leaf that maps an address of a context: its level, page bits and entry (R181, R188). -/
def leafOf (s : State) (x : Nat) (va : Word) : Option (Nat × Nat × Word) :=
  if issueOk va && !va.getLsbD 63 then
    match walk s x va.toNat with
    | .leaf l pb e => some (l, pb, e)
    | _ => none
  else none

/-- A page of the self-map: its leaf is no entry of the tables (R359). -/
def selfMapped (va : Nat) : Bool := walkIndex 4 va == 0x1FF

/-- The first key and the number of the entries of a leaf's span group (R184). DESIGN CHOICE (log 19, unsafe). -/
def groupOf (s : State) (x va lvl pb : Nat) : Nat × Nat :=
  let k := leafKeyFrom s va 4 (rootKey (s.ctx x))
  let n := 2 ^ (pb - (12 + 9 * lvl))
  (k - 8 * (walkIndex lvl va % n), n)

/-- Set or clear a bit of `n` entries of a table. Bit 9 is dirty and bit 8 is dead (R183). -/
def setEntryBit (s : State) (first n bit : Nat) (v : Bool) : State :=
  (List.range n).foldl (fun s i =>
    let k := first + 8 * i
    let e := s.num k 8
    s.setNum k 8 (if e.testBit bit == v then e else if v then e + 2 ^ bit else e - 2 ^ bit)) s

/-- Set or clear a bit of every entry of a leaf: the span group in the tables. DESIGN CHOICE (log 19, unsafe). -/
def setLeafBit (s : State) (x va lvl pb bit : Nat) (v : Bool) : State :=
  if selfMapped va then s else setEntryBit s (groupOf s x va lvl pb).1 (groupOf s x va lvl pb).2 bit v

/-! What an invalidation removes. -/

/-- The lines of a range with registration records: line number, registrant, mask. -/
def regsIn (s : State) (x lo hi : Nat) : List (Nat × Nat × Nat) :=
  (s.dirs.filter (fun p => decide (dirKey x (lo / 128) ≤ p.1) && decide (p.1 < dirKey x (min hi (2 ^ 57) / 128)))).flatMap
    (fun p => p.2.regs.map (fun g => (p.1 - dirKey x 0, g.1, g.2)))

/-- Words of a range whose write-backs memory has not accepted: the address of each, and what the frame holds of it. -/
def unwrittenIn (s : State) (x lo hi : Nat) : List (Nat × Word) :=
  (s.unwritten.filter (fun w => decide (wordKey x lo ≤ w.1) && decide (w.1 < wordKey x (min hi (2 ^ 57))))).map (fun w => (8 * (w.1 - wordKey x 0), w.2))

/-- Every first-level copy, directory entry and registration of the lines of a range goes, and a fill on its way is not installed;
registered words are at their home again, and memory has them (R188, R193). -/
def flushLines (s : State) (x lo hi : Nat) : State :=
  { spoilFills s false (fun _ => true) x (fun l => decide (lo ≤ 128 * l) && decide (128 * l < hi)) with
    unwritten := s.unwritten.filter (fun w => !(decide (wordKey x lo ≤ w.1) && decide (w.1 < wordKey x (min hi (2 ^ 57)))))
    cores := s.cores.map (fun p => (p.1,
      if p.2.lines.any (fun l => l.ctx == x && decide (lo ≤ 128 * l.line) && decide (128 * l.line < hi)) then
        { p.2 with lines := p.2.lines.filter (fun l => !(l.ctx == x && decide (lo ≤ 128 * l.line) && decide (128 * l.line < hi))) }
      else p.2))
    dirs := s.dirs.filter (fun p => !(decide (dirKey x (lo / 128) ≤ p.1) && decide (p.1 < dirKey x (min hi (2 ^ 57) / 128)))) }

/-- The first address of the page that a cached entry maps. -/
def Tlb.base (t : Tlb) : Nat := t.page * 2 ^ t.size / 2 ^ t.pb * 2 ^ t.pb

/-- An entry of a slice maps a page that a range meets. -/
def Tlb.meets (t : Tlb) (x lo hi : Nat) : Bool := t.ctx == x && decide (t.base < hi) && decide (lo < t.base + 2 ^ t.pb)

/-- The addresses of a range and of every page whose cached entry an invalidation of the range drops (R188). -/
def staleRange (s : State) (x lo hi : Nat) : Nat × Nat :=
  (s.tlbs.filter (fun t => t.meets x lo hi)).foldl (fun r t => (min r.1 t.base, max r.2 (t.base + 2 ^ t.pb))) (lo, hi)

/-- Every slice drops its entries for the pages of a range; the copies of those pages go, their waiters are sent again, and
the hub clears the records of their frames (R188, R207, R340). -/
def invalidatePages (s : State) (x lo hi : Nat) : State :=
  let lo' := (staleRange s x lo hi).1
  let hi' := (staleRange s x lo hi).2
  let s := flushLines { s with
    tlbs := s.tlbs.filter (fun t => !t.meets x lo hi)
    reverse := s.reverse.flatMap (fun r => if r.ctx = x then r.without (lo' / 4096) ((hi' + 4095) / 4096 - lo' / 4096) r.page else [r]) } x lo' hi'
  resendWaiters s x lo' hi'

/-- An access in flight still uses the entry of a page of a range (R188). -/
def entryInUse (s : State) (x lo hi : Nat) : Bool :=
  s.flights.any (fun f => f.ctx == x && (f.addr.toNat :: (f.also.map (·.1.toNat)).toList).any (fun a => decide (lo ≤ a) && decide (a < hi))
    && (match f.stage with | .translated | .invalidating _ _ | .granted => true | _ => false))

/-- The pages that contain an address: the leaf's page, or its 4 KiB page (R188). -/
def pageRange (s : State) (x : Nat) (va : Word) : Nat × Nat :=
  let b := match leafOf s x va with | some l => l.2.1 | none => 12
  (va.toNat / 2 ^ b * 2 ^ b, (va.toNat / 2 ^ b + 1) * 2 ^ b)

/-- PGINV.page (R188). -/
def invalidatePage (s : State) (x : Nat) (va : Word) : State :=
  if issueOk va && !va.getLsbD 63 then let r := pageRange s x va; invalidatePages s x r.1 r.2 else s

/-! Closing a record. -/

/-- The faults that wait at a slice join open records or open those that are free, in order of arrival (R186).
DESIGN CHOICE (log 20, unsafe). -/
def admitWaiting (s : State) (slice : Nat) : State :=
  (s.faults.filter (fun f => !f.open_ && f.slice == slice)).foldl admitOne
    { s with faults := s.faults.filter (fun f => f.open_ || f.slice != slice) }

/-- What a wake does to one access that waited on the record, if it still waits for it: it is reissued or goes on; or, fatal, a dropped
bundle traps and another source stops as its chapter gives; the view that a CLD opened for itself ends with the bundle (R276). A thread that
was cancelled has ended (R152, R161, R164, R186, R188, R236). The wait of a BCPL is sent again without its arrival (R207, R214).
DESIGN CHOICE (log 20, unsafe). -/
def wakeOne (fatal : Option Nat) (s : State) (p : Waiting × Nat) : State :=
  match p.1 with
  | .thread c t uid n =>
    if (s.slot c t).phase = .dropped ∧ (s.slot c t).uid = uid ∧ (s.slot c t).waitSeq = n ∧ (s.slot c t).cancelled = false then
      match fatal with
      | none =>
        let s := s.modCore c (Core.notBefore t)
        (match (s.slot c t).wait with
        | some (.home _ (.arrived v)) =>
          resendWaiter (s.modSlot c t (fun l => { l with phase := .waiting }))
            ⟨c, t, uid, s.ctxOf c t, (s.slot c t).st.pv, wd p.2, 0, 0, false, .bcpl (v - arrivedOnly 0), false, none⟩
        | _ => s.modSlot c t (fun l => { l.awake with woken := true }))
      | some code => trapWaiting (closeImplicit s c t) c t code 0 (wd p.2)
    else s
  | .stream c t r n =>
    s.modSlot c t (fun l => l.modStream r (fun m =>
      if m.st = .stalled n then { m with st := match fatal with | none => .running | some _ => .failed 3 p.2 } else m))
  | .chan c ch n =>
    let h := lookD (s.core c).chans ch {}
    if h.st = 2 ∧ h.token = some n then
      s.modCore c (fun k => { k with chans := put k.chans ch { h with st := 1, token := none, fatal := fatal } })
    else s
  | .seg c g n =>
    if (s.seg c g).st = .fetching ∧ (s.seg c g).token = some n then
      s.setSeg c g { s.seg c g with token := none, st := match fatal with | none => .fetching | some k => .failed k }
    else s
  | .entry x q n =>
    s.modCtx x (fun k => { k with queues := k.queues.map (fun u =>
      if u.1 = q then (u.1, { u.2 with entries := u.2.entries.map (fun e =>
        if e.token = some n then { e with token := none, fatal := fatal } else e) }) else u) })

/-- The open record of a context that a token names (R186). -/
def recordOf (s : State) (x : Nat) (token : Word) : Option FaultRec :=
  s.faults.find? (fun f => f.open_ && f.ctx == x && faultToken f.slice f.seq == token.toNat)

/-- Close a record: its accesses are reissued, or end with a cause; faults that waited for a record take its place. -/
def closeRecord (s : State) (f : FaultRec) (fatal : Option Nat) : State :=
  admitWaiting (f.joined.foldl (wakeOne fatal) { s with faults := s.faults.filter (· != f) }) f.slice

/-! The instructions. -/

/-- The frame of the pager's instructions: each is a release (R188). -/
def pagerBody (body : Act) : Act := fun s =>
  match drained s with
  | .error e => .error e
  | .ok s => body s

/-- A written bit of a page that an address of a context lies in (R188). -/
def bitOf (x va pb : Nat) (w : Nat × Nat × Nat) : Bool := w.2.1 == x && w.2.2 * 4096 / 2 ^ pb == va / 2 ^ pb

/-- The leaf that a PGHARV acts on, found at its first event (R188): the keys of its entry and of its group's first, their number, and its
page bits. The leaf of a self-map page is no entry of the tables (R359). -/
def harvestLeaf (s : State) (x : Nat) (va : Word) : Option (Nat × Nat × Nat × Nat) :=
  (leafOf s x va).map (fun l =>
    if selfMapped va.toNat then (0, 0, 0, l.2.1)
    else
      (leafKeyFrom s va.toNat 4 (rootKey (s.ctx x)), (groupOf s x va.toNat l.1 l.2.1).1, (groupOf s x va.toNat l.1 l.2.1).2, l.2.1))

/-- The poisoned entry that the walk of an address meets, for an instruction that uses the tables as data (R2). -/
def walkLost (s : State) (x : Nat) (va : Word) : Option Word :=
  if issueOk va && !va.getLsbD 63 then lostEntry s x va.toNat else none

/-- The self-map address of a poisoned entry of a leaf's group, from the keys of its own entry and of the group's first (R2, R182). -/
def groupLost (s : State) (va key first n pb : Nat) : Option Word :=
  ((List.range n).find? (fun i => s.isPoison (first + 8 * i))).map (fun i =>
    selfAddr va (if pb < 21 then 0 else if pb < 30 then 1 else 2) + wd (first + 8 * i) - wd key)

/-- PGHARV (R188): the written bits of the page are gathered and cleared slice by slice, each in an event of its own; all at once while
accesses are prompt. The leaf and the bits gathered so far stay with the bundle. An entry that is poisoned is reported at its self-map address,
and a write gathered so far stays to be harvested. DESIGN CHOICE (log 19, unsafe). -/
def harvest (clr : Bool) (d : Nat) (va : State → Word) : Act := fun s =>
  let x := s.myCtx
  match (if s.cur.leaf.isSome then none else walkLost s x (va s)) with
  | some a => .error (.trap cPOISON 0 a)
  | none =>
  match (if s.cur.leaf.isSome then s.cur.leaf else harvestLeaf s x (va s)) with
  | none => .ok (wx s d 2)
  | some (key, first, n, pb) =>
    let h := s.cur.part.length
    let hit := fun (w : Nat × Nat × Nat) => bitOf x (va s).toNat pb w && (s.env.prompt || w.1 == h)
    let part := s.cur.part ++ [if s.written.any hit then 1 else 0]
    let t := { s with written := s.written.filter (fun w => !hit w) }
    if !s.env.prompt && decide (h < 511) then
      .error (.wait (.retry .unbounded) (t.modCur (fun l => { l with part := part, leaf := some (key, first, n, pb) })))
    else
      match groupLost s (va s).toNat key first n pb with
      | some a => .error (.keep (if part.contains 1 then setWritten t 511 x (va s).toNat else t) cPOISON 0 a)
      | none =>
        let v := (n != 0 && eDirty (wd (s.num key 8))) || part.contains 1
        .ok (wx (setEntryBit (gathered t) first n 9 (v && !clr)) d (if v then 1 else 0))

/-- A slice whose written table is full sets the dirty bit of the leaf and drops its record of the page (R188).
DESIGN CHOICE (log 19, unsafe). -/
def overflow (h x page : Nat) (s : State) : State :=
  if s.written.contains (h, x, page) then
    match leafOf s x (wd (4096 * page)) with
    | some (lvl, pb, _) => setLeafBit { s with written := s.written.filter (· != (h, x, page)) } x (4096 * page) lvl pb 9 true
    | none => s
  else s

/-- PGHARV (R188). -/
def execPgharv (d : Nat) (a : Src) (s : State) : Host.Outcome State Fault Refusal :=
  guard (.pgharv d a) (pagerBody (harvest false d fun s => rx s a.r)) s

/-- PGHARV.clr (R188). -/
def execPgharvClr (d : Nat) (a : Src) (s : State) : Host.Outcome State Fault Refusal :=
  guard (.pgharvClr d a) (pagerBody (harvest true d fun s => rx s a.r)) s

/-- An invalidation retires once every access that used a dropped entry has been performed (R188). -/
def settled (range : State → Nat × Nat) (body : Act) : Act := fun s =>
  let r := staleRange s s.myCtx (range s).1 (range s).2
  if entryInUse s s.myCtx r.1 r.2 then .error (.wait (.retry .unbounded) s) else body s

/-- PGINV.page (R188). -/
def execPginvPage (d : Nat) (a : Src) (s : State) : Host.Outcome State Fault Refusal :=
  guard (.pginvPage d a) (pagerBody (settled (fun s => pageRange s s.myCtx (rx s a.r)) fun s =>
    .ok (wx (invalidatePage s s.myCtx (rx s a.r)) d 0))) s

/-- PGINV.ctx (R188). -/
def execPginvCtx (d : Nat) (s : State) : Host.Outcome State Fault Refusal :=
  guard (.pginvCtx d) (pagerBody (settled (fun _ => (0, 2 ^ 57)) fun s =>
    .ok (wx (invalidatePages s s.myCtx 0 (2 ^ 57)) d 0))) s

/-- The frame of the entry that an invalidation of a page drops, which its registered words are written back to (R188): the key there of an
address, by the cached entry of its walk slice; where none is cached, by the leaf in the tables, under which the key is `k`. -/
def droppedKey (s : State) (x va k : Nat) : Nat :=
  match s.tlbs.find? (fun t => t.slice == walkSlice x va && t.ctx == x && t.page == va / 2 ^ t.size) with
  | some t => memKey (eTier t.entry) (eFrame t.entry * 4096 + va % 2 ^ t.pb)
  | none => k

/-- Zeros with empty tags over the frame of a page, then its registered words, and those whose write-backs are queued, written back to the
frame of the dropped entry (R188). -/
def reviveFrame (s : State) (x base pb : Nat) (key : Nat) : State :=
  let words : List Nat := ((regsIn s x base (base + 2 ^ pb)).flatMap (fun (r : Nat × Nat × Nat) => ((List.range 16).filter r.2.2.testBit).map (fun i => 128 * r.1 + 8 * i))
    ++ (unwrittenIn s x base (base + 2 ^ pb)).map (·.1)).filter (fun a => decide (base ≤ a) && decide (a < base + 2 ^ pb))
  words.foldl (fun t a =>
    let k := droppedKey s x a (key + (a - base))
    (t.setNum k 8 (s.num k 8)).setPoison k (s.isPoison k)) (zeroRange s key (2 ^ pb))

/-- PGINV.revive (R188): status 3 when no dead page is mapped there. A poisoned entry is reported at its self-map address.
DESIGN CHOICE (log 19, unsafe). -/
def execPginvRevive (d : Nat) (a : Src) (s : State) : Host.Outcome State Fault Refusal :=
  guard (.pginvRevive d a) (pagerBody <| settled (fun s => pageRange s s.myCtx (rx s a.r)) fun s =>
    let x := s.myCtx
    let va := rx s a.r
    match walkLost s x va with
    | some p => .error (.trap cPOISON 0 p)
    | none =>
    match leafOf s x va with
    | none => .ok (wx s d 3)
    | some (lvl, pb, e) =>
      if eDead e then
        let s := reviveFrame s x (va.toNat / 2 ^ pb * 2 ^ pb) pb (memKey (eTier e) (eFrame e * 4096))
        .ok (wx (invalidatePage (setLeafBit s x va.toNat lvl pb 8 false) x va) d 0)
      else .ok (wx s d 3)) s

/-- PGWAKE (R188). -/
def wake (fatal : Option Nat) (d : Nat) (token : State → Word) : Act := fun s =>
  match recordOf s s.myCtx (token s) with
  | none => .ok (wx s d 1)
  | some f => .ok (wx (closeRecord s f fatal) d 0)

/-- PGWAKE (R188). -/
def execPgwake (d : Nat) (a : Src) (s : State) : Host.Outcome State Fault Refusal :=
  guard (.pgwake d a) (pagerBody (wake none d fun s => rx s a.r)) s

/-- PGWAKE.fatal (R188). -/
def execPgwakeFatal (d : Nat) (a : Src) (c : Nat) (s : State) : Host.Outcome State Fault Refusal :=
  guard (.pgwakeFatal d a c) (pagerBody (wake (some c) d fun s => rx s a.r)) s

/-- The answer of PGQRY: the entry with bits 63:57 as `res:3 found:1 lvl:3` (R188). DESIGN CHOICE (log 19, unsafe). -/
def queryWord (s : State) (x : Nat) (va : Word) : Word :=
  if issueOk va && !va.getLsbD 63 then
    match walk s x va.toNat with
    | .leaf l _ e => wd (e.toNat % 2 ^ 57 + 2 ^ 60 + l * 2 ^ 57)
    | .absent l _ | .bad l _ => wd (l * 2 ^ 57)
  else wd (4 * 2 ^ 57)

/-- PGQRY (R188). A poisoned entry is no data: it is reported at its self-map address. DESIGN CHOICE (log 19, unsafe). -/
def execPgqry (d : Nat) (a : Src) (s : State) : Host.Outcome State Fault Refusal :=
  guard (.pgqry d a) (pagerBody fun s =>
    match walkLost s s.myCtx (rx s a.r) with
    | some p => .error (.trap cPOISON 0 p)
    | none => .ok (wx s d (queryWord s s.myCtx (rx s a.r)))) s

end Sys2Proof.Machine
end

