-- ==== Sys2Proof/Machine/Handle.lean ====
section
/-!
DEFINITION. Handles and objects (R292 to R304), the remelt engine's sweeps and destructions (R296 to R298, R305, R325), and the
prefix tree unit (R306 to R308).
-/
namespace Sys2Proof.Machine

/-! Handles (R292, R293). -/

def hWk (h : Word) : Bool := h.getLsbD 63
def hKind (h : Word) : Nat := wbits h 62 60
def hObj (h : Word) : Nat := wbits h 59 36
def hTag (h : Word) : Nat := wbits h 35 20

/-- The handle of an object. -/
def objHandle (wk : Bool) (o : Obj) (i : Nat) : Word :=
  wd ((if wk then 2 ^ 63 else 0) + o.kind * 2 ^ 60 + i * 2 ^ 36 + o.tag % 2 ^ 16 * 2 ^ 20)

def Ctx.obj (k : Ctx) (i : Nat) : Obj := lookD k.objs i {}
def Ctx.setObj (k : Ctx) (i : Nat) (o : Obj) : Ctx := { k with objs := put k.objs i o }
def Ctx.modObj (k : Ctx) (i : Nat) (f : Obj → Obj) : Ctx := k.setObj i (f (k.obj i))

/-- Why a handle traps with cause HANDLE: `cause.info` 0 or 3 (R293). DESIGN CHOICE (log 31, unsafe). -/
def handleFails (k : Ctx) (kinds : List Nat) (h : Word) : Option Nat :=
  let o := k.obj (hObj h)
  if wbits h 19 0 ≠ 0 ∨ 5 ≤ hKind h then some 0
  else if hKind h = 0 ∨ hKind h = 2 then
    if hObj h = 0 ∨ o.alloc = false ∨ o.kind ≠ hKind h ∨ o.tag ≠ hTag h then some 0
    else if kinds.contains (hKind h) then none else some 3
  else if hKind h = 1 then
    if (cellOf k h).isNone then some 0 else if kinds.contains 1 then none else some 3
  else some 3

/-- The frame of a handle instruction: the handle is checked first (R293). -/
def withHandle (kinds : List Nat) (h : State → Word) (body : Act) : Act := fun s =>
  match handleFails (s.ctx s.myCtx) kinds (h s) with
  | some info => .error (.trap cHANDLE info (h s))
  | none => body s

/-- A status `2^63 + s` (R299). -/
def statusWord (n : Nat) : Word := wd (2 ^ 63 + n)

/-- The count limit (R295). -/
def countMax : Nat := 2 ^ 24 - 1

/-! Frames. -/

/-- The first frame of a tier and its frames (R183, R296): tier 0 of a die, or far memory. DESIGN CHOICE (log 29, unsafe). -/
def tierFrames (tier die : Nat) : Nat × Nat :=
  if tier = 0 then (die * (Config.dieStride / 4096), Config.dieBytes / 4096) else (0, Config.farBytes / 4096)

/-- The key of a tier in the watermarks: 0 to 7 for the dies, 8 for far memory. -/
def tierKey (tier die : Nat) : Nat := if tier = 0 then die else 8

/-- An object has its storage in a tier. -/
def Obj.inTier (o : Obj) (tier die : Nat) : Bool :=
  o.alloc && o.st != .destroyed && o.tier == tier && (tier != 0 || o.die == die)

/-- Frames of one buffer of a cell. -/
def Binding.frames (b : Binding) : Nat := (b.bytes + 4095) / 4096

/-- Frames that a cell's buffers hold (R262). -/
def Cell.frames (c : Cell) : Nat := runFrames (c.buf0.runs ++ c.buf1.runs)

/-- Frames of a tap's snapshot (R313): its weights, gains, map and steering vectors. -/
def Tap.frames (t : Tap) : Nat := (2 * t.dim * (1 + t.steer.length) + 2 * t.gains.length + 4 * t.map.length + 32 + 4095) / 4096

/-- A range that the engine has still to take back holds frames of a tier. -/
def Unmap.inTier (u : Unmap) (tier die : Nat) : Bool := u.tier == tier && (tier != 0 || u.die == die)

/-- Frames of a context's objects, cells, snapshots and window tables in a tier, and of ranges still to be taken back. -/
def ctxFrames (k : Ctx) (tier die : Nat) : Nat :=
  (if tier = 0 ∧ k.home = die then k.tables.length else 0) + k.objs.foldl (fun n p => if p.2.inTier tier die then n + p.2.size / 4096 else n) 0
    + (if tier = 0 then k.cells.foldl (fun n p => (if p.2.die = die then n + p.2.frames else n)
        + (if k.home = die then p.2.taps.foldl (fun m t => m + t.frames) 0 else 0)) 0 else 0)
    + (k.unmaps.filter (·.inTier tier die)).foldl (fun n u => n + u.size / 4096) 0

/-- The free count of a tier (R296): frames of destroyed objects are not free before their ranges are taken back (R294).
DESIGN CHOICE (log 29, unsafe). -/
def freeFrames (s : State) (tier die : Nat) : Nat :=
  (tierFrames tier die).2 - s.ctxs.foldl (fun n p => n + ctxFrames p.2 tier die) 0

/-- The runs of frames of a tier in use by objects, version buffers, tables and ranges still to be taken back, rising. -/
def usedRuns (s : State) (tier die : Nat) : List (Nat × Nat) :=
  (s.ctxs.flatMap (fun p => p.2.objs.flatMap (fun o => if o.2.inTier tier die then o.2.runs else [])
    ++ p.2.cells.flatMap (fun c => if tier = 0 ∧ c.2.die = die then c.2.buf0.runs ++ c.2.buf1.runs else [])
    ++ (if tier = 0 ∧ p.2.home = die then p.2.tables.map (fun f => (f, 1)) else [])
    ++ (p.2.unmaps.filter (·.inTier tier die)).flatMap (·.runs))).foldl (fun m r => put m r.1 r.2) []

/-- The gaps between rising runs from a frame to an end, the highest first. -/
def gaps (lo hi : Nat) : List (Nat × Nat) → List (Nat × Nat) → List (Nat × Nat)
  | [], acc => if lo < hi then (lo, hi - lo) :: acc else acc
  | (f, n) :: t, acc => gaps (f + n) hi t (if lo < f then (lo, f - lo) :: acc else acc)

/-- Take frames from gaps: the highest ones. DESIGN CHOICE (log 29, unsafe). -/
def takeRuns : Nat → List (Nat × Nat) → List (Nat × Nat)
  | _, [] => []
  | n, (f, m) :: t => if n = 0 then [] else if n ≤ m then [(f + m - n, n)] else (f, m) :: takeRuns (n - m) t

/-! The heap window (R294): the engine writes its leaves into the tables of the context. -/

/-- The leaf of an object's page (R294): r, w and a, and the tier, loc and aff that HNEW asked for. -/
def objLeaf (o : Obj) (i : Nat) : Word :=
  wd (o.aff * 2 ^ 51 + (if o.loc then 2 ^ 50 else 0) + o.tier * 2 ^ 48 + frameAt o.runs i % 2 ^ 36 * 4096 + 0x2F)

/-- A frame for a table of the window: the highest free one of tier 0 of the context's home die.
DESIGN CHOICE (log 29, unsafe). -/
def tableFrame (s : State) (x : Nat) : Option Nat :=
  let die := (s.ctx x).home
  let all := tierFrames 0 die
  if freeFrames s 0 die = 0 then none
  else (gaps all.1 (all.1 + all.2) (usedRuns s 0 die) []).head?.map (fun g => g.1 + g.2 - 1)

/-- The key of the level-0 entry of an address below a table at a level, and the state once the tables on the way stand: a new table holds
zeros (R181, R294). -/
def entryFor (x va : Nat) : Nat → Nat → State → Option (Nat × State)
  | 0, base, s => some (base + 8 * walkIndex 0 va, s)
  | l + 1, base, s =>
    let k := base + 8 * walkIndex (l + 1) va
    let e := wd (s.num k 8)
    if eV e then
      (if !eLeaf e && pointerOk e then entryFor x va l (memKey (eTier e) (eFrame e * 4096)) s else none)
    else
      match tableFrame s x with
      | none => none
      | some f =>
        entryFor x va l (memKey 0 (f * 4096))
          (((zeroRange s (memKey 0 (f * 4096)) 4096).setNum k 8 (f * 4096 + 1)).modCtx x (fun k => { k with tables := k.tables ++ [f] }))

/-- The engine writes the leaf of a page of the window: none when no frame is left for a table. -/
def mapPage (x va : Nat) (leaf : Word) (s : State) : Option State :=
  (entryFor x va 4 (rootKey (s.ctx x)) s).map (fun r => r.2.setNum r.1 8 leaf.toNat)

/-- The leaves of an object (R294). -/
def mapObj (s : State) (x : Nat) (o : Obj) : Option State :=
  (List.range (o.size / 4096)).foldlM (fun t i => mapPage x (o.addr + 4096 * i) (objLeaf o i) t) s

/-- The engine makes the leaves of a range of the window invalid (R294). -/
def unmapRange (s : State) (x addr size : Nat) : State :=
  (List.range (size / 4096)).foldl (fun t i =>
    match walk t x (addr + 4096 * i) with
    | .leaf 0 _ _ => t.setNum (leafKeyFrom t (addr + 4096 * i) 4 (rootKey (t.ctx x))) 8 0
    | _ => t) s

/-! Sweeps (R297). -/

/-- A cell's buffer is weakly held: it is present, and no word of it is poisoned (R262, R305). -/
def weakBuf (s : State) (c : Cell) (one : Bool) : Bool := c.bound && c.bind.wk && (c.buf one).cond == .present && !bufPoison s (c.buf one)

/-- A version is under repair (R277). -/
def underRepair (k : Ctx) (n stamp : Nat) : Bool := k.repairs.any (fun r => r.cell == n && r.stamp == stamp && !r.failed)

/-- The candidates of a tier in one context, with priority and age (R297, R325): objects by index, then buffers by cell, the
larger stamp first. -/
def ctxCands (s : State) (k : Ctx) (x tier die : Nat) : List (Nat × Nat × Cand) :=
  k.objs.filterMap (fun p => if p.2.inTier tier die && p.2.st == .weakOnly && p.2.strong == 0 then some (p.2.pri, p.2.age, .obj x p.1) else none)
    ++ (if tier = 0 then k.cells.flatMap (fun p =>
        if p.2.die = die then
          let newer := !p.2.older
          [newer, !newer].filterMap (fun b =>
            if weakBuf s p.2 b && !underRepair k p.1 (p.2.buf b).stamp && (b == newer || (p.2.buf newer).cond != .dropped) then
              some (p.2.pri, (p.2.buf b).age, .buf x p.1 (p.2.buf b).stamp)
            else none)
        else []) else [])

/-- The candidate that a sweep takes: the highest priority, then the greatest age, then the first in order (R297). -/
def pick (s : State) (tier die : Nat) : Option Cand :=
  ((s.ctxs.flatMap (fun p => ctxCands s p.2 p.1 tier die)).foldl (fun (b : Option (Nat × Nat × Cand)) c =>
    match b with
    | none => some c
    | some d => if d.1 < c.1 ∨ (d.1 = c.1 ∧ d.2.1 < c.2.1) then some c else b) none).map (·.2.2)

/-- A sweep begins: the ages of the weak-only objects and of the weakly held buffers of the tier advance (R297, R305). -/
def ageTier (s : State) (tier die : Nat) : State :=
  let older := fun (n : Nat) => min (n + 1) 255
  { s with ctxs := s.ctxs.map (fun p => (p.1, { p.2 with
      objs := p.2.objs.map (fun o => if o.2.inTier tier die && o.2.st == .weakOnly then (o.1, { o.2 with age := older o.2.age }) else o)
      cells := if tier = 0 then p.2.cells.map (fun c =>
          if c.2.die = die then
            (c.1, [false, true].foldl (fun d b => if weakBuf s d b then d.modBuf b (fun u => { u with age := older u.age }) else d) c.2)
          else c)
        else p.2.cells })) }

/-- Frames of a tier on their way back to it (R298). -/
def comingBack (s : State) (tier die : Nat) : Nat :=
  s.ctxs.foldl (fun n p => (p.2.unmaps.filter (·.inTier tier die)).foldl (fun m u => m + u.size / 4096) n) 0

/-- The next candidate of a sweep, or its end (R297, R326): frames that its destructions have still to give back count as free. -/
def choose (s : State) (r : SweepRun) : Option SweepRun :=
  if r.left = some 0 ∨ (r.left = none ∧ r.high ≤ freeFrames s r.tier r.die + comingBack s r.tier r.die) then none
  else (pick s r.tier r.die).map (fun c => { r with chosen := some c })

/-- Put a sweep that goes on back into the list of those running. -/
def runSweep (s : State) (r : SweepRun) : State :=
  s.modManage (fun m => { m with running := m.running ++ (choose s r).toList })

/-- A sweep of a tier starts with the high watermark in force (R297, R346). -/
def startSweep (s : State) (tier die : Nat) (left : Option Nat) : State :=
  let key := tierKey tier die
  let s := (ageTier s tier die).modManage (fun m => { m with sweeps := put m.sweeps key (lookD m.sweeps key 0 + 1) })
  runSweep s ⟨tier, die, lookD s.manage.high key (tierFrames tier die).2, left, none⟩

/-- A sweep of a tier runs. -/
def sweeping (s : State) (tier die : Nat) : Bool := s.manage.running.any (fun r => tierKey r.tier r.die == tierKey tier die)

/-- The free count of a tier stands below its low watermark (R297). -/
def belowLow (s : State) (key : Nat) : Bool :=
  decide ((if key < 8 then freeFrames s 0 key else freeFrames s 1 0) < lookD s.manage.low key 0)

/-- The tiers whose free counts have risen again may fall below their watermarks anew (R297). -/
def noteFree (s : State) : State := s.modManage (fun m => { m with below := m.below.filter (belowLow s) })

/-- SWEEP (R297): the free count of the tier has fallen below its low watermark, and no sweep of it is running. -/
def sweepEvent (tier die : Nat) (s : State) : State :=
  let key := tierKey tier die
  if belowLow s key && !s.manage.below.contains key && !sweeping s tier die then
    startSweep (s.modManage (fun m => { m with below := insN m.below key })) tier die none
  else s

/-- SWEEP (R297): tier 0 of a die, or tier 1. -/
def execSweep (tier die : Nat) (s : State) : Host.Outcome State Fault Refusal :=
  event true (fun s => if tier ≤ 1 ∧ die < 8 then sweepEvent tier die s else s) s

/-! Destruction (R298). -/

/-- The index of an object becomes free, and its tag advances (R295). -/
def freeIndex (o : Obj) : Obj := { tag := (o.tag + 1) % 2 ^ 16 }

/-- The record after a count has fallen or a destruction: a destroyed object without weak handles is free (R295).
DESIGN CHOICE (log 30, unsafe). -/
def settleIndex (k : Ctx) (i : Nat) : Ctx :=
  let o := k.obj i
  if o.alloc && o.st == .destroyed && o.weak == 0 then k.setObj i (freeIndex o) else k

/-- The engine takes back the range of a destroyed object (R294, R298): its leaves become invalid, PGINV drops every entry and copy of
them, and the frames return to the tier. An access that has been translated through the range must have been performed (R188). -/
def takeBack (x : Nat) (s : State) (u : Unmap) : State :=
  if entryInUse s x u.addr (u.addr + u.size) then s
  else
    noteFree (invalidatePages (unmapRange (s.modCtx x (fun k => { k with unmaps := k.unmaps.filter (· != u) })) x u.addr u.size) x
      u.addr (u.addr + u.size))

/-- The engine takes back every range that it can. -/
def takeBackAll (s : State) : State := s.ctxs.foldl (fun t p => p.2.unmaps.foldl (takeBack p.1) t) s

/-- Destroy an object whose strong count is zero (R298): its state changes in one event, and its range is taken back afterwards, at once
while accesses are prompt. Until then accesses reach the old frames (R294). DESIGN CHOICE (log 30, unsafe). -/
def destroyObj (s : State) (x i : Nat) : State :=
  let o := (s.ctx x).obj i
  let s := s.modCtx x (fun k => settleIndex (k.modObj i (fun o => { o with st := .destroyed, runs := [] })) i)
  if o.size = 0 then s
  else
    let s := s.modCtx x (fun k => { k with unmaps := k.unmaps ++ [{ addr := o.addr, size := o.size, tier := o.tier, die := o.die, runs := o.runs }] })
    if s.env.prompt then takeBackAll s else s

/-- The destruction of a sweep's candidate, if it has not been abandoned (R278, R298), and whether it took place.
DESIGN CHOICE (log 30, unsafe). -/
def destroyCand (s : State) : Cand → State × Bool
  | .obj x i =>
    let o := (s.ctx x).obj i
    if o.alloc && o.st == .weakOnly && o.strong == 0 then (destroyObj s x i, true) else (s, false)
  | .buf x n stamp =>
    let k := s.ctx x
    let c := k.cell n
    match c.stamped stamp with
    | some b =>
      if weakBuf s c b && !underRepair k n stamp then
        let s := s.modCtx x (fun k => { k.modCell n (fun c => c.modBuf b (fun u => { u with cond := .dropped, addr := 0, runs := [] })) with
          unmaps := k.unmaps ++ (c.buf b).range c.die })
        (if s.env.prompt then takeBackAll s else s, true)
      else (s, false)
    | none => (s, false)

/-- A candidate as the debugger prints it, with the fate of its destruction (R326): an object by its context and index, a version buffer by its
context, cell and stamp. DESIGN CHOICE (log 54, safe). -/
def candWords (done : Bool) : Cand → List Word
  | .obj x i => [wd ((if done then 2 ^ 63 else 0) + x * 2 ^ 48 + i)]
  | .buf x n stamp => [wd ((if done then 2 ^ 63 else 0) + 2 ^ 62 + x * 2 ^ 48 + n), wd stamp]

/-- The destruction on the way of a running sweep; the sweep takes its next candidate. -/
def finishCand (s : State) (r : SweepRun) (c : Cand) : State :=
  let s := s.modManage (fun m => { m with running := dropFirst (· == r) m.running })
  let d := destroyCand s c
  let s := if r.left.isSome then d.1.modManage (fun m => { m with printed := m.printed ++ candWords d.2 c }) else d.1
  runSweep s { r with left := r.left.map (fun n => if d.2 then n - 1 else n), chosen := none }

/-- A destruction that a sweep has sent reaches its home (R298). -/
def destruction (c : Cand) (s : State) : State :=
  match s.manage.running.find? (fun r => r.chosen == some c) with
  | some r => finishCand s r c
  | none => s

/-- OBJECT_DESTRUCTION (R298). -/
def execObjectDestruction (ctx obj : Nat) (s : State) : Host.Outcome State Fault Refusal :=
  event true (destruction (.obj ctx obj)) s

/-- CELL_BUFFER_DESTRUCTION (R278). -/
def execCellBufferDestruction (ctx cell stamp : Nat) (s : State) : Host.Outcome State Fault Refusal :=
  event true (destruction (.buf ctx cell stamp)) s

/-- The slice of the record of an object (R294). -/
def recordHome (x i : Nat) : Nat := x % 2 ^ 9 ^^^ i % 2 ^ 9 ^^^ i / 2 ^ 9 % 2 ^ 9 ^^^ i / 2 ^ 18 % 2 ^ 6

/-! HNEW (R300). -/

/-- The lowest place from a base on for a range of a size among used ones. -/
def lowestRange (used : List (Nat × Nat)) (base size : Nat) : Nat :=
  (((base :: used.map (·.2)).foldl insN []).find? (fun a =>
    decide (base ≤ a) && used.all (fun u => decide (a + size ≤ u.1) || decide (u.2 ≤ a)))).getD base

/-- The ranges of a context's window in use: those of its objects and version buffers, and those still to be taken back. -/
def usedRanges (k : Ctx) : List (Nat × Nat) :=
  (k.objs.filter (fun p => p.2.alloc && p.2.kind != 3 && p.2.st != .destroyed)).map (fun p => (p.2.addr, p.2.addr + p.2.size))
    ++ (k.cells.flatMap (fun p => p.2.buf0.range p.2.die ++ p.2.buf1.range p.2.die) ++ k.unmaps).map (fun u => (u.addr, u.addr + u.size))

/-- The lowest range of the heap window for a size that is free and has been taken back. DESIGN CHOICE (log 29, unsafe). -/
def freeRange (s : State) (x size : Nat) : Nat := lowestRange (usedRanges (s.ctx x)) windowBase size

/-- The lowest index from n on that is not allocated. DESIGN CHOICE (log 29, unsafe). -/
def freeIndexFrom (k : Ctx) : Nat → Nat → Nat
  | 0, n => n
  | f + 1, n => if (k.obj n).alloc then freeIndexFrom k f (n + 1) else n

/-- HNEW's status for its operands: BADSIZE, BADOPT or FULL, 0 when there is none (R299). DESIGN CHOICE (log 31, unsafe). -/
def newStatus (k : Ctx) (size opt : Word) : Nat :=
  if size = 0 ∨ 2 ^ 30 < size.toNat then 1
  else if wbits opt 63 10 ≠ 0 ∨ 2 ≤ wbits opt 5 4 then 4
  else if countMax ≤ (k.objs.filter (fun p => p.2.alloc)).length then 3
  else 0

/-- The new object of HNEW (R295, R300), its frames holding zeros with empty tags; none when no frame is left for it or for a table.
DESIGN CHOICE (log 29, unsafe). -/
def makeObj (s : State) (x kind tier die n : Nat) (opt : Word) : Option (Nat × Obj × State) :=
  if freeFrames s tier die < n then none
  else
    let k := s.ctx x
    let i := freeIndexFrom k k.objs.length 1
    let all := tierFrames tier die
    let runs := takeRuns n (gaps all.1 (all.1 + all.2) (usedRuns s tier die) [])
    let o : Obj := { tag := (k.obj i).tag, alloc := true, kind := kind, strong := 1, pri := wbits opt 3 0, size := 4096 * n
                     addr := freeRange s x (4096 * n), tier := tier, die := die, loc := opt.getLsbD 6, aff := wbits opt 9 7, runs := runs }
    let t := runs.foldl (fun t r => zeroRange t (memKey tier (4096 * r.1)) (4096 * r.2)) s
    (mapObj (t.modCtx x (fun k => k.setObj i o)) x o).map (fun u => (i, o, u))

/-- Ranges of a tier are still to be taken back. -/
def unmapping (s : State) (tier die : Nat) : Bool := s.ctxs.any (fun p => p.2.unmaps.any (·.inTier tier die))

/-! The storage of version buffers (R259, R262). -/

/-- The leaf of a cell-owned page (R183, R259, R262): r, w and cg, tier 0, homed on the die of the cell's storage. -/
def cellLeaf (die frame : Nat) : Word := wd (die % 8 * 2 ^ 51 + 2 ^ 50 + frame % 2 ^ 36 * 4096 + 0x8F)

/-- A buffer of a cell has storage: it takes frames and pages where it has none; none when the tier has no room.
DESIGN CHOICE (log 29, unsafe). -/
def takeStorage (x n : Nat) (one : Bool) (s : State) : Option State :=
  let c := (s.ctx x).cell n
  if !(c.buf one).runs.isEmpty then some s
  else if freeFrames s 0 c.die < c.bind.frames then none
  else
    let all := tierFrames 0 c.die
    let runs := takeRuns c.bind.frames (gaps all.1 (all.1 + all.2) (usedRuns s 0 c.die) [])
    let a := lowestRange (usedRanges (s.ctx x)) cellBase (4096 * c.bind.frames)
    (List.range c.bind.frames).foldlM (fun t i => mapPage x (a + 4096 * i) (cellLeaf c.die (frameAt runs i)) t)
      (s.modCtx x (fun k => k.modCell n (fun c => c.modBuf one (fun u => { u with addr := a, runs := runs }))))

/-- A buffer of a cell is to be written anew: it has storage, which holds zeros and no poisoned word. -/
def freshStorage (x n : Nat) (one : Bool) (s : State) : Option State :=
  (takeStorage x n one s).map (fun t => (((t.ctx x).cell n).buf one).runs.foldl (fun t r => zeroRange t (memKey 0 (4096 * r.1)) (4096 * r.2)) t)

/-- HNEW finds too few free frames in a tier (R300): a sweep of the tier is started, once for the bundle, and its end is waited for, with the
frames that come back by it; none once there is nothing left to wait for. A sweep that runs already is waited for first. -/
def awaitSweep (s : State) (tier die : Nat) : Option State :=
  if sweeping s tier die || unmapping s tier die then some s
  else if s.cur.part.isEmpty then some (startSweep (s.modCur (fun l => { l with part := [0] })) tier die none)
  else none

/-- HNEW (R300): where the tier has too few free frames the thread waits for a sweep and tries again, and has NOMEM when they are still too
few. DESIGN CHOICE (log 31, unsafe). -/
def newObj (kind d : Nat) (size opt : State → Word) : Act := fun s =>
  let x := s.myCtx
  let st := newStatus (s.ctx x) (size s) (opt s)
  if st ≠ 0 then .ok (wx s d (statusWord st))
  else
    let n := ((size s).toNat + 4095) / 4096
    let tier := wbits (opt s) 5 4
    let die := wbits (opt s) 9 7
    match (if freeFrames s tier die < n then awaitSweep s tier die else none) with
    | some t => .error (.wait (.retry .unbounded) t)
    | none =>
      match makeObj s x kind tier die n (opt s) with
      | none => .ok (gathered (wx s d (statusWord 2)))
      | some r => .ok (gathered (wx r.2.2 d (objHandle false r.2.1 r.1)))

/-- HNEW (R300). -/
def execHnew (d : Nat) (a b : Src) (s : State) : Host.Outcome State Fault Refusal :=
  guard (.hnew d a b) (newObj 0 d (fun s => rx s a.r) (fun s => rx s b.r)) s

/-- HNEW.kv (R300). -/
def execHnewKv (d : Nat) (a b : Src) (s : State) : Host.Outcome State Fault Refusal :=
  guard (.hnewKv d a b) (newObj 2 d (fun s => rx s a.r) (fun s => rx s b.r)) s

/-! Counts (R301). -/

/-- Change the record of a handle of the issuer's context. -/
def modRecord (s : State) (h : Word) (f : Obj → Obj) : State := s.modCtx s.myCtx (fun k => k.modObj (hObj h) f)

/-- HWEAK (R301). -/
def execHweak (d : Nat) (a : Src) (s : State) : Host.Outcome State Fault Refusal :=
  guard (.hweak d a) (withHandle [0, 1, 2] (fun s => rx s a.r) fun s =>
    let h := rx s a.r
    let o := (s.ctx s.myCtx).obj (hObj h)
    if hKind h = 1 then .ok (wx s d (h ||| 0x8000000000000000))
    else if o.st = .destroyed then .ok (wx s d 0)
    else if countMax ≤ o.weak then .ok (wx s d (statusWord 3))
    else .ok (wx (modRecord s h (fun o => { o with weak := o.weak + 1 })) d (h ||| 0x8000000000000000))) s

/-- One more strong handle of an object that exists, or 0 (R301); `up`: the object is live again. -/
def oneMore (up : Bool) (d : Nat) (h : Word) (s : State) : State :=
  let o := (s.ctx s.myCtx).obj (hObj h)
  if o.st = .destroyed then wx s d 0
  else if countMax ≤ o.strong then wx s d (statusWord 3)
  else wx (modRecord s h (fun o => { o with strong := o.strong + 1, st := if up then .live else o.st })) d (h &&& 0x7FFFFFFFFFFFFFFF)

/-- HDUP (R301). -/
def execHdup (d : Nat) (a : Src) (s : State) : Host.Outcome State Fault Refusal :=
  guard (.hdup d a) (withHandle [0, 2] (fun s => rx s a.r) fun s =>
    if hWk (rx s a.r) then .error (.trap cHANDLE 5 (rx s a.r)) else .ok (oneMore false d (rx s a.r) s)) s

/-- HUP (R301): a strong handle acts as HDUP. -/
def execHup (d : Nat) (a : Src) (s : State) : Host.Outcome State Fault Refusal :=
  guard (.hup d a) (withHandle [0, 2] (fun s => rx s a.r) fun s => .ok (oneMore (hWk (rx s a.r)) d (rx s a.r) s)) s

/-- A handle's count falls by one (R295, R301): weak-only, destruction, or free. -/
def dropCount (s : State) (x i : Nat) (wk : Bool) : State :=
  let s := s.modCtx x (fun k => k.modObj i (fun o => if wk then { o with weak := o.weak - 1 } else { o with strong := o.strong - 1 }))
  let o := (s.ctx x).obj i
  if o.st = .destroyed then s.modCtx x (fun k => settleIndex k i)
  else if o.strong ≠ 0 then s
  else if o.weak = 0 then destroyObj s x i
  else if wk then s
  else s.modCtx x (fun k => k.modObj i (fun o => { o with st := .weakOnly, age := 0 }))

/-- HDROP (R301): a release; a count of 0 traps and changes nothing. -/
def execHdrop (a : Src) (s : State) : Host.Outcome State Fault Refusal :=
  guard (.hdrop a) (withHandle [0, 2] (fun s => rx s a.r) fun s =>
    match drained s with
    | .error e => .error e
    | .ok s =>
      let h := rx s a.r
      let o := (s.ctx s.myCtx).obj (hObj h)
      if (if hWk h then o.weak else o.strong) = 0 then .error (.trap cHANDLE 4 h)
      else .ok (dropCount s s.myCtx (hObj h) (hWk h))) s

/-- The tables map an address to a dead page (R187). -/
def deadPage (s : State) (x va : Nat) : Bool :=
  match walk s x va with
  | .leaf _ _ e => eDead e
  | _ => false

/-- HLDW (R302): an 8-byte word of the object, or the gone flag, in one event at the record home; as a load of it, behind the thread's earlier
stores to it (R118, R120). -/
def execHldw (d p : Nat) (a : Src) (n : Nat) (s : State) : Host.Outcome State Fault Refusal :=
  guard (.hldw d p a n) (withHandle [0, 2] (fun s => rx s a.r) fun s =>
    let h := rx s a.r
    let o := (s.ctx s.myCtx).obj (hObj h)
    let va := wd (o.addr + 8 * n)
    if o.st = .destroyed then .ok (wx (wx s d 0) p 1)
    else if heldBack s va 8 forLoad then .error (.wait (.retry .unbounded) s)
    else
      let k := memKey o.tier (frameAt o.runs (8 * n / 4096) * 4096 + 8 * n % 4096)
      let dead := deadPage s s.myCtx (o.addr + 8 * n)
      let s := readTraced s va 8
      if s.isPoison k && !dead then .error (.keep s cPOISON 0 va)
      else .ok (wx (wx (modRecord s h (fun o => { o with age := 0 })) d (if dead then 0 else wd (s.num k 8))) p 0)) s

/-- HPRI (R303): of a cell, the priority of its weakly held buffers. -/
def execHpri (a b : Src) (s : State) : Host.Outcome State Fault Refusal :=
  guard (.hpri a b) (withHandle [0, 1, 2] (fun s => rx s a.r) fun s =>
    let h := rx s a.r
    let v := wbits (rx s b.r) 3 0
    .ok (if hKind h = 1 then s.modCtx s.myCtx (fun k => k.modCell (wbits h 55 36) (fun c => { c with pri := v }))
      else modRecord s h (fun o => { o with pri := v }))) s

/-- The code of a record's state (R303). -/
def objCode : ObjState → Nat
  | .live => 0 | .weakOnly => 1 | .destroyed => 2

/-- `st:2 pri:4 res:2 strong:24 age:8 weak:24` (R303). -/
def infoWord (st pri strong age weak : Nat) : Word := wd (st * 2 ^ 62 + pri * 2 ^ 58 + strong * 2 ^ 32 + age * 2 ^ 24 + weak)

/-- HINFO (R303). -/
def infoOf (s : State) (k : Ctx) (h : Word) (sel : Nat) : Word :=
  if hKind h = 1 then
    let c := k.cell (wbits h 55 36)
    let weak := [false, true].filter (weakBuf s c)
    match sel with
    | 0 => infoWord (if weak = [] then 0 else 1) c.pri 0 (weak.foldl (fun m b => max m (c.buf b).age) 0) weak.length
    | 1 => 0
    | _ => wd c.bind.bytes
  else
    let o := k.obj (hObj h)
    match sel with
    | 0 => infoWord (objCode o.st) o.pri o.strong o.age o.weak
    | 1 => if o.st = .destroyed then 0 else wd o.addr
    | _ => if o.st = .destroyed then 0 else wd o.size

/-- HINFO (R303). -/
def execHinfo (d : Nat) (a : Src) (sel : Nat) (s : State) : Host.Outcome State Fault Refusal :=
  guard (.hinfo d a sel) (withHandle [0, 1, 2] (fun s => rx s a.r) fun s =>
    .ok (wx s d (infoOf s (s.ctx s.myCtx) (rx s a.r) sel))) s

/-! The prefix tree (R306 to R308). -/

/-- A request of the prefix tree unit (R307). -/
structure PfxReq where
  toks : Nat
  ntok : Nat
  arr : Nat
  nblk : Nat
  deriving DecidableEq, Repr, Inhabited

/-- The request's fields, unless it is BADREQ (R307, R308): `blocks` for PFXINS and PFXDEL, whose tokens come in runs of 16; `del`
for PFXDEL, which reserves the array's fields. DESIGN CHOICE (log 32, unsafe). -/
def parsePfx (blocks del : Bool) (bs : List Byte) : Option PfxReq :=
  let w := fun i => ofBytes ((bs.drop (8 * i)).take 8)
  let r : PfxReq := ⟨w 0, bits (w 1) 23 0, w 2, bits (w 3) 15 0⟩
  if bits (w 1) 63 24 ≠ 0 ∨ bits (w 3) 63 16 ≠ 0 ∨ 65536 < r.ntok ∨ (blocks = true ∧ r.ntok % 16 ≠ 0)
    ∨ (blocks = true ∧ del = false ∧ r.ntok < 16 * r.nblk) ∨ (del = true ∧ (r.arr ≠ 0 ∨ r.nblk ≠ 0)) then none
  else some r

/-- The runs of 16 tokens of an array (R306). -/
def runsOf (bs : List Byte) (n : Nat) : List (List Lane) :=
  (List.range n).map (fun k => (List.range 16).map (fun i => BitVec.ofNat 32 (ofBytes ((bs.drop (64 * k + 4 * i)).take 4))))

/-- The request, its runs of tokens: none for BADREQ. The arrays are read as loads of the issuer (R308).
DESIGN CHOICE (log 32, unsafe). -/
def readPfx (s : State) (blocks del : Bool) (va : Word) : Except Stop (Option (PfxReq × List (List Lane)) × State) :=
  if !aligned va 32 then .ok (none, s)
  else
    match readRange s va 32 forLoad with
    | .error e => .error e
    | .ok (bs, s) =>
      match parsePfx blocks del bs with
      | none => .ok (none, s)
      | some r =>
        if !aligned (wd r.toks) 4 then .error (.keep s cALIGN 0 (wd r.toks))
        else if !aligned (wd r.arr) 8 then .error (.keep s cALIGN 0 (wd r.arr))
        else
          match readRange s (wd r.toks) (r.ntok / 16 * 64) forLoad with
          | .error e => .error e
          | .ok (bs, s) => .ok (some (r, runsOf bs (r.ntok / 16)), s)

/-- The node at a path. -/
def nodeAt (k : Ctx) (path : List (List Lane)) : Option Node := k.nodes.find? (·.path == path)

/-- A node goes: its own record's strong count falls to 0, and it drops its weak count of its block (R295, R306). -/
def dropNode (x : Nat) (s : State) (n : Node) : State := dropCount (dropCount s x n.own false) x n.obj true

/-- Remove the node at a path with its subtree (R306): the nodes removed, and the state. -/
def removeSubtree (s : State) (x : Nat) (path : List (List Lane)) : Nat × State :=
  let out := (s.ctx x).nodes.filter (fun n => path.isPrefixOf n.path)
  let s := s.modCtx x (fun k => { k with nodes := k.nodes.filter (fun n => !path.isPrefixOf n.path) })
  (out.length, out.foldl (dropNode x) s)

/-- Along a path, the unit removes the first node whose block is destroyed, with its subtree (R306). -/
def prune (s : State) (x : Nat) (path : List (List Lane)) : State :=
  match (List.range path.length).find? (fun k =>
      match nodeAt (s.ctx x) (path.take (k + 1)) with
      | some n => ((s.ctx x).obj n.obj).st == .destroyed
      | none => false) with
  | some k => (removeSubtree s x (path.take (k + 1))).2
  | none => s

/-- PFXFIND's walk: the blocks found along a path, each with one more weak count (R308). -/
def findBlocks (s : State) (x : Nat) (path : List (List Lane)) : Nat → Nat → List Word × State
  | 0, _ => ([], s)
  | f + 1, k =>
    match nodeAt (s.ctx x) (path.take (k + 1)) with
    | none => ([], s)
    | some n =>
      let o := (s.ctx x).obj n.obj
      if o.st = .destroyed ∨ countMax ≤ o.weak then ([], s)
      else
        let r := findBlocks (s.modCtx x (fun c => c.modObj n.obj (fun o => { o with weak := o.weak + 1 }))) x path f (k + 1)
        (objHandle true o n.obj :: r.1, r.2)

/-- PFXFIND (R308): the stores of the handles are checked before a count changes. DESIGN CHOICE (log 32, unsafe). -/
def execPfxfind (d : Nat) (a : Src) (s : State) : Host.Outcome State Fault Refusal :=
  guard (.pfxfind d a) (fun s =>
    match readPfx s false false (rx s a.r) with
    | .error e => .error e
    | .ok (none, s) => .ok (wx s d (statusWord 1))
    | .ok (some (r, path), s) =>
      let x := s.myCtx
      let f := findBlocks (prune s x path) x path (min (r.ntok / 16) r.nblk) 0
      let bs := f.1.flatMap (fun h => toBytes 8 h.toNat)
      match storeRange s (wd r.arr) bs with
      | .error e => .error e
      | .ok _ =>
        match storeRange f.2 (wd r.arr) bs with
        | .error e => .error e
        | .ok t => .ok (wx t d (wd (16 * f.1.length)))) s

/-- PFXINS creates or replaces the node at a path: there is none, or its block is destroyed (R308). -/
def placesNode (s : State) (x : Nat) (path : List (List Lane)) : Bool :=
  match nodeAt (s.ctx x) path with
  | some n => ((s.ctx x).obj n.obj).st == .destroyed
  | none => true

/-- One handle given to PFXINS (R308): whether a node was created or replaced. -/
def insertBlock (s : State) (x : Nat) (path : List (List Lane)) (h : Word) : Bool × State :=
  let place := fun (s : State) => s.modCtx x (fun k =>
    let i := freeIndexFrom k k.objs.length 1
    (Ctx.setObj { k with nodes := k.nodes ++ [⟨path, hObj h, i⟩] } i { tag := (k.obj i).tag, alloc := true, kind := 3, strong := 1 }).modObj (hObj h)
      (fun o => { o with weak := o.weak + 1 }))
  match nodeAt (s.ctx x) path with
  | some n => if ((s.ctx x).obj n.obj).st = .destroyed then (true, place (removeSubtree s x path).2) else (false, s)
  | none => (true, place s)

/-- PFXINS's loop over the handles given (R308): the nodes created or replaced; or the handle that traps, with the state in which
the nodes already placed stay. -/
def insertBlocks (s : State) (x : Nat) (path : List (List Lane)) : List Word → Nat → Nat → Except Stop (Nat × State)
  | [], _, n => .ok (n, s)
  | h :: t, k, n =>
    match handleFails (s.ctx x) [0, 1, 2] h with
    | some 0 => .error (.keep s cHANDLE 0 h)
    | some _ => .ok (n, s)
    | none =>
      if hKind h ≠ 2 ∨ ((s.ctx x).obj (hObj h)).st = .destroyed
        ∨ (placesNode s x (path.take (k + 1)) = true ∧ countMax ≤ ((s.ctx x).obj (hObj h)).weak) then .ok (n, s)
      else
        let r := insertBlock s x (path.take (k + 1)) h
        insertBlocks r.2 x path t (k + 1) (if r.1 then n + 1 else n)

/-- PFXINS (R308): a release. DESIGN CHOICE (log 32, unsafe). -/
def execPfxins (d : Nat) (a : Src) (s : State) : Host.Outcome State Fault Refusal :=
  guard (.pfxins d a) (fun s =>
    match drained s with
    | .error e => .error e
    | .ok s =>
      match readPfx s true false (rx s a.r) with
      | .error e => .error e
      | .ok (none, s) => .ok (wx s d (statusWord 1))
      | .ok (some (r, path), s) =>
        match readRange s (wd r.arr) (8 * r.nblk) forLoad with
        | .error e => .error e
        | .ok (bs, s) =>
          let x := s.myCtx
          if (s.ctx x).quota < (s.ctx x).nodes.length + r.nblk ∨ 4194304 < s.ctxs.foldl (fun n p => n + p.2.nodes.length) r.nblk then
            .ok (wx s d (statusWord 6))
          else
            match insertBlocks (prune s x path) x path ((List.range r.nblk).map (fun i => wd (ofBytes ((bs.drop (8 * i)).take 8)))) 0 0 with
            | .error e => .error e
            | .ok (n, t) => .ok (wx t d (wd n))) s

/-- PFXDEL (R308): a release. DESIGN CHOICE (log 32, unsafe). -/
def execPfxdel (d : Nat) (a : Src) (s : State) : Host.Outcome State Fault Refusal :=
  guard (.pfxdel d a) (fun s =>
    match drained s with
    | .error e => .error e
    | .ok s =>
      match readPfx s true true (rx s a.r) with
      | .error e => .error e
      | .ok (none, s) => .ok (wx s d (statusWord 1))
      | .ok (some (_, path), s) =>
        let x := s.myCtx
        let s := prune s x path
        if path.isEmpty || (nodeAt (s.ctx x) path).isNone then .ok (wx s d 0)
        else
          let r := removeSubtree s x path
          .ok (wx r.2 d (wd r.1))) s

end Sys2Proof.Machine
end

