-- ==== Sys2Proof/Machine/Cell.lean ====
section
/-!
DEFINITION. Cells: edits, batches and waves (R266 to R270), work items and their dispatch (R271 to R274), commits and cancelled waves
(R153, R275), views (R276, R285), repairs (R277), and the cell instructions (R279 to R288).
-/
namespace Sys2Proof.Machine

/-! Repairs (R277). -/

/-- A version that a repair of a version needs does not exist (R277): a precedent's, or with held rows the cell's own before it.
DEDUCED (log 38, unsafe). -/
def lacksSource (k : Ctx) (n stamp : Nat) : Bool :=
  let c := k.cell n
  (c.bindAt stamp).precs.any (fun p =>
      ((if p.lag || p.cell == n then (k.cell p.cell).choose (stamp - 1) else (k.cell p.cell).chooseAt stamp)).isNone)
    || (!(itemHold c ⟨n, stamp, true, [], false⟩).isEmpty && (c.choose (stamp - 1)).isNone)

/-- A reader `me` of a context meets a lost version: it joins or starts a repair, or there is none to be had: the version is an input
cell's, its repair has failed, or a version that the repair needs does not exist.
DESIGN CHOICE (log 37, unsafe). DEDUCED (log 38, unsafe). -/
def seekRepair (s : State) (x me n stamp : Nat) : Bool × State :=
  let k := s.ctx x
  let here := fun (r : Repair) => r.cell == n && r.stamp == stamp
  match k.repairs.find? (fun r => here r && r.failed && r.waiters.contains me) with
  | some r =>
    let left := delN r.waiters me
    let repairs := if left.isEmpty then dropFirst (· == r) k.repairs else modFirst (· == r) (fun r => { r with waiters := left }) k.repairs
    (true, s.setCtx x { k with repairs := repairs })
  | none =>
    match k.repairs.find? (fun r => here r && !r.failed) with
    | some r => (false, s.setCtx x { k with repairs := modFirst (· == r) (fun r => { r with waiters := insN r.waiters me }) k.repairs })
    | none =>
      if ((k.cell n).bindAt stamp).input || lacksSource k n stamp then (true, s)
      else (false, s.setCtx x { k with repairs := k.repairs ++ [{ cell := n, stamp := stamp, waiters := [me] }] })

/-! Opening a wave (R267, R268, R270, R288). -/

/-- The generation of the next wave (R268): one more than the last wave opened, or where none is open than the committed one. -/
def nextGen (k : Ctx) : Nat := if k.waves.isEmpty then k.committed + 1 else k.lastWave + 1

/-- The context's generations are exhausted (R268). -/
def exhausted (k : Ctx) : Bool := decide (2 ^ 48 ≤ nextGen k)

/-- Sixteen waves are open (R268). -/
def wavesFull (k : Ctx) : Bool := decide (16 ≤ k.waves.length)

/-- Apply an edit as its wave opens: the context and the roots (R267, R280, R320, R321). -/
def applyEdit (g : Nat) (p : Ctx × List Nat) (e : Edit) : Ctx × List Nat :=
  match e.kind with
  | .bind => (p.1.modCell e.cell (fun c => { c with joined := true }), insN p.2 e.cell)
  | .rebind b => (p.1.modCell e.cell (fun c => { c with bind := b }), insN p.2 e.cell)
  | .unbind => (p.1.modCell e.cell (fun c => { c with unboundAt := some g, carried := false, stale := false }), delN p.2 e.cell)
  | .store => (p.1, insN p.2 e.cell)
  | .release qs => (releaseSeqs p.1 e.cell qs, insN p.2 e.cell)
  | .off => (disarm p.1 e.cell, insN p.2 e.cell)

/-- The buffer of a cell is pending for a wave, under the cell's binding. -/
def markPending (x n g : Nat) (one : Bool) (s : State) : State :=
  s.modCtx x (fun k => k.modCell n (fun c => c.modBuf one (fun u => { u.blank with stamp := g, cond := .inWave g, bind := c.bind })))

/-- A cell's older buffer is taken for a wave, once R264 allows it and its storage is there. -/
def takePending (x n g : Nat) (s : State) : Option State :=
  let c := (s.ctx x).cell n
  if canWrite (s.ctx x).views c then (freshStorage x n c.older s).map (markPending x n g c.older) else none

/-- The value of an input root without a CST stands in its pending buffer (R267, R273): zeros, or a copy of its version. A lost version is
repaired first, for the wave `me`; the copy of one that cannot be repaired is poisoned. -/
def takeInput (x me g n : Nat) (s : State) : Bool × State :=
  let c := (s.ctx x).cell n
  match takePending x n g s with
  | none => (false, s)
  | some t =>
    match c.choose (g - 1) with
    | none => (true, t)
    | some b =>
      let u := c.buf b
      let v := ((t.ctx x).cell n).buf c.older
      if badBuf s u then
        let r := seekRepair s x me n u.stamp
        if r.1 then
          (match takePending x n g r.2 with
          | some t => (true, poisonBuf t v 0 c.bind.bytes)
          | none => (false, s))
        else (false, r.2)
      else (true, bufStore t v 0 (bufBytes s u 0 c.bind.bytes))

/-- The buffer that a batch has stored into a cell. DESIGN CHOICE (log 35, unsafe). -/
def Cell.batchBuf (c : Cell) (bn : Nat) : Option Bool :=
  if c.buf0.cond = .inBatch bn then some false else if c.buf1.cond = .inBatch bn then some true else none

/-- An input root as its wave opens: whether its pending buffer holds its value (R288). Where an earlier wave has still to write the cell,
the buffer is not taken (R264, R271). DESIGN CHOICE (log 33, unsafe). -/
def openInput (x me g bn n : Nat) (s : State) : Bool × State :=
  match ((s.ctx x).cell n).batchBuf bn with
  | some b => (true, s.modCtx x (fun k => k.modCell n (fun c => c.modBuf b (fun u => { u with stamp := g, cond := .inWave g }))))
  | none => if busyCell (s.ctx x) n then (false, s) else takeInput x me g n s

/-- The pending buffer of a formula cell as its wave opens: its older buffer once R264 allows it and no earlier wave has still to write
the cell (R271). DESIGN CHOICE (log 33, unsafe). -/
def openFormula (x g bn n : Nat) (s : State) : State :=
  let s := match ((s.ctx x).cell n).batchBuf bn with
    | some b => s.modCtx x (fun k => k.modCell n (fun c => c.modBuf b Buf.blank))
    | none => s
  if busyCell (s.ctx x) n then s else (takePending x n g s).getD s

/-- Roots of a wave that no edit names: carried roots (R265), and cells stale from a cancelled wave (R153). -/
def standingRoots (k : Ctx) : List Nat := (k.cells.filter (fun p => p.2.carried || p.2.stale)).map (·.1)

/-- Open a wave (R268, R270) with the edits of batch `bn`, in one event: its generation, and the state.
DESIGN CHOICE (log 33, unsafe). -/
def openWave (s : State) (x bn : Nat) (es : List Edit) (phase : Option Nat) (fromEntry : Option (Nat × Nat)) : Nat × State :=
  let g := nextGen (s.ctx x)
  let phase := joinedOpen (s.ctx x) phase
  let q := s.tick
  let p := es.foldl (applyEdit g) (s.ctx x, [])
  let k := rerank p.1
  let roots := ((standingRoots k).foldl insN p.2).filter (fun n => (k.cell n).inSheet)
  let set := downstream (edges k) roots
  let k : Ctx := { k with
    lastWave := g
    cells := k.cells.map (fun (c : Nat × Cell) => if c.2.carried || c.2.stale then (c.1, { c.2 with carried := false, stale := false }) else c) }
  let r := set.foldl (fun (r : State × List (Nat × ItemState) × List (Nat × Bool)) n =>
    if ((r.1.ctx x).cell n).bind.input then
      let o := openInput x q.1 g bn n r.1
      (o.2, r.2.1, r.2.2 ++ [(n, o.1)])
    else (openFormula x g bn n r.1, r.2.1 ++ [(n, .waiting)], r.2.2)) (q.2.setCtx x k, [], [])
  (g, r.1.modCtx x (fun k => joinPhase { k with
    waves := k.waves ++ [{ gen := g, seq := q.1, roots := roots, items := r.2.1, inputs := r.2.2, phase := phase, fromEntry := fromEntry }] } phase))

/-- An edit that is deferred while its cell is stale or computing (R269, R321). -/
def Edit.defers (k : Ctx) (e : Edit) : Bool :=
  busyCell k e.cell && (match e.kind with | .rebind _ | .unbind | .release _ | .off => true | _ => false)

/-- Seal a batch (R267 to R269, R282): deferred edits leave it, and the wave opens with the others.
DESIGN CHOICE (log 35, unsafe). -/
def sealBatch (s : State) (x : Nat) (b : Batch) (phase : Option Nat) (fromEntry : Option (Nat × Nat)) : Nat × State :=
  let k := s.ctx x
  let s := s.setCtx x { k with batches := k.batches.filter (·.num != b.num), deferred := k.deferred ++ b.edits.filter (·.defers k) }
  openWave s x b.num (b.edits.filter (fun e => !e.defers k)) phase fromEntry

/-- Deferred edits whose cells no open wave holds apply, each in a wave of its own (R269). DESIGN CHOICE (log 35, unsafe). -/
def applyDeferred (x : Nat) : Nat → State → State
  | 0, s => s
  | n + 1, s =>
    let k := s.ctx x
    match k.deferred.find? (fun e => !busyCell k e.cell) with
    | none => s
    | some e =>
      if (k.cell e.cell).inSheet = false then
        applyDeferred x n (s.setCtx x { k with deferred := dropFirst (· == e) k.deferred })
      else if wavesFull k || exhausted k then s
      else applyDeferred x n (openWave (s.setCtx x { k with deferred := dropFirst (· == e) k.deferred }) x 0 [e] e.phase none).2

/-! Work items (R271, R272). -/

/-- The version of a cell is ready in a wave: its item has finished, its input value stands, or the wave leaves it alone. -/
def doneIn (w : Wave) (n : Nat) : Bool :=
  w.items.all (fun i => i.1 != n || i.2 == .finished) && w.inputs.all (fun i => i.1 != n || i.2)

/-- A cell's work in a wave is ready (R271). -/
def readyIn (k : Ctx) (w : Wave) (n : Nat) : Bool :=
  let c := k.cell n
  c.bind.precs.all (fun p => p.lag || doneIn w p.cell)
    && k.waves.all (fun v => decide (w.seq ≤ v.seq) || !v.holds n)
    && ((c.pendingOf w.gen).isSome || canWrite k.views c)

/-- The work of a wave still to be started, by rank and then number (R271). -/
def workOf (k : Ctx) (w : Wave) : List Nat :=
  let ns := (w.items.filter (·.2 == .waiting)).map (·.1) ++ (w.inputs.filter (fun i => !i.2)).map (·.1)
  (ns.foldl (fun m n => put m ((k.cell n).rank * 2 ^ 20 + n) n) []).map (·.2)

/-- The ready work of a context in its order (R271). -/
def readyWork (k : Ctx) : List (Wave × Nat) :=
  (k.waves.filter (fun w => !w.cancelling)).flatMap (fun w => ((workOf k w).filter (readyIn k w)).map (w, ·))

/-- The formula launch of a binding, if it has not closed (R272, R274). -/
def formulaLaunch (k : Ctx) (b : Binding) : Option Launch :=
  match look k.launches b.launch with
  | some l => if l.st.live then some l else none
  | none => none

/-- The dispatch core of a cell (R272). -/
def dispatchCore (l : Launch) (n : Nat) : Nat := l.cores.getD (n % l.cores.length) 0

/-- Send a work item to its core, or let it fail where its launch has closed (R272, R274). A repair runs the formula of its version (R277). -/
def sendItem (s : State) (x : Nat) (i : Item) : State :=
  let k := s.ctx x
  let c := k.cell i.cell
  match formulaLaunch k (itemBind c i) with
  | none => failItem s x i 0 0
  | some l =>
    arrive s (dispatchCore l i.cell) { slot := 62
                                       words := [wd (itemBind c i).entry, cellHandle i.cell c.tag, wd ((if i.repair then 2 ^ 62 else 0) + i.gen)]
                                       ctx := x, srcCore := 0, srcSlot := 0, srcUid := 0, counted := false
                                       kind := .item i.cell i.gen i.repair }

/-- The hold mask of a cell at the dispatch of its item: its own, those of its non-lagged precedents over its own rows, and
the rows its tap holds (R272, R317). -/
def dispatchHold (k : Ctx) (n : Nat) : List Nat :=
  let c := k.cell n
  (((c.bind.precs.filter (fun p => !p.lag)).flatMap (fun p => (k.cell p.cell).hold) ++ tapHeld c).filter (fun r => decide (r < c.bind.rows))).foldl
    insN c.hold

/-- The context's items are dispatched: it is neither suspended nor on its way out (R128, R271). -/
def dispatching (k : Ctx) : Bool := k.st == .runnable || k.st == .running

/-- The pending buffer of a formula cell's item, which records the armed tap (R313). -/
def itemPending (x n g : Nat) (s : State) : Option State :=
  let arm := match armedTap ((s.ctx x).cell n) with | some t => t.arm | none => 0
  (if (((s.ctx x).cell n).pendingOf g).isSome then some s else takePending x n g s).map (fun s => s.modCtx x (fun k => k.modCell n (fun c =>
    match c.pendingOf g with
    | some b => c.modBuf b (fun u => { u with arm := arm, bind := c.bind })
    | none => c)))

/-- Start a ready work of a wave: an input root takes its value (R288), or starts the repair that it waits for (R267); a formula cell's item
is sent (R272). None when nothing can be done for it yet. -/
def startWork (x : Nat) (s : State) (w : Wave) (n : Nat) : Option State :=
  if ((s.ctx x).cell n).bind.input then
    let r := takeInput x w.seq w.gen n s
    if r.1 then
      some (r.2.modCtx x (fun k => { k with
        waves := k.waves.map (fun v => if v.seq = w.seq then { v with inputs := v.inputs.map (fun i => if i.1 = n then (n, true) else i) } else v) }))
    else if (r.2.ctx x).repairs == (s.ctx x).repairs then none
    else some r.2
  else
    (itemPending x n w.gen s).map (fun s =>
      sendItem (s.modCtx x (fun k => setItem (k.modCell n (fun c => { c with hold := dispatchHold k n })) w.gen n .dispatched)) x
        ⟨n, w.gen, false, [], false⟩)

/-- Start the first ready work of a context that can be started (R271): none is held back for a later one. -/
def dispatchWork (x : Nat) (s : State) : State :=
  if dispatching (s.ctx x) then ((readyWork (s.ctx x)).findSome? (fun p => startWork x s p.1 p.2)).getD s else s

/-- WORK_ITEM_DISPATCH (R271, R272). -/
def execWorkItemDispatch (ctx : Nat) (s : State) : Host.Outcome State Fault Refusal := event true (dispatchWork ctx) s

/-- The version under repair is to be made anew: it reads as lost until the repair's CFIN, and its buffer has storage again; none while the
tier has no room. DESIGN CHOICE (log 37, unsafe). -/
def openRepair (x n : Nat) (one : Bool) (s : State) : Option State :=
  freshStorage x n one (s.modCtx x (fun k => k.modCell n (fun c => c.modBuf one (fun u =>
    if u.cond.pending then { u with bad := true } else if u.cond = .present then { u with cond := .poisoned } else u))))

/-- A repair's item is dispatched (R277); a version that is no longer there cannot be repaired. -/
def dispatchRepair (x n stamp : Nat) (s : State) : State :=
  let k := s.ctx x
  match k.repairs.find? (fun r => r.cell == n && r.stamp == stamp && !r.dispatched && !r.failed) with
  | none => s
  | some r =>
    if dispatching k then
      match (k.cell n).holding stamp with
      | none => s.setCtx x { k with repairs := modFirst (· == r) (fun r => { r with failed := true }) k.repairs }
      | some b =>
        match openRepair x n b s with
        | none => s
        | some t =>
          sendItem (t.modCtx x (fun k => { k with repairs := modFirst (· == r) (fun r => { r with dispatched := true }) k.repairs })) x
            ⟨n, stamp, true, [], false⟩
    else s

/-- REPAIR_DISPATCH (R277). -/
def execRepairDispatch (ctx cell stamp : Nat) (s : State) : Host.Outcome State Fault Refusal := event true (dispatchRepair ctx cell stamp) s

/-! The end of a wave. -/

/-- The record of a closed wave is kept until 256 later waves have closed (R148). -/
def closeRec (k : Ctx) (r : WaveRec) : Ctx :=
  let n := k.waveCloses + 1
  { k with waveCloses := n, waveRecs := { r with closedAt := n } :: k.waveRecs.filter (fun q => q.gen != r.gen && kept q.st q.closedAt n) }

/-- The cells of a wave. -/
def Wave.members (w : Wave) : List Nat := w.items.map (·.1) ++ w.inputs.map (·.1)

/-- A cell's pending version becomes a version as its wave commits (R274, R275, R313, R322). DESIGN CHOICE (log 36, unsafe). -/
def commitCell (g : Nat) (c : Cell) : Cell :=
  match c.pendingOf g with
  | none => c
  | some b =>
    let c := c.modBuf b (fun u => { u with cond := if u.bad then .poisoned else .present, bad := false, hold := c.hold, age := 0 })
    freeTaps { c with taps := c.taps.map (fun (t : Tap) =>
      { t with scores := (t.fresh.filter (·.1 == g)).foldl (fun m p => put m p.2.1 p.2.2) t.scores
               fresh := t.fresh.filter (·.1 != g) }) }

/-- The commit of a wave, one event at the sheet home (R275): the committed generation, its cells, the carried roots, its counter
and phase, cells freed, its queue entry, and the deferred edits. -/
def commitWave (s : State) (x : Nat) (w : Wave) : State :=
  let s := s.modCtx x (fun k =>
    let k := w.members.foldl (fun k n => k.modCell n (commitCell w.gen)) k
    let k : Ctx := { k with
      committed := w.gen
      waves := k.waves.filter (·.seq != w.seq)
      cells := k.cells.map (fun (p : Nat × Cell) =>
        if p.2.inSheet && p.2.bind.precs.any (fun q => q.lag && w.members.contains q.cell) then (p.1, { p.2 with carried := true }) else p) }
    freeCells (leavePhase (closeRec k ⟨w.gen, .complete, w.items.length, w.items.length, 0⟩) false w.phase))
  let s := match w.fromEntry with
    | some (q, seq) => completeEntry s x q seq 0 (w.gen % 2 ^ 32)
    | none => s
  activateSequencer (s.ctx x).home (applyDeferred x (s.ctx x).deferred.length s)

/-- The first open wave has finished all its work, and no wave is open before it (R275). -/
def tryCommit (x : Nat) (s : State) : State :=
  match (s.ctx x).waves with
  | [] => s
  | w :: _ =>
    if !w.cancelling && w.items.all (·.2 == .finished) && w.inputs.all (·.2) then commitWave s x w else s

/-- WAVE_COMMIT (R275). -/
def execWaveCommit (ctx : Nat) (s : State) : Host.Outcome State Fault Refusal := event true (tryCommit ctx) s

/-- A cancelled wave closes when its members have stopped (R153): its cells keep their committed versions and stay stale.
DESIGN CHOICE (log 33, unsafe). -/
def closeCancelled (s : State) (x : Nat) (w : Wave) : State :=
  let s := s.modCtx x (fun k =>
    let k := w.members.foldl (fun k n => k.modCell n (fun c =>
      let c := match c.pendingOf w.gen with | some b => c.modBuf b Buf.blank | none => c
      { c with stale := c.inSheet, taps := c.taps.map (fun (t : Tap) => { t with fresh := t.fresh.filter (·.1 != w.gen) }) })) k
    leavePhase (closeRec { k with waves := k.waves.filter (·.seq != w.seq) } ⟨w.gen, .cancelled, w.items.length, w.items.length, 0⟩) true w.phase)
  let s := match w.fromEntry with
    | some (q, seq) => completeEntry s x q seq 8 0
    | none => s
  let s := applyDeferred x (s.ctx x).deferred.length s
  if seqIdle s (s.ctx x).home then activateSequencer (s.ctx x).home s else s

/-- Close the cancelled waves whose members have all stopped. -/
def closeStopped (s : State) (x : Nat) : State :=
  (s.ctx x).waves.foldl (fun s w => if w.cancelling && w.items.all (·.2 != .dispatched) then closeCancelled s x w else s) s

/-- An item of a handler that has ended is over (R152, R153, R274): the item of a wave that is being cancelled has stopped, any other has
failed. -/
def stopItem (s : State) (x : Nat) (i : Item) (cause thid : Nat) : State :=
  if !i.repair && (s.ctx x).waves.any (fun w => w.gen == i.gen && w.cancelling) then
    closeStopped (s.modCtx x (fun k => setItem k i.gen i.cell .finished)) x
  else failItem s x i cause thid

/-- The item of a handler that is stopped or exits: after CFIN there is nothing left of it; any other is over once the transfers that the
handler handed to slot 63 are (R148). -/
def endItem (s : State) (c t : Nat) : State :=
  let l := s.slot c t
  let x := s.ctxOf c t
  match l.item with
  | none => s
  | some i =>
    if i.finished then s
    else if transfersOf s c l.uid ≠ 0 then
      s.modCtx x (fun k => { k with leaving := k.leaving ++ [⟨c, l.uid, i, l.lastCause, thid c t⟩] })
    else stopItem s x i l.lastCause (thid c t)

/-- After a transfer of a handler that has ended, its item is over once no other runs (R148). -/
def settleItem (s : State) (x c uid : Nat) : State :=
  match (s.ctx x).leaving.find? (fun v => v.core == c && v.uid == uid) with
  | some v =>
    if transfersOf s c uid = 0 then
      stopItem (s.modCtx x (fun k => { k with leaving := k.leaving.filter (· != v) })) x v.item v.cause v.thid
    else s
  | none => s

/-! Batches and edits (R267 to R269, R280, R282). -/

/-- A cell status (R279). -/
def cellStatus (s : State) (d n : Nat) : State := wx s d (statusWord n)

/-- The open batch that a thread holds (R268). -/
def ownBatch (s : State) : Option Batch := (s.ctx s.myCtx).batches.find? (·.owner == s.cur.uid)

/-- A wait at the sheet home that no limit bounds (R268, R277, R281, R285). -/
def waitHere (s : State) : Stop := .wait (.retry .unbounded) s

/-- Perform an edit: it is deferred, joins the issuer's batch, or is sealed at once in a wave of its own (R267 to R269, R280). `prep`
makes the changes that go with the edit itself, in the batch of a number; `batched` and `lone` are the results.
DESIGN CHOICE (log 33, unsafe). -/
def submit (d : Nat) (e : Edit) (prep : Nat → State → State) (batched : Word) (lone : Nat → Word) : Act := fun s =>
  let x := s.myCtx
  let e := { e with phase := phaseOf s s.cur }
  if e.defers (s.ctx x) then
    .ok (wx ((prep 0 s).modCtx x (fun k => { k with deferred := k.deferred ++ [e] })) d (wd (2 ^ 62)))
  else
    match ownBatch s with
    | some b =>
      .ok (wx ((prep b.num s).modCtx x (fun k => { k with
        batches := k.batches.map (fun c => if c.num = b.num then { c with edits := c.edits ++ [e] } else c) })) d batched)
    | none =>
      match drained s with
      | .error f => .error f
      | .ok s =>
        if exhausted (s.ctx x) then .ok (cellStatus s d 6)
        else if wavesFull (s.ctx x) then .error (waitHere s)
        else
          let r := openWave (prep 0 s) x 0 [e] e.phase none
          .ok (wx r.2 d (lone r.1))

/-- The frame of the instructions that name a cell: HANDLE where the handle names none (R260), INITEM for an edit issued inside a
work item (R279). -/
def withCell (edit : Bool) (d : Nat) (h : State → Word) (body : Nat → Act) : Act := fun s =>
  match cellOf (s.ctx s.myCtx) (h s) with
  | none => .error (.trap cHANDLE 0 (h s))
  | some n => if edit && s.cur.item.isSome then .ok (cellStatus s d 12) else body n s

/-! Bind records (R261). -/

/-- What a bind record says: the binding with the handles of its precedents. -/
structure BindRec where
  b : Binding
  precs : List Word
  deriving DecidableEq, Repr, Inhabited

/-- Read a record; none where it breaks a limit of R261 that the record alone shows. DESIGN CHOICE (log 34, unsafe). -/
def parseRec (bs : List Byte) : Option BindRec :=
  let w := fun i => ofBytes ((bs.drop (8 * i)).take 8)
  let np := bits (w 0) 38 35
  let ps := (List.range np).map (fun i => w (2 + i))
  let b : Binding := { rows := bits (w 0) 12 0, cols := bits (w 0) 25 13, fmt := bits (w 0) 33 30, wk := (w 0).testBit 34
                       launch := bits (w 1) 38 15, entry := bits (w 1) 14 0 }
  let res := bits (w 0) 29 26 + bits (w 0) 63 39 + bits (w 1) 63 39
  let tail := (List.range 14).all (fun i => decide (i < np) || w (2 + i) == 0)
  if res = 0 ∧ tail = true ∧ np ≤ 8 ∧ 1 ≤ b.rows ∧ b.rows ≤ 4096 ∧ 1 ≤ b.cols ∧ b.cols ≤ 4096 ∧ (elemBytes b.fmt).isSome = true
    ∧ b.entry % 8 = 0 ∧ (b.input = false ∨ (np = 0 ∧ b.wk = false)) ∧ ps.all (fun p => bits p 19 1 == 0) = true then
    some ⟨b, ps.map wd⟩
  else none

/-- The precedents that a record names; none when one of its handles would trap (R260, R261). -/
def precsOf (k : Ctx) (ps : List Word) : Option (List Prec) :=
  ps.mapM (fun p => (cellOf k (p &&& 0xFFFFFFFFFFFFFFFE)).map (⟨·, p.getLsbD 0⟩))

/-- One cell is named both as a lagged and as a non-lagged precedent (R261). -/
def mixedLag (ps : List Prec) : Bool := ps.any (fun p => ps.any (fun q => q.cell == p.cell && q.lag != p.lag))

/-- The entry lies in a segment of the formula launch (R261). DESIGN CHOICE (log 34, unsafe). -/
def entryIn (l : Launch) (entry : Nat) : Bool := l.segmask.testBit (entry / 4096)

/-- The binding that a record gives a cell, or the status: BADREC, BADPREC, BADLAUNCH, CYCLE, RANKFULL (R261, R265, R266).
DESIGN CHOICE (log 34, unsafe). -/
def bindingOf (k : Ctx) (n : Nat) (old : Option Binding) (bs : List Byte) : Except Nat Binding :=
  match parseRec bs with
  | none => .error 1
  | some r =>
    match precsOf k r.precs with
    | none => .error 2
    | some ps =>
      let b := { r.b with precs := ps }
      let launch := look k.launches b.launch
      if mixedLag ps then .error 1
      else if (match old with | some o => o.rows != b.rows || o.cols != b.cols || o.fmt != b.fmt | none => false) then .error 1
      else if !b.input && (match launch with | some l => l.st == .open_ && !entryIn l b.entry | none => false) then .error 1
      else if !b.input && !(match launch with | some l => l.st == .open_ | none => false) then .error 3
      else
        let es := unionEdges k ++ edgesOf n b
        if closesCycle es n then .error 4
        else if (ranks es).any (fun p => decide (65535 < p.2)) then .error 5
        else .ok b

/-- The record at an address, as loads of the issuer (R280). -/
def readRec (s : State) (va : Word) : Except Stop (List Byte × State) :=
  if !aligned va 128 then .error (.trap cALIGN 0 va) else readRange s va 128 forLoad

/-- The lowest cell number from n on that is not bound (R280). -/
def freeCellFrom (k : Ctx) : Nat → Nat → Nat
  | 0, n => n
  | f + 1, n => if (k.cell n).bound then freeCellFrom k f (n + 1) else n

/-- The die of a cell's storage (R262): its dispatch core's, or the sheet home's for an input cell. -/
def storageDie (k : Ctx) (b : Binding) (n : Nat) : Nat :=
  if b.input then k.home else match look k.launches b.launch with | some l => dispatchCore l n / 1024 | none => k.home

/-- A number is bound, and both buffers take their storage (R262, R280); none when the tier has no room. -/
def bindCell (s : State) (x n : Nat) (b : Binding) : Option State :=
  (takeStorage x n false (s.modCtx x (fun k => k.setCell n { tag := (k.cell n).tag, bound := true, bind := b, die := storageDie k b n }))).bind
    (takeStorage x n true)

/-- CBIND (R280). DESIGN CHOICE (log 34, unsafe). -/
def execCbind (d : Nat) (a : Src) (s : State) : Host.Outcome State Fault Refusal :=
  guard (.cbind d a) (fun s =>
    if s.cur.item.isSome then .ok (cellStatus s d 12)
    else
      match readRec s (rx s a.r) with
      | .error e => .error e
      | .ok (bs, s) =>
        let k := s.ctx s.myCtx
        let n := freeCellFrom k k.cells.length 0
        match bindingOf k n none bs with
        | .error st => .ok (cellStatus s d st)
        | .ok b =>
          if 2 ^ 20 ≤ n ∨ (bindCell s s.myCtx n b).isNone = true then .ok (cellStatus s d 6)
          else
            let h := cellHandle n (k.cell n).tag
            submit d { cell := n, kind := .bind } (fun _ s => (bindCell s s.myCtx n b).getD s) h (fun _ => h) s) s

/-- CEDIT (R280). -/
def execCedit (d : Nat) (a h : Src) (s : State) : Host.Outcome State Fault Refusal :=
  guard (.cedit d a h) (withCell true d (fun s => rx s h.r) fun n s =>
    match readRec s (rx s a.r) with
    | .error e => .error e
    | .ok (bs, s) =>
      let k := s.ctx s.myCtx
      match bindingOf k n (some (k.cell n).bind) bs with
      | .error st => .ok (cellStatus s d st)
      | .ok b => submit d { cell := n, kind := .rebind b } (fun _ s => s) 0 wd s) s

/-- A cell has dependants, in the committed sheet or by pending edits (R279). -/
def hasDependants (k : Ctx) (n : Nat) : Bool :=
  k.cells.any (fun p => p.1 != n && p.2.bound && p.2.unboundAt.isNone && p.2.bind.precs.any (·.cell == n))
    || (pendingEdits k).any (fun e => e.cell != n && (match e.kind with | .rebind b => b.precs.any (·.cell == n) | _ => false))

/-- CUNB (R280). -/
def execCunb (d : Nat) (h : Src) (s : State) : Host.Outcome State Fault Refusal :=
  guard (.cunb d h) (withCell true d (fun s => rx s h.r) fun n s =>
    if hasDependants (s.ctx s.myCtx) n then .ok (cellStatus s d 9)
    else submit d { cell := n, kind := .unbind } (fun _ s => s) 0 wd s) s

/-- An address with an offset in units of 64 bytes (R281, R283). -/
def cellAddr (base : Word) (off : Int) : Word := addrOf base off 64

/-- The issuer's own view is pinned below the newer buffer's stamp, so that it blocks the older one (R264, R281, R288). -/
def ownViewBlocks (s : State) (c : Cell) : Bool :=
  let n := c.buf (!c.older)
  n.cond != .empty && (c.buf c.older).cond != .empty && (s.ctx s.myCtx).views.any (fun v => v.1 == s.cur.uid && decide (v.2 < n.stamp))

/-- A CST's copy in a buffer of its cell, pending in a batch (R281), a version written under no tap; none while the buffer's storage has no
room. -/
def storeCell (x n : Nat) (one : Bool) (bs : List Byte) (bn : Nat) (s : State) : Option State :=
  (freshStorage x n one s).map (fun t =>
    bufStore (t.modCtx x (fun k => k.modCell n (fun c => c.modBuf one (fun u => { u with cond := .inBatch bn, bad := false, bind := c.bind, arm := 0, hold := [] }))))
      (((t.ctx x).cell n).buf one) 0 bs)

/-- CST (R281): the copy waits for the cell's buffer, and becomes pending in the issuer's batch. A view of the issuer's own that blocks the
buffer is told of at once, whatever else holds it. -/
def execCst (d : Nat) (a h : Src) (off : Int) (s : State) : Host.Outcome State Fault Refusal :=
  guard (.cst d a h off) (withCell true d (fun s => rx s h.r) fun n s =>
    let x := s.myCtx
    let k := s.ctx x
    let c := k.cell n
    let src := cellAddr (rx s a.r) off
    let mine := (ownBatch s).bind (fun b => c.batchBuf b.num)
    if !c.bind.input then .ok (cellStatus s d 7)
    else if !aligned src 64 then .error (.trap cALIGN 0 src)
    else if mine.isNone && ownViewBlocks s c then .ok (cellStatus s d 10)
    else if mine.isNone && (busyCell k n || !canWrite k.views c) then .error (waitHere s)
    else
      match readRange s src c.bind.bytes forLoad with
      | .error e => .error e
      | .ok (bs, s) =>
        let one := mine.getD c.older
        if (storeCell x n one bs 0 s).isNone then .error (waitHere s)
        else submit d { cell := n, kind := .store } (fun bn s => (storeCell x n one bs bn s).getD s) 0 wd s) s

/-- CBATCH (R282). DESIGN CHOICE (log 34, unsafe). -/
def execCbatch (d : Nat) (s : State) : Host.Outcome State Fault Refusal :=
  guard (.cbatch d) (fun s =>
    let k := s.ctx s.myCtx
    if s.cur.item.isSome then .ok (cellStatus s d 12)
    else if (ownBatch s).isSome then .ok (cellStatus s d 8)
    else if 256 ≤ k.batches.length ∨ 2 ^ 24 ≤ k.nextBatch then .ok (cellStatus s d 6)
    else .ok (wx (s.modCtx s.myCtx (fun k => { k with
      nextBatch := k.nextBatch + 1, batches := k.batches ++ [{ num := k.nextBatch, owner := s.cur.uid }] })) d (wd k.nextBatch))) s

/-- CSEAL (R282): a release. -/
def execCseal (d : Nat) (a : Src) (s : State) : Host.Outcome State Fault Refusal :=
  guard (.cseal d a) (fun s =>
    match drained s with
    | .error e => .error e
    | .ok s =>
      let k := s.ctx s.myCtx
      match (if rx s a.r = 0 then ownBatch s else k.batches.find? (fun b => wd b.num == rx s a.r)) with
      | none => .ok (cellStatus s d 11)
      | some b =>
        if exhausted k then .ok (cellStatus s d 6)
        else if wavesFull k then .error (waitHere s)
        else
          let r := sealBatch s s.myCtx b (phaseOf s s.cur) none
          .ok (wx r.2 d (wd r.1))) s

/-! Views (R276, R285). -/

/-- Register a view of the thread in issue at a generation. -/
def pinView (s : State) (g : Nat) : State :=
  (s.modCtx s.myCtx (fun k => { k with views := k.views ++ [(s.cur.uid, g)] })).modCur (fun l => { l with view := some g, viewCount := 0 })

/-- CVIEW (R285): `fence` waits until the waves opened before the request have closed. -/
def openView (fence : Bool) (d : Nat) : Act := fun s =>
  let k := s.ctx s.myCtx
  let last := s.cur.fence.getD (k.waves.foldl (fun m w => max m w.seq) 0)
  if s.cur.item.isSome then .ok (cellStatus s d 12)
  else if s.cur.st.vw then .ok (cellStatus s d 8)
  else if fence && k.waves.any (fun w => decide (w.seq ≤ last)) then
    .error (waitHere (s.modCur (fun l => { l with fence := some last })))
  else
    let s := (pinView s k.committed).modCur (fun l => { l with fence := none, st := { l.st with vw := true } })
    .ok (wx s d (wd k.committed))

/-- CVIEW.NOW (R285). -/
def execCviewNow (d : Nat) (s : State) : Host.Outcome State Fault Refusal := guard (.cviewNow d) (openView false d) s

/-- CVIEW.FENCE (R285). -/
def execCviewFence (d : Nat) (s : State) : Host.Outcome State Fault Refusal := guard (.cviewFence d) (openView true d) s

/-- CVEND (R285). -/
def execCvend (s : State) : Host.Outcome State Fault Refusal :=
  guard .cvend (fun s => .ok (if s.cur.st.vw then closeView s s.iss.core s.iss.slot else s)) s

/-- The view of a thread has reached its limit (R276). -/
def viewExpires (l : Slot) : Bool :=
  l.st.vw && !l.st.te && wbits l.viewlim 31 0 != 0 && decide (wbits l.viewlim 31 0 ≤ l.viewCount)

/-- The bundle at a thread's pc is a CVEND, which an expired view does not stop (R276). -/
def nextIsCvend (s : State) (c t : Nat) : Bool :=
  match decodeBundle (s.code c (s.slot c t).pc) with
  | .ok (.lone .cvend) => true
  | _ => false

/-- VIEWEXPIRED (R276, R42 step 4): trap entry releases the view; tval is the generation. -/
def expireView (c t : Nat) (s : State) : State :=
  let g := ((s.slot c t).view).getD 0
  takeTrap (closeView s c t) c t cVIEWEXPIRED 0 (wd g) (s.slot c t).pc

/-! CLD and CWR (R283, R284). -/

/-- The rows that a window register names: the first and the number, or HANDLE info 2 (R283). -/
def windowRows (b : Binding) (w : Word) : Option (Nat × Nat) :=
  let r0 := wbits w 15 0
  let n := if wbits w 31 16 = 0 then b.rows - r0 else wbits w 31 16
  if b.rows ≤ r0 ∨ b.rows < r0 + n then none else some (r0, n)

/-- A trap of a CLD releases the view that the CLD opened for itself (R276). -/
def cldTrap (s : State) (code info : Nat) (tval : Word) : Stop :=
  .keep (closeImplicit s s.iss.core s.iss.slot) code info tval

/-- The buffer of a cell that a work item reads (R272): none when the cell is neither the item's own nor a precedent. -/
def itemChoice (k : Ctx) (i : Item) (n : Nat) : Option (Option Bool) :=
  let c := k.cell n
  if n = i.cell then some (c.choose (i.gen - 1))
  else
    match (itemBind (k.cell i.cell) i).precs.find? (·.cell == n) with
    | none => none
    | some p => some (if p.lag then c.choose (i.gen - 1) else c.chooseAt i.gen)

/-- A CLD copies the rows of a chosen version, or has it repaired first (R277, R283). -/
def copyOut (s : State) (h : Word) (n : Nat) (choice : Option Bool) (rows : Nat × Nat) (dst : Word) : Except Stop State :=
  let c := (s.ctx s.myCtx).cell n
  match choice with
  | none => .error (cldTrap s cCELLLOST 0 h)
  | some b =>
    let u := c.buf b
    if badBuf s u then
      let r := seekRepair s s.myCtx s.cur.uid n u.stamp
      if r.1 then .error (cldTrap r.2 cCELLLOST 0 h) else .error (waitHere r.2)
    else
      match storeRange s dst (bufBytes s u (rows.1 * c.bind.rowBytes) (rows.2 * c.bind.rowBytes)) with
      | .error (.trap code info tval) => .error (cldTrap s code info tval)
      | .error e => .error e
      | .ok t => .ok (closeImplicit t s.iss.core s.iss.slot)

/-- CLD (R283). DESIGN CHOICE (log 40, unsafe). -/
def execCld (win : Nat) (a h : Src) (off : Int) (s : State) : Host.Outcome State Fault Refusal :=
  guard (.cld win a h off) (fun s =>
    let hv := rx s h.r
    let dst := cellAddr (rx s a.r) off
    let k := s.ctx s.myCtx
    match cellNamed k hv with
    | none => .error (cldTrap s cHANDLE 0 hv)
    | some n =>
      match windowRows (k.cell n).bind (rx s win) with
      | none => .error (cldTrap s cHANDLE 2 hv)
      | some rows =>
        if !aligned dst 64 then .error (cldTrap s cALIGN 0 dst)
        else
          match s.cur.item with
          | some i =>
            (match itemChoice k i n with
            | none => .error (cldTrap s cHANDLE 1 hv)
            | some choice => copyOut s hv n choice rows dst)
          | none =>
            let g := s.cur.view.getD k.committed
            let s := if s.cur.view.isSome then s else pinView s g
            if (match (k.cell n).unboundAt with | some u => decide (u ≤ g) | none => false) then .error (cldTrap s cHANDLE 0 hv)
            else copyOut s hv n ((k.cell n).choose g) rows dst) s

/-- The buffer that a work item writes (R277, R284). -/
def itemBuf (c : Cell) (i : Item) : Option Bool := if i.repair then c.holding i.gen else c.pendingOf i.gen

/-- Write rows of a version from row `r0` on, but those held (R284). -/
def writeRows (s : State) (b : Binding) (u : Buf) (hold : List Nat) (bs : List Byte) (r0 n : Nat) : State :=
  (List.range n).foldl (fun t i =>
    if hold.contains (r0 + i) then t else bufStore t u ((r0 + i) * b.rowBytes) ((bs.drop (i * b.rowBytes)).take b.rowBytes)) s

/-- CWR (R284). -/
def execCwr (win : Nat) (a h : Src) (off : Int) (s : State) : Host.Outcome State Fault Refusal :=
  guard (.cwr win a h off) (fun s =>
    let hv := rx s h.r
    let src := cellAddr (rx s a.r) off
    let k := s.ctx s.myCtx
    match cellNamed k hv with
    | none => .error (.trap cHANDLE 0 hv)
    | some n =>
      match windowRows (k.cell n).bind (rx s win) with
      | none => .error (.trap cHANDLE 2 hv)
      | some rows =>
        if !aligned src 64 then .error (.trap cALIGN 0 src)
        else
          match s.cur.item with
          | none => .error (.trap cHANDLE 1 hv)
          | some i =>
            if i.finished || i.cell != n then .error (.trap cHANDLE 1 hv)
            else
              let c := k.cell n
              match readRange s src (rows.2 * c.bind.rowBytes) forLoad, itemBuf c i with
              | .error e, _ => .error e
              | .ok (bs, s), some b =>
                let hold := itemHold c i
                let s := writeRows s c.bind (c.buf b) hold bs rows.1 rows.2
                let wrote := ((List.range rows.2).map (rows.1 + ·)).filter (fun r => !hold.contains r)
                .ok (s.modCur (fun l => { l with item := l.item.map (fun i => { i with written := wrote.foldl insN i.written }) }))
              | .ok (_, s), none => .ok s) s

/-! CFIN (R273, R277, R284, R314). -/

/-- The rows that no CWR of an item wrote (R273). -/
def unwritten (b : Binding) (i : Item) : List Nat := (List.range b.rows).filter (fun r => !i.written.contains r)

/-- Fill rows of a version from another version, or with zeros; `bad`: they become poisoned (R273).
DESIGN CHOICE (log 37, unsafe). -/
def fillRows (s : State) (b : Binding) (u : Buf) (rows : List Nat) (src : Option Buf) (bad : Bool) : State :=
  rows.foldl (fun t r =>
    let o := r * b.rowBytes
    let t := bufStore t u o (match src with | some v => bufBytes t v o b.rowBytes | none => List.replicate b.rowBytes 0)
    if bad then poisonBuf t u o b.rowBytes else t) s

/-- The item is finished (R148, R277): a wave's item counts, and a repair restores its version. -/
def finishItem (s : State) (x : Nat) (i : Item) : State :=
  let s := s.modCtx x (fun k =>
    if i.repair then
      { k.modCell i.cell (fun c =>
          match c.holding i.gen with
          | some b => c.modBuf b (fun u => { u with cond := if u.cond.pending then u.cond else .present, bad := false, age := 0 })
          | none => c) with
        repairs := k.repairs.filter (fun r => !(r.cell == i.cell && r.stamp == i.gen)) }
    else setItem k i.gen i.cell .finished)
  s.modCur (fun l => { l with item := l.item.map (fun i => { i with finished := true }) })

/-- The repair of an item cannot be made whole (R277). DESIGN CHOICE (log 37, unsafe). -/
def abandonRepair (s : State) (x : Nat) (i : Item) : State :=
  (s.modCtx x (fun k => { k with repairs := k.repairs.map (fun r => if r.cell = i.cell ∧ r.stamp = i.gen then { r with failed := true } else r) })).modCur
    (fun l => { l with item := l.item.map (fun i => { i with finished := true }) })

/-- Fill the item's rows, let the Assay unit act, and finish the item (R273, R309, R314). `bad`: the rows filled are poisoned.
DESIGN CHOICE (log 37, unsafe). -/
def fillAndFinish (s : State) (x : Nat) (i : Item) (src : Option Buf) (bad : Bool) : State :=
  let c := (s.ctx x).cell i.cell
  match itemBuf c i with
  | none => finishItem s x i
  | some b => finishItem (assayItem (fillRows s c.bind (c.buf b) (unwritten c.bind i) src bad) x i b (itemHold c i)) x i

/-- CFIN (R284): a release, once the handler's transfers have ended (R148); unwritten and held rows come from the version chosen at g − 1 (R273).
DESIGN CHOICE (log 40, unsafe). -/
def execCfin (s : State) : Host.Outcome State Fault Refusal :=
  guard .cfin (fun s =>
    match s.cur.item with
    | none => .error (.trap cHANDLE 1 0)
    | some i =>
      if i.finished then .error (.trap cHANDLE 1 0)
      else if transfersOf s s.iss.core s.cur.uid ≠ 0 then .error (waitHere s)
      else
        match drained s with
        | .error e => .error e
        | .ok s =>
          let x := s.myCtx
          let c := (s.ctx x).cell i.cell
          if unwritten c.bind i = [] then .ok (fillAndFinish s x i none false)
          else
            match c.choose (i.gen - 1) with
            | none =>
              if i.repair && (unwritten c.bind i).any (itemHold c i).contains then .ok (abandonRepair s x i)
              else .ok (fillAndFinish s x i none false)
            | some b =>
              let u := c.buf b
              if badBuf s u then
                let r := seekRepair s x s.cur.uid i.cell u.stamp
                if r.1 then (if i.repair then .ok (abandonRepair r.2 x i) else .ok (fillAndFinish r.2 x i none true))
                else .error (waitHere r.2)
              else .ok (fillAndFinish s x i (some u) false)) s

/-! CSTAT (R286). -/

/-- The state of a cell in CSTAT's table. -/
def cellState (s : State) (k : Ctx) (n : Nat) : Nat :=
  let c := k.cell n
  let newest := c.buf (!c.older)
  let going := fun (w : Wave) => (match w.item n with | some .dispatched | some .finished => true | _ => false) || w.inputs.any (·.1 == n)
  if k.waves.any going || k.repairs.any (fun r => r.cell == n && r.dispatched && !r.failed) then 2
  else if k.waves.any (fun w => w.item n == some .waiting) || c.stale then 1
  else if newest.poi s then 4
  else if newest.cond = .dropped then 3
  else if c.hold ≠ [] then 5
  else 0

/-- A buffer: `drp:1 poi:1 pnd:1 res:13 stamp:48`. DEDUCED (log 39, unsafe). -/
def bufWord (s : State) (u : Buf) : Word :=
  wd ((if u.cond = .dropped then 2 ^ 63 else 0) + (if u.poi s then 2 ^ 62 else 0) + (if u.cond.pending then 2 ^ 61 else 0)
    + (if u.cond = .empty then 0 else u.stamp % 2 ^ 48))

/-- A cell's descriptor:
`st:3 wk:1 tp:1 pd:1 np:4 rank:16 fmt:4 res:8 cols:13 rows:13`. -/
def cellWord (s : State) (k : Ctx) (n : Nat) : Word :=
  let c := k.cell n
  wd (cellState s k n * 2 ^ 61 + (if c.bind.wk then 2 ^ 60 else 0) + (if (armedTap c).isSome then 2 ^ 59 else 0)
    + (if (pendingEdits k).any (·.cell == n) then 2 ^ 58 else 0) + c.bind.precs.length * 2 ^ 54 + c.rank * 2 ^ 38
    + c.bind.fmt * 2 ^ 34 + c.bind.cols * 2 ^ 13 + c.bind.rows)

/-- CSTAT's value by selector (R286). DEDUCED (log 39, unsafe). -/
def statOf (s : State) (k : Ctx) (n sel : Nat) : Word :=
  let c := k.cell n
  if sel = 0 then cellWord s k n
  else if sel = 1 then bufWord s (c.buf c.newest)
  else if sel = 2 then bufWord s (c.buf (!c.newest))
  else wd ((c.hold.filter (fun r => decide (64 * (sel - 64) ≤ r) && decide (r < 64 * (sel - 64) + 64))).foldl (fun m r => m + 2 ^ (r % 64)) 0)

/-- CSTAT (R286). -/
def execCstat (d : Nat) (h : Src) (sel : Nat) (s : State) : Host.Outcome State Fault Refusal :=
  guard (.cstat d h sel) (fun s =>
    let k := s.ctx s.myCtx
    if sel = 3 then .ok (wx s d (wd k.committed))
    else
      match cellOf k (rx s h.r) with
      | none => .error (.trap cHANDLE 0 (rx s h.r))
      | some n => .ok (wx s d (statOf s k n sel))) s

end Sys2Proof.Machine
end

