-- ==== Sys2Proof/Machine/Context.lean ====
section
/-!
DEFINITION. Pre-emption, the image of a thread, TSAVE and TLOAD (R142 to R144, R223, R235).
-/
namespace Sys2Proof.Machine

/-! Stopping a slot. -/

/-- A C-slot whose wait a pre-emption or a cancel withdraws (R142). -/
def waitWithdrawn : Instr → Bool
  | .wmsg | .pmsg _ | .idle | .csrw _ _ _ => true
  | _ => false

/-- A matrix operation of the slot has started and its bundle can still retire (R254): the bundle waits for the operation alone, or its
C-slot ends by itself. One that has run its cycles while the C-slot waits for what a pre-emption withdraws is withdrawn with the bundle.
DESIGN CHOICE (log 25, unsafe). -/
def retiresYet (l : Slot) : Bool :=
  l.mop.any (·.started) && (l.wait == some (.reply 0) || (match l.held with
    | some h => (match decodeBundle h.bundle with
      | .ok (.pair c _) => !waitWithdrawn c
      | _ => true)
    | none => false))

/-- The bundle of a slot must still end before the slot can stop: it has a reply to come or to take (R142, R214), its matrix operation has
started (R254), or it is a PGHARV that has cleared written bits which it has still to report (R188). -/
def mustFinish (l : Slot) : Bool :=
  (match l.wait with
    | some (.reply _) => true
    | _ => false)
  || (l.reply.isSome && (match l.mop with | some m => m.started | none => true)) || retiresYet l || l.leaf.isSome

/-- A matrix operation of the slot has started and not run its cycles (R254). One whose cycles have passed and whose bundle waits for its
C-slot is withdrawn with the bundle. DESIGN CHOICE (log 25, unsafe). -/
def mmaOf (k : Core) (t : Nat) : Bool :=
  match k.mma, (k.slot t).mop with
  | some m, some o => m.slot == t && o.started && o.seq == m.seq && !o.done
  | _, _ => false

/-- The unit holds the operation of a bundle that has run its cycles and not retired (R253). -/
def mmaKept (k : Core) : Bool :=
  match k.mma with
  | some m => (k.slot m.slot).mop.any (fun o => o.started && o.seq == m.seq && o.done)
  | none => false

/-- An access of the thread of a slot is in flight. -/
def inFlight (s : State) (c t : Nat) : Bool :=
  s.flights.any (fun f => f.core == c && f.slot == t && f.uid == (s.slot c t).uid)

/-- The slot of a pre-emption request is stopped once its bundle has ended, its matrix operation has retired and `unack` is
zero; a failed store not yet reported stays with the image as a pending WRITE trap (R142), also where `st.te` is 1 and `cause` and
`tval` hold those of an earlier trap, which are overwritten. A read that waits for a repair waits for it no more (R277).
DESIGN CHOICE (log 66, unsafe). -/
def tryStop (s : State) (c t : Nat) : State :=
  let l := s.slot c t
  if l.stopping && l.phase != .starting && !mustFinish l && !mmaOf (s.core c) t && l.unack == 0
      && !inFlight s c t then
    (withdrawWaiter (leaveRepairs (closeImplicit s c t) (s.ctxOf c t) l.uid) c t).modSlot c t (fun l =>
      let m := { (uncountHeld t l).awake with phase := .stopped, stopping := false }
      match l.failed with
      | some f => { m with cause := causeWord cWRITE 0, tval := f.2, failed := none, pendingWrite := true }
      | none => m)
  else s

/-- The slot issues no further bundle, its waits are withdrawn, and it stops (R142). A BCPL that waits retires with its arrival
(R214). A thread whose entry segment has not come stops when it would start. -/
def stopSlot (c t : Nat) (s : State) : State :=
  let l := s.slot c t
  if l.phase = .free ∨ l.phase = .stopped then s
  else tryStop (withdraw c t (((s.wake c).modSlot c t (fun l => { l with stopping := true })))) c t

/-- PREEMPTION_REQUEST (R142). -/
def preempt (c t : Nat) (s : State) : State := if fixedSlot t then s else stopSlot c t s

/-- PREEMPTION_REQUEST (R142). -/
def execPreemptionRequest (core slot : Nat) (s : State) : Host.Outcome State Fault Refusal :=
  event (slotOk core slot) (preempt core slot) s

/-- THREAD_START (R142, R166): a thread that has been asked to stop before its entry segment came stops as it becomes ready.
DEDUCED (log 10, safe). -/
def execThreadStart (core slot : Nat) (s : State) : Host.Outcome State Fault Refusal :=
  event (slotOk core slot) (fun s => tryStop (threadStart core slot s) core slot) s

/-! The image (R144). -/

/-- The code of an accumulator's shape has 8-byte elements (R144, R239). -/
def wideShape (n : Nat) : Bool := n == 3

/-- The 1,024 bytes of an accumulator in an image: its elements in row order, or zeros for shape none (R239). -/
def accBytes (a : Acc) : List Byte :=
  if a.shape = 0 then List.replicate 1024 0
  else if wideShape a.shape then (List.range 64).flatMap (fun i => toBytes 8 (lookD a.el i 0).toNat) ++ List.replicate 512 0
  else (List.range 256).flatMap (fun i => toBytes 4 (lookD a.el i 0).toNat)

/-- An accumulator from its image. -/
def accOf (shape : Nat) (live : Bool) (bs : List Byte) : Acc :=
  let n := if wideShape shape then 8 else 4
  { shape := shape, live := live
    el := (List.range (if shape = 0 then 0 else if wideShape shape then 64 else 256)).foldl
      (fun m i => putD m i (wd (ofBytes ((bs.drop (n * i)).take n))) 0) [] }

/-- A number whose bits come from a list. -/
def maskOf (n : Nat) (p : Nat → Bool) : Nat := (List.range n).foldl (fun m i => if p i then m + 2 ^ i else m) 0

/-- The mailbox words that a save of a slot takes along: an incomplete claim, or a shadow not yet placed (R223).
DESIGN CHOICE (log 23, unsafe). -/
def savedMailbox (k : Core) (t : Nat) : SMap Word :=
  if k.claim = some (t, (k.slot t).uid) ∧ (look k.mbox 3).isNone then k.mbox else (k.slot t).shadow

/-- The image of a stopped slot (R144). DESIGN CHOICE (log 23, unsafe). -/
def imageOf (s : State) (c t : Nat) : List Byte :=
  let k := s.core c
  let l := k.slot t
  let n := l.wlim - l.wbase
  let box := savedMailbox k t
  let gen := (l.view.getD 0) * 2 ^ 16
  let word := toBytes 8
  word (c * 2 ^ 26 + t * 2 ^ 20 + l.pc.toNat % 2 ^ 15) ++ word l.st.word.toNat ++ word l.latch.toNat
    ++ word l.epc.toNat ++ word l.cause.toNat ++ word l.tval.toNat ++ word l.waitlim.toNat ++ word l.viewlim.toNat
    ++ word (if l.st.vw then gen else 0) ++ word l.viewCount
    ++ word (l.streams.length * 2 ^ 20 + maskOf 8 l.accs.contains * 2 ^ 12 + (if l.dtsel then 2 ^ 11 else 0) + l.prio * 2 ^ 8 + n)
    ++ word ((List.range 8).foldl (fun m a =>
        if l.accs.contains a then
          m + ((lookD k.accs a {}).shape + (if (lookD k.accs a {}).live then 128 else 0)) * 2 ^ (8 * a)
        else m) 0)
    ++ (List.range 4).flatMap (fun i =>
        let m := lookD l.masks i ⟨-1, -1⟩
        toBytes 4 (m.cols.toNat * 2 ^ 16 + m.rows.toNat))
    ++ toBytes 16 (maskOf n (fun i => !k.empty.contains (l.wbase + i)))
    ++ (List.range 4).flatMap (fun i => word (lookD box i 0).toNat)
    ++ word (maskOf 4 (fun i => (look box i).isSome))
    ++ word (l.index * 2 ^ 36 + l.launch * 2 ^ 12 + l.ctx) ++ List.replicate 80 0
    ++ (List.range n).flatMap (fun i => word (lookD k.regs (l.wbase + i) 0).toNat)
    ++ ((List.range 8).filter l.accs.contains).flatMap (fun a => accBytes (lookD k.accs a {}))
    ++ l.streams.flatMap (fun m => word m.desc ++ word (m.code * 2 ^ 47 + m.reg * 2 ^ 40 + m.nxt % 2 ^ 40))

/-- The slot is freed by its save (R143, R223): its window and accumulators return, its claim is released, its streams are
unbound; a pinned view stays pinned, and completions of the thread that wait at the station are kept for it, before them what is left of one
that it has taken in part (R229). The image has no place for any other message that the thread has taken in part: it stays with the slot, for
the thread that is loaded there. DESIGN CHOICE (log 23, unsafe). -/
def freeSaved (s : State) (c t : Nat) : State :=
  let l := s.slot c t
  let x := l.ctx
  let s := discardMailboxes s c t l.uid false
  let mine := fun (m : Msg) => m.kind == .completion l.uid
  let s := s.modCore c (fun k => { k with
    station := k.station.filter (fun m => !mine m), kept := k.kept ++ (l.msg.filter mine).toList ++ k.station.filter mine })
  leftCore x <| (s.setSlot c t { msg := l.msg.filter (fun m => !mine m) }).modCtx x (fun k =>
    { k with saved := k.saved ++ [⟨c, t, l.launch, l.index, l.uid, l.pendingWrite, l.viewCount⟩] })

/-- The status of a save before its stores (R143): for slots 62 and 63 it is BADSLOT, whatever their state.
DESIGN CHOICE (log 23, unsafe). -/
def saveStatus (s : State) (c t : Nat) : Nat :=
  if fixedSlot t then 2 else if (s.slot c t).phase = .stopped then 0 else 1

/-! Loading an image. -/

/-- What an image says (R144). -/
structure ThreadImage where
  core : Nat
  slot : Nat
  l : Slot
  n : Nat
  full : Nat
  regs : List Word
  accs : List (Nat × Acc)
  streams : List (Nat × Nat × Nat)
  deriving Repr, Inhabited

/-- The word at an offset. -/
def imgWord (bs : List Byte) (o : Nat) : Nat := ofBytes ((bs.drop o).take 8)

/-- The bytes of an image after its first 0x100 (R144). -/
def imageRest (h : List Byte) : Nat :=
  let w := imgWord h 0x50
  8 * bits w 7 0 + 1024 * ((List.range 8).filter (bits w 19 12).testBit).length + 16 * bits w 23 20

/-- A reserved field of the image's fixed part is not zero, or its window size is out of range (R143, R144). More than four streams are no cause
that R143 lists: the model takes them for one out of range. DESIGN CHOICE (log 23, unsafe). -/
def imageBad (h : List Byte) : Bool :=
  let w := imgWord h
  bits (w 0) 63 39 + bits (w 0) 19 15 + bits (w 8) 63 6 + bits (w 0x10) 63 32 + bits (w 0x18) 63 15 + bits (w 0x20) 63 16
      + bits (w 0x30) 63 32 + bits (w 0x38) 63 32 + bits (w 0x40) 15 0 + bits (w 0x50) 63 24 + bits (w 0xA0) 63 4
      + bits (w 0xA8) 63 55 + ofBytes ((h.drop 0xB0).take 80) ≠ 0
    || (List.range 8).any (fun k => bits (w 0x58) (8 * k + 6) (8 * k + 2) != 0)
    || decide (bits (w 0x50) 7 0 < 8) || decide (128 < bits (w 0x50) 7 0) || decide (4 < bits (w 0x50) 23 20)

/-- The image's fields. DESIGN CHOICE (log 23, unsafe). -/
def parseImage (h rest : List Byte) : ThreadImage :=
  let w := imgWord h
  let n := bits (w 0x50) 7 0
  let accs := (List.range 8).filter (bits (w 0x50) 19 12).testBit
  let body := rest.drop (8 * n)
  let recs := body.drop (1024 * accs.length)
  let st := Status.ofWord (wd (w 8))
  { core := bits (w 0) 38 26, slot := bits (w 0) 25 20, n := n
    full := ofBytes ((h.drop 0x70).take 16)
    regs := (List.range n).map (fun i => wd (imgWord rest (8 * i)))
    accs := (List.range accs.length).map (fun i =>
      let a := accs.getD i 0
      (a, accOf (bits (w 0x58) (8 * a + 1) (8 * a)) ((w 0x58).testBit (8 * a + 7)) ((body.drop (1024 * i)).take 1024)))
    streams := (List.range (bits (w 0x50) 23 20)).map (fun i =>
      let r := imgWord recs (16 * i + 8)
      (imgWord recs (16 * i), bits r 46 40, r))
    l := { phase := .ready, pc := wd (bits (w 0) 14 0), st := st, latch := BitVec.ofNat 32 (w 0x10), epc := wd (w 0x18)
           cause := wd (w 0x20), tval := wd (w 0x28), waitlim := wd (w 0x30), viewlim := wd (w 0x38)
           view := if st.vw then some (bits (w 0x40) 63 16) else none, viewCount := w 0x48
           dtsel := (w 0x50).testBit 11, prio := bits (w 0x50) 10 8, accs := accs
           masks := (List.range 4).foldl (fun m i =>
             put m i ⟨BitVec.ofNat 16 (ofBytes ((h.drop (0x60 + 4 * i)).take 2)), BitVec.ofNat 16 (ofBytes ((h.drop (0x62 + 4 * i)).take 2))⟩) []
           shadow := (List.range 4).foldl (fun m i => if (w 0xA0).testBit i then put m i (wd (w (0x80 + 8 * i))) else m) []
           ctx := bits (w 0xA8) 11 0, launch := bits (w 0xA8) 35 12, index := bits (w 0xA8) 54 36 } }

/-- The launch of an image is open and has not counted the thread, or the image is a pager's or monitor's (R143). -/
def launchOpen (s : State) (i : ThreadImage) : Bool :=
  i.l.launch == 0 || (match look (s.ctx i.l.ctx).launches i.l.launch with
    | some r => r.st == .open_ && !r.finished.contains i.l.index
    | none => false)

/-- The status of a load by the fixed part of its image (R143), in the order of the statuses. DESIGN CHOICE (log 23, unsafe). -/
def headStatus (s : State) (c t : Nat) (h : List Byte) : Nat :=
  if (s.slot c t).phase ≠ .free then 1
  else if bits (imgWord h 0) 38 26 ≠ c ∨ bits (imgWord h 0) 25 20 ≠ t then 2
  else if imageBad h then 3
  else 0

/-- The status of a load whose image's fixed part is in order, before it changes anything (R143). A stream record with a state above 4 is no
cause that R143 lists: the model answers BADIMAGE. DESIGN CHOICE (log 23, unsafe). -/
def loadStatus (s : State) (c : Nat) (i : ThreadImage) : Nat :=
  if s.holder c ≠ some i.l.ctx ∨ launchOpen s i = false ∨ i.streams.any (fun r => bits r.2.2 63 50 != 0 || decide (4 < bits r.2.2 49 47)) = true then 3
  else if (lowestBase (usedWindows (s.core c)) i.n).isNone || i.l.accs.any (fun a => !(freeAccs (s.core c)).contains a) then 4
  else 0

/-- The identity of a restored thread: its own, which its launch and the save keep. -/
def savedUid (s : State) (i : ThreadImage) : Option SavedThread :=
  (s.ctx i.l.ctx).saved.find? (fun p => p.core == i.core && p.slot == i.slot && p.launch == i.l.launch && p.index == i.l.index)

/-- Load a thread into a slot (R143): its window is placed, its accumulators and streams are assigned, its completions are
queued again (R229), reports that the monitor's slot had refused are sent again (R138), and a pending WRITE trap is taken (R142). The
image holds no `trapvec`: the thread has that of its context. DESIGN CHOICE (log 23, unsafe). -/
def loadThread (s : State) (c t : Nat) (i : ThreadImage) (streams : List Stream) : State :=
  let x := i.l.ctx
  let base := (lowestBase (usedWindows (s.core c)) i.n).getD 0
  let old := savedUid s i
  let q := s.tick
  let uid := (old.map (·.uid)).getD q.1
  let s := q.2.modCore c (fun k => { k with
    accs := i.accs.foldl (fun m a => put m a.1 a.2) k.accs
    station := k.station ++ k.kept.filter (fun m => m.kind == .completion uid)
    kept := k.kept.filter (fun m => m.kind != .completion uid) })
  let s := s.modCtx x (fun k => { k with saved := k.saved.filter (fun p => p.uid != uid) })
  let s := (List.range i.n).foldl (fun s j =>
    let s := setEntry s c (base + j) (i.regs.getD j 0)
    if i.full.testBit j then s else s.modCore c (fun k => { k with empty := insN k.empty (base + j) })) (zeroEntries s c base (base + i.n))
  let s := s.setSlot c t { i.l with
    trapvec := wd (s.ctx x).trapvec, wbase := base, wlim := base + i.n, uid := uid, streams := streams
    msg := (s.slot c t).msg }
  let s := sendReports x c t (s.wake c)
  if (old.map (·.pendingWrite)).getD false then takeTrap s c t cWRITE 0 i.l.tval i.l.pc else s

/-- The streams of an image, each refetched from its next element; none when a descriptor is malformed (R235). -/
def rebind (i : ThreadImage) (seq : Nat) (descs : List (List Byte)) : Option (List Stream) :=
  (List.range i.streams.length).mapM (fun j =>
    let r := i.streams.getD j (0, 0, 0)
    (parseStream r.2.1 seq r.1 (descs.getD j [])).map (fun m => { m with nxt := bits r.2.2 39 0 }))

/-! The instructions. They are privileged and belong to slot 63. -/

/-- The frame of TSAVE and TLOAD: slot 63 only, and an aligned address (R143). -/
def saveFrame (va : State → Word) (body : Act) : Act := fun s =>
  if s.iss.slot ≠ 63 then .error (.trap cPRIV 0 (wd s.iss.bundle))
  else if !aligned (va s) 128 then .error (.trap cALIGN 0 (va s))
  else body s

/-- TSAVE (R143). DESIGN CHOICE (log 23, unsafe). -/
def execTsave (d : Nat) (a b : Src) (s : State) : Host.Outcome State Fault Refusal :=
  guard (.tsave d a b) (saveFrame (fun s => rx s a.r) fun s =>
    let c := s.iss.core
    let t := wbits (rx s b.r) 5 0
    let st := saveStatus s c t
    if st ≠ 0 then .ok (wx s d (wd st))
    else
      match (if s.cur.part.isEmpty then storeRange s (rx s a.r) (imageOf s c t) else .ok s) with
      | .error e => .error e
      | .ok s =>
        match performed (s.modCur (fun l => { l with part := [0] })) with
        | .error e => .error e
        | .ok s => .ok (wx (freeSaved (gathered s) c t) d 0)) s

/-- TLOAD (R143). DESIGN CHOICE (log 23, unsafe). -/
def execTload (d : Nat) (a b : Src) (s : State) : Host.Outcome State Fault Refusal :=
  guard (.tload d a b) (saveFrame (fun s => rx s a.r) fun s =>
    let c := s.iss.core
    let t := wbits (rx s b.r) 5 0
    let va := rx s a.r
    if fixedSlot t then .ok (wx s d 2)
    else
      match readRange s va 256 forLoad with
      | .error e => .error e
      | .ok (h, s) =>
        if headStatus s c t h ≠ 0 then .ok (wx s d (wd (headStatus s c t h)))
        else
          match readRange s (va + 256) (imageRest h) forLoad with
          | .error e => .error e
          | .ok (rest, s) =>
            let i := parseImage h rest
            let st := loadStatus s c i
            if st ≠ 0 then .ok (wx s d (wd st))
            else
              match readRanges s (i.streams.map (fun r => (r.1, 32))) with
              | .error e => .error e
              | .ok (descs, s) =>
                match rebind i s.env.fresh descs with
                | none => .ok (wx s d 3)
                | some streams => .ok (wx (loadThread s c t i streams) d 0)) s

end Sys2Proof.Machine
end

