-- ==== Sys2Proof/Machine/Ending.lean ====
section
/-!
DEFINITION. The end of threads and instances: EXIT (R158), the end of a handler (R168, R274), and CANCEL with what it stops (R152,
R153).
-/
namespace Sys2Proof.Machine

/-! The end of a thread. -/

/-- A handler ends (R158, R168): its item, view, streams, mailbox claim and message go, and slot 62 is free.
DESIGN CHOICE (log 41, unsafe). -/
def endHandler (s : State) (c : Nat) (cancelled : Bool) : State :=
  let uid := (s.slot c 62).uid
  let x := s.ctxOf c 62
  let s := closeView (endItem (discardMailboxes s c 62 uid cancelled) c 62) c 62
  let s := leaveRepairs (dropCompletions s c uid) x uid
  leftCore x ({ s with waiters := s.waiters.filter (fun w => !(w.core == c && w.slot == 62)) }.setSlot c 62 {})

/-- A thread ends. -/
def endThread (s : State) (c t : Nat) (cancelled : Bool) : State :=
  if t = 62 then endHandler s c cancelled else endUser s c t cancelled

/-- EXIT (R158): it waits for `unack` to be zero, and takes the report of a failed store (R109).
DESIGN CHOICE (log 41, unsafe). -/
def execExit (s : State) : Host.Outcome State Fault Refusal :=
  guard .exit (fun s =>
    match drained s with
    | .error e => .error e
    | .ok s =>
      if s.iss.pair then .ok (after s .exit)
      else .ok ((endThread s s.iss.core s.iss.slot false).ended .ended)) s

/-! Cancelled threads (R152). -/

/-- Accesses of a thread are still on their way, or a matrix operation of it runs. -/
def outstanding (s : State) (c t : Nat) : Bool :=
  let l := s.slot c t
  l.unack != 0 || mmaOf (s.core c) t || inFlight s c t || retiresYet l || l.leaf.isSome

/-- A cancelled thread ends once nothing of it is outstanding; a failed store that it had not reported is reported to the monitor. -/
def tryEnd (s : State) (c t : Nat) : State :=
  let l := s.slot c t
  if l.cancelled && l.phase != .free && !outstanding s c t then
    let s := match l.failed with
      | some f => lostStore s c t f.2
      | none => s
    let s := s.modCore c (fun k => { k with newTable := k.newTable.filter (fun n => n.2.1 != t) })
    endThread (withdrawWaiter s c t) c t true
  else s

/-- A cancel reaches a thread (R152); the thread in issue stops at its next bundle boundary (R153). -/
def cancelThread (self : Option (Nat × Nat)) (s : State) (c t : Nat) : State :=
  if (s.slot c t).phase = .free then s
  else
    let s := (s.wake c).modSlot c t (fun l => { l with cancelled := true })
    if self = some (c, t) then s else tryEnd (withdraw c t s) c t

/-- A saved thread of a cancelled launch ends (R152); a complete request that slot 63 has not taken and its kept completions are discarded
(R229). DESIGN CHOICE (log 41, unsafe). -/
def endSaved (s : State) (x : Nat) (v : SavedThread) : State :=
  let s := (discardMailboxes s v.core v.slot v.uid true).modCtx x (fun k => freeCells { k with
    saved := k.saved.filter (·.uid != v.uid), views := k.views.filter (·.1 != v.uid) })
  let s := dropCompletions s v.core v.uid
  let s := s.modCtx x (fun k => { k with launches := k.launches.map (fun p =>
    if p.1 = v.launch then (p.1, { p.2 with anyCancel := true, stopped := insN p.2.stopped v.index }) else p) })
  if transfersOf s v.core v.uid = 0 then finishMember s x v.launch v.index true else s

/-- Cancel a member thread of a launch, wherever it is; one that has ended but whose transfers have not is cancelled, and a request of it that
slot 63 has not taken is discarded (R148, R152). -/
def cancelMember (self : Option (Nat × Nat)) (x n : Nat) (s : State) (m : Nat × Nat × Nat) : State :=
  match (s.ctx x).saved.find? (·.uid == m.2.2) with
  | some v => endSaved s x v
  | none =>
    if (s.slot m.1 m.2.1).uid = m.2.2 then cancelThread self s m.1 m.2.1
    else settleMember ((discardMailboxes s m.1 m.2.1 m.2.2 true).modCtx x (fun k => { k with launches := k.launches.map (fun p =>
      if p.1 = n then
        (n, { p.2 with
          anyCancel := p.2.anyCancel || (List.range p.2.threads.length).any (fun i =>
            (p.2.threads.getD i (0, 0, 0)).2.2 == m.2.2 && !p.2.finished.contains i)
          stopped := ((List.range p.2.threads.length).filter (fun i =>
            (p.2.threads.getD i (0, 0, 0)).2.2 == m.2.2 && !p.2.finished.contains i)).foldl insN p.2.stopped })
      else p) })) x m.1 m.2.2

/-- The fetches in flight of the segments of a cancelled launch are abandoned (R164): they wait for a fault that no wake names. -/
def abandonFetches (s : State) (x n : Nat) (cs : List Nat) : State :=
  cs.foldl (fun t c => t.modCore c (fun k => { k with segs := k.segs.map (fun g =>
    if g.2.holder = some (x, n) ∧ g.2.st = .fetching then (g.1, { g.2 with token := some 0 }) else g) })) s

/-- Cancel a launch (R152): its record is CANCELLING, and every member is cancelled. -/
def cancelLaunch (self : Option (Nat × Nat)) (s : State) (x n : Nat) : State :=
  match look (s.ctx x).launches n with
  | none => s
  | some l =>
    if l.st = .open_ then
      let s := s.modCtx x (fun k => { k with launches := put k.launches n { l with st := .cancelling } })
      l.threads.foldl (cancelMember self x n) (abandonFetches s x n l.cores)
    else s

/-- Cancel a dispatched item: its message is withdrawn, or its handler is cancelled; of a handler that has ended while transfers run, a complete
request that slot 63 has not taken is discarded (R152). DESIGN CHOICE (log 40, unsafe). -/
def cancelItem (self : Option (Nat × Nat)) (s : State) (x g n : Nat) : State :=
  let mine := fun (m : Msg) => m.ctx == x && m.kind == .item n g false
  match s.cores.find? (fun p => p.2.station.any mine || p.2.queue.any mine) with
  | some p =>
    (s.modCore p.1 (fun k => { k with station := k.station.filter (fun m => !mine m), queue := k.queue.filter (fun m => !mine m) })).modCtx x
      (fun k => setItem k g n .finished)
  | none =>
    match s.cores.find? (fun p => match (p.2.slot 62).item with
        | some i => (p.2.slot 62).ctx == x && i.cell == n && i.gen == g && !i.repair && !i.finished
        | none => false) with
    | some p => cancelThread self s p.1 62
    | none =>
      match (s.ctx x).leaving.find? (fun v => v.item.cell == n && v.item.gen == g && !v.item.repair) with
      | some v => settleItem (discardMailboxes s v.core 62 v.uid true) x v.core v.uid
      | none => s.modCtx x (fun k => setItem k g n .finished)

/-- Cancel a wave and every wave opened after it (R153): items not dispatched stop at once. -/
def cancelWaves (self : Option (Nat × Nat)) (s : State) (x g : Nat) : State :=
  let hit := (s.ctx x).waves.filter (fun w => decide (g ≤ w.gen) && !w.cancelling)
  let s := s.modCtx x (fun k => { k with waves := k.waves.map (fun (w : Wave) =>
    if g ≤ w.gen then { w with cancelling := true, items := w.items.map (fun i => if i.2 = .waiting then (i.1, .finished) else i) } else w) })
  let s := hit.foldl (fun s w => (w.items.filter (·.2 == .dispatched)).foldl (fun s i => cancelItem self s x w.gen i.1) s) s
  closeStopped s x

/-- Entries of a queue that are visible and not complete. -/
def queuedEntries (q : Queue) : List Nat := ((List.range (q.tail - q.retired)).map (q.retired + ·)).filter (fun n => (look q.codes n).isNone)

/-- The phase and the kind that a queued entry names (R174). -/
def entryPhase (s : State) (q : Queue) (seq : Nat) : Nat := bits (s.num (entryKey q seq) 8) 47 32

/-- A cancel of a phase or of the job completes the entries still queued with code 8 (R177): those of the phase, or all.
DESIGN CHOICE (log 41, unsafe). -/
def cancelEntries (s : State) (x : Nat) (phase : Option Nat) : State :=
  (s.ctx x).queues.foldl (fun s u =>
    (queuedEntries u.2).foldl (fun s n =>
      let started := u.2.entries.any (fun e => e.seq == n && e.started)
      if !started && (match phase with | some p => entryPhase s u.2 n == p | none => true) then completeEntry s x u.1 n 8 0 else s) s) s

/-- Cancel a phase (R152): its launches, its waves, and the entries that name it. -/
def cancelPhase (self : Option (Nat × Nat)) (s : State) (x p : Nat) : State :=
  let s := s.modCtx x (fun k => { k with phases := k.phases.map (fun e =>
    if e.1 = p then (p, { e.2 with st := .cancelling, intake := false }) else e) })
  let s := cancelEntries s x (some p)
  let s := ((s.ctx x).launches.filter (fun l => l.2.phase == some p)).foldl (fun s l => cancelLaunch self s x l.1) s
  let s := match (s.ctx x).waves.find? (·.phase == some p) with
    | some w => cancelWaves self s x w.gen
    | none => s
  s.modCtx x (fun k => tryClosePhase k p)

/-- The slots that hold threads of a context. -/
def slotsOf (s : State) (x : Nat) : List (Nat × Nat) :=
  s.cores.flatMap (fun p => p.2.slots.filterMap (fun t =>
    if t.1 != 63 && t.2.phase != .free && s.ctxOf p.1 t.1 == x then some (p.1, t.1) else none))

/-- Cancel the job: the context is dying (R128, R153), and everything below is cancelled. DESIGN CHOICE (log 41, unsafe). -/
def cancelJob (self : Option (Nat × Nat)) (s : State) (x : Nat) : State :=
  let s := s.modCtx x (fun k => { k with st := .dying, jobCancel := true })
  let s := cancelEntries s x none
  let s := (s.ctx x).phases.foldl (fun s p => if p.2.st.live then cancelPhase self s x p.1 else s) s
  let s := (s.ctx x).launches.foldl (fun s l => cancelLaunch self s x l.1) s
  let s := cancelWaves self s x 0
  let s := (s.ctx x).saved.foldl (fun s v => endSaved s x v) s
  (slotsOf s x).foldl (fun s p => cancelThread self s p.1 p.2) s

/-! CANCEL (R152). -/

/-- The member of a launch at a core and slot. -/
def memberAt (l : Launch) (c t : Nat) : Option (Nat × Nat × Nat) := l.threads.find? (fun m => m.1 == c && m.2.1 == t)

/-- Cancel the instance that a name names, whose record is open. -/
def cancelNamed (s : State) (lv : Level) (name : Word) : State :=
  let self := some (s.iss.core, s.iss.slot)
  let x := s.myCtx
  let l := s.cur
  match lv with
  | .thread =>
    if name = 0 then cancelThread self s s.iss.core s.iss.slot
    else
      (match (look (s.ctx x).launches (wbits name 42 19)).bind (fun r => memberAt r (wbits name 18 6) (wbits name 5 0)) with
      | some m => cancelMember self x (wbits name 42 19) s m
      | none => s)
  | .launch => cancelLaunch self s x (if name = 0 then l.launch else name.toNat)
  | .wave => (match (if name = 0 then ownWave l else some name.toNat) with | some g => cancelWaves self s x g | none => s)
  | .phase => (match (if name = 0 then phaseOf s l else some name.toNat) with | some p => cancelPhase self s x p | none => s)
  | .job => cancelJob self s x

/-- CANCEL (R152): 1 NOTFOUND, 2 CLOSED, 0 DONE. -/
def execCancel (lv : Level) (d : Nat) (a : Src) (s : State) : Host.Outcome State Fault Refusal :=
  guard (.cancel lv d a) (fun s =>
    let r := counter s lv (rx s a.r)
    if wbits r 63 61 = 7 then .ok (wx s d 1)
    else if wbits r 63 61 ≠ 0 then .ok (wx s d 2)
    else .ok (cancelNamed (wx s d 0) lv (rx s a.r))) s

end Sys2Proof.Machine
end

