-- ==== Sys2Proof/Machine/Formats.lean ====
section
/-!
DEFINITION. Conversions between formats, decode tables, the encoding to 8-bit codes and MX blocks (R61 to R68, R92,
R99 to R102).
-/
namespace Sys2Proof.Machine

/-! Decode tables. -/

/-- The value of a code of a preset (R65). -/
def presetVal (p : Preset) (c : Nat) : FVal :=
  match p with
  | .e4m3 => if c % 128 = 127 then .nan
    else if c / 8 % 16 = 15 then .fin (decide (128 ≤ c)) (8 + c % 8) 5 else (FFmt.mk 4 3).dec c
  | .e5m2 => (FFmt.mk 5 2).dec c
  | .int8 => if c < 128 then .fin false c 0 else .fin true (256 - c) 0
  | .e3m4 => if c / 16 % 8 = 7 then .fin (decide (128 ≤ c)) (16 + c % 16) 0 else (FFmt.mk 3 4).dec c

/-- The codes of positive and negative overflow of a preset (R65). -/
def presetOv : Preset → Nat × Nat
  | .e4m3 => (0x7F, 0xFF)
  | .e5m2 => (0x7C, 0xFC)
  | .int8 => (0x7F, 0x81)
  | .e3m4 => (0x7F, 0xFF)

/-- Entry c of a table: `ovp:1 ovn:1 tc:1 res:10 val:19` (R63). -/
def Table.entry (t : Table) (c : Nat) : Nat :=
  match t with
  | .preset p =>
    (if c = (presetOv p).1 then 2 ^ 31 else 0) + (if c = (presetOv p).2 then 2 ^ 30 else 0)
      + (if c = 0 ∧ p = .int8 then 2 ^ 29 else 0) + e8m10.rne (presetVal p c)
  | .image v => (v.getD c 0).toNat

/-- The E8M10 bits of code c. -/
def Table.code (t : Table) (c : Nat) : Nat := t.entry c % 2 ^ 19

/-- The value of code c. -/
def Table.val (t : Table) (c : Nat) : FVal := e8m10.dec (t.code c)

/-- Two's-complement codes (R63). -/
def Table.tc (t : Table) : Bool := t.entry 0 / 2 ^ 29 % 2 == 1

/-- The first code in a range that satisfies a test. -/
def firstCode (p : Nat → Bool) : Nat → Nat → Option Nat
  | 0, _ => none
  | n + 1, c => if p c then some c else firstCode p n (c + 1)

def Table.ovp (t : Table) : Nat := (firstCode (fun c => t.entry c / 2 ^ 31 == 1) 256 0).getD 0
def Table.ovn (t : Table) : Nat := (firstCode (fun c => t.entry c / 2 ^ 30 % 2 == 1) 256 0).getD 0

/-- The NaN code (R64). -/
def Table.nan (t : Table) : Nat := (firstCode (fun c => e8m10.isNan (t.code c)) 256 0).getD 0

/-- The pattern is finite. -/
def e8m10Finite (v : Nat) : Bool := decide (v % e8m10.signBit < e8m10.infBits)

/-- Going up from code c, how far the values stay finite and strictly rise. −0 and +0 are equal. -/
def topFrom (t : Table) : Nat → Nat → Nat
  | 0, c => c
  | n + 1, c =>
    if e8m10Finite (t.code (c + 1)) && e8m10.rel .lt (t.code c) (t.code (c + 1)) then topFrom t n (c + 1) else c

/-- The top (R64). -/
def Table.top (t : Table) : Nat := topFrom t 127 0

/-- The code of a magnitude code with a sign (R66). -/
def Table.signed (t : Table) (neg : Bool) (p : Nat) : Nat :=
  if neg then (if t.tc then (256 - p) % 256 else p + 0x80) else p

/-- The validity of a table image (R64). -/
def Table.valid (t : Table) : Bool :=
  let cs := List.range 256
  cs.all (fun c => t.entry c / 2 ^ 19 % 2 ^ 10 == 0 && (c == 0 || t.entry c / 2 ^ 29 % 2 == 0))
    && (cs.filter (fun c => t.entry c / 2 ^ 31 == 1)).length == 1
    && (cs.filter (fun c => t.entry c / 2 ^ 30 % 2 == 1)).length == 1
    && t.code 0 == 0 && decide (1 ≤ t.top)
    && (List.range (t.top + 1)).all (fun k => e8m10.rel .eq (t.code (t.signed true k % 256)) (e8m10.negB (t.code k)))

/-- Whether `a ≤ b` for magnitudes of finite values. -/
def magLe (am : Nat) (ae : Int) (bm : Nat) (be : Int) : Bool :=
  let l := min ae be
  decide (am * 2 ^ (ae - l).toNat ≤ bm * 2 ^ (be - l).toNat)

/-- The mantissa of code k at the exponent of the least E8M10 quantum, so that values of a table compare as integers. -/
def Table.int (t : Table) (k : Nat) : Nat :=
  match t.val k with
  | .fin _ m e => m * 2 ^ (e - e8m10.low).toNat
  | _ => 0

/-- The largest code at most `k` whose value is at most a (R66); values are rising up to the top. -/
def largestLe (t : Table) (am : Nat) (ae : Int) : Nat → Nat
  | 0 => 0
  | k + 1 => if magLe (t.int (k + 1)) e8m10.low am ae then k + 1 else largestLe t am ae k

/-- The choice between neighbours k and k + 1 at distances `lo` and `hi` (R66). -/
def chooseCode (r : Rnd) (neg : Bool) (k lo hi : Nat) : Nat :=
  match r with
  | .rtz => k
  | .rup => if neg then k else k + 1
  | .rdn => if neg then k + 1 else k
  | .rna => if lo < hi then k else k + 1
  | .rne => if lo < hi then k else if hi < lo then k + 1 else if k % 2 = 0 then k else k + 1

/-- The magnitude code of a finite value, `top + 1` for the virtual code above the top (R66). Everything is scaled to the
lesser of the value's exponent and the table's. A distance to a neighbour below zero counts as zero: a value beyond the
virtual code rounds to it. -/
def Table.magCode (t : Table) (r : Rnd) (neg : Bool) (m : Nat) (e : Int) : Nat :=
  let k := largestLe t m e t.top
  let l := min e e8m10.low
  let a := m * 2 ^ (e - l).toNat
  let sc := 2 ^ (e8m10.low - l).toNat
  let lo := t.int k * sc
  let hi := if k < t.top then t.int (k + 1) * sc else (2 * t.int t.top - t.int (t.top - 1)) * sc
  if a = lo then k else chooseCode r neg k (a - lo) (hi - a)

/-- The encoding of R66. -/
def Table.encode (t : Table) (r : Rnd) (ovf : Bool) : FVal → Nat
  | .nan => t.nan
  | .inf neg => if ovf then (if neg then t.ovn else t.ovp) else t.signed neg t.top
  | .fin neg m e =>
    let p := t.magCode r neg m e
    if p = t.top + 1 then (if ovf then (if neg then t.ovn else t.ovp) else t.signed neg t.top)
    else t.signed neg p

/-! Formats of registers and lanes. -/

/-- The width of a format in bits (R40, R55). -/
def fmtWidth : Fmt → Nat
  | .f64 | .i64 | .n64 => 64
  | .f32 | .i32 | .n32 => 32
  | .bf16 | .f16 | .i16 | .n16 => 16
  | .code8 | .mx | .i8 | .n8 => 8

/-- The float format of a data format. -/
def fmtFloat : Fmt → Option FFmt
  | .f64 => some b64
  | .f32 => some b32
  | .bf16 => some bf16
  | .f16 => some f16
  | _ => none

/-- A signed integer format. -/
def fmtSigned : Fmt → Bool
  | .i8 | .i16 | .i32 | .i64 => true
  | _ => false

/-- A number of `w` bits read as two's complement. -/
def toSigned (w v : Nat) : Int := if v < 2 ^ (w - 1) then v else (v : Int) - (2 ^ w : Nat)

/-- The value of the low bits of a source (R92). -/
def fmtValue (t : Table) (f : Fmt) (v : Nat) : FVal :=
  let x := v % 2 ^ (fmtWidth f)
  match fmtFloat f with
  | some g => g.dec x
  | none =>
    if f == .code8 || f == .mx then t.val x
    else if fmtSigned f then .ofInt (toSigned (fmtWidth f) x) 0 false
    else .fin false x 0

/-- A finite value rounded to an integer. -/
def roundInt (r : Rnd) (neg : Bool) (m : Nat) (e : Int) : Int :=
  signedNat neg (if 0 ≤ e then m * 2 ^ e.toNat else roundShift r neg m (-e).toNat)

/-- The encoding to an integer format (R61), as bits of its width. -/
def fmtEncInt (f : Fmt) (r : Rnd) (ovf : Bool) (v : FVal) : Nat :=
  let w := fmtWidth f
  let lo : Int := if fmtSigned f then -(2 ^ (w - 1) : Nat) else 0
  let hi : Int := if fmtSigned f then (2 ^ (w - 1) : Nat) - 1 else (2 ^ w : Nat) - 1
  let past : Int := if fmtSigned f then lo else hi
  let i : Int :=
    match v with
    | .nan => if ovf then past else 0
    | .inf neg => if ovf then past else if neg then lo else hi
    | .fin neg m e =>
      let x := roundInt r neg m e
      if x < lo then (if ovf then past else lo) else if hi < x then (if ovf then past else hi) else x
  (i % (2 ^ w : Nat)).toNat

/-- The conversion of R61, as bits of the destination's width. -/
def convert (t : Table) (dst src : Fmt) (ovf : Bool) (r : Rnd) (v : Nat) : Nat :=
  match fmtFloat dst with
  | some g => g.enc r (!ovf) (fmtValue t src v)
  | none => if dst == .code8 then t.encode r ovf (fmtValue t src v) else fmtEncInt dst r ovf (fmtValue t src v)

/-- Bits of a format in a scalar register (R92): signed integers sign-extended, all else zero-extended. -/
def fmtWord (f : Fmt) (v : Nat) : Word :=
  if fmtSigned f then BitVec.ofInt 64 (toSigned (fmtWidth f) v) else wd v

/-- Bits of a format in a lane (R78). -/
def fmtLane (f : Fmt) (v : Nat) : Lane :=
  if fmtSigned f then BitVec.ofInt 32 (toSigned (fmtWidth f) v) else BitVec.ofNat 32 v

/-! MX blocks (R67, R68, R100 to R102). -/

/-- The exponent of the leading bit of a finite value that is not zero. -/
def FVal.expo : FVal → Int
  | .fin _ m e => (Nat.log2 m : Int) + e
  | _ => 0

/-- The pattern of the largest magnitude of f32 values, none of them a NaN; magnitudes of patterns order as values. -/
def maxMag (xs : List Nat) : Nat := xs.foldl (fun a x => max a (x % b32.signBit)) 0

/-- The scale and codes of a block of f32 patterns (R68). -/
def quantise (t : Table) (ovf : Bool) (r : Rnd) (xs : List Nat) : Nat × List Nat :=
  if xs.any b32.isNan || maxMag xs == b32.infBits then (0xFF, xs.map (fun _ => t.nan))
  else if maxMag xs = 0 then (0, xs.map (fun _ => t.encode r ovf (.fin false 0 0)))
  else
    let e := (max 0 (min 254 ((b32.dec (maxMag xs)).expo - (t.val t.top).expo + 127))).toNat
    (e, xs.map (fun x => t.encode r ovf ((b32.dec x).scale (127 - (e : Int)))))

/-- Four codes as a lane, code 4i in bits 7:0 (R100). -/
def codeLane (cs : List Nat) (i : Nat) : Lane :=
  BitVec.ofNat 32 (cs.getD (4 * i) 0 + 256 * cs.getD (4 * i + 1) 0 + 65536 * cs.getD (4 * i + 2) 0
    + 16777216 * cs.getD (4 * i + 3) 0)

/-- The register image of a block (R100). -/
def blockImage (scale : Nat) (cs : List Nat) : List Lane :=
  (List.range 8).map (codeLane cs) ++ [BitVec.ofNat 32 scale] ++ List.replicate 7 0

/-- Code i of an image (R100). -/
def imageCode (v : List Lane) (i : Nat) : Nat := bits (lane v (i / 4)).toNat (8 * (i % 4) + 7) (8 * (i % 4))

/-- Element i of an image expanded to f32 (R67, R102). -/
def expand (t : Table) (r : Rnd) (v : List Lane) (i : Nat) : Lane :=
  let scale := (lane v 8).toNat % 256
  if scale = 255 then BitVec.ofNat 32 b32.nanBits
  else BitVec.ofNat 32 (b32.enc r false ((t.val (imageCode v i)).scale ((scale : Int) - 127)))

end Sys2Proof.Machine
end

