-- ==== Sys2Proof/Machine/Link.lean ====
section
/-!
DEFINITION. Combining reductions (R332 to R338), loops and links (R328 to R331, R341), and the host port (R127, R339, R340).
-/
namespace Sys2Proof.Machine

/-! The reduction word and the merged values. -/

/-- The type of a CMBMAX (R333). -/
def vtyFmt : VTy → Fmt
  | .f32 => .f32 | .i32 => .i32 | .n32 => .n32

/-- BADARG: a reserved field of the reduction word is set, or `cnt` is zero (R334). -/
def badReduction (a : Word) : Bool := wbits a 63 61 != 0 || wbits a 31 16 != 0 || wbits a 47 32 == 0

/-- A `val` as a number in the order of its type (R335): for f32, −0 below +0 and every NaN below every number. -/
def maxOrder (t : Fmt) (v : Nat) : Int :=
  match t with
  | .f32 => if b32.isNan v then -(2 ^ 33 : Nat) else b32.order v
  | .i32 => toSigned 32 v
  | _ => v

/-- The winner of two pairs (R335). -/
def maxMerge (t : Fmt) (a b : Word) : Word :=
  let oa := maxOrder t (wbits a 63 32)
  let ob := maxOrder t (wbits b 63 32)
  if oa < ob then b else if ob < oa then a
  else if wbits b 31 0 < wbits a 31 0 then b else a

/-- The sum of two values (R335, R73): f32 to nearest even, the integers wrap. -/
def sumMerge (t : Fmt) (a b : Word) : Word :=
  match t with
  | .f32 => wd (b32.addB (wbits a 31 0) (wbits b 31 0))
  | _ => a + b

/-- The merged value of two contributions of one kind and type (R335). -/
def mergeValue (max : Bool) (t : Fmt) (a b : Word) : Word := if max then maxMerge t a b else sumMerge t a b

/-- Two packets, or a packet and an entry, carry the same kind, type and count (R335, R336). -/
def Contribution.like (p q : Contribution) : Bool := p.max == q.max && p.ty == q.ty && p.cnt == q.cnt

/-- Two packets that a station may merge (R335). -/
def Contribution.merges (p q : Contribution) : Bool :=
  p.id != q.id && p.owner == q.owner && p.ctx == q.ctx && p.tag == q.tag && p.like q

/-- COMBINE_MERGE (R335): a station merges two packets that wait in it. -/
def combineMerge (i j : Nat) (s : State) : State :=
  match s.cores.find? (fun c => c.2.packets.any (·.id == i) && c.2.packets.any (·.id == j)) with
  | some (c, k) =>
    match k.packets.find? (·.id == i), k.packets.find? (·.id == j) with
    | some p, some q =>
      if p.merges q then
        s.modCore c (fun k => { k with packets := (k.packets.filter (·.id != j)).map (fun r =>
          if r.id = i then { p with n := p.n + q.n, value := mergeValue p.max p.ty p.value q.value, from_ := p.from_ ++ q.from_ } else r) })
      else s
    | _, _ => s
  | none => s

/-- COMBINE_MERGE (R335). DESIGN CHOICE (log 26, unsafe). -/
def execCombineMerge (i j : Nat) (s : State) : Host.Outcome State Fault Refusal := event true (combineMerge i j) s

/-! The combining table of a core (R336). -/

/-- An entry is complete when `n` reaches the count of its first packet. -/
def Contribution.complete (e : Contribution) : Bool := decide (e.cnt ≤ e.n)

/-- A packet joins its entry or takes a free one; a packet of a complete tag, or one that finds the table full, waits. -/
def joinTable (k : Core) (p : Contribution) : Option Core :=
  match k.table.find? (·.tag == p.tag) with
  | some e =>
    if e.complete then none
    else
      let e' := if e.like p then { e with n := e.n + p.n, value := mergeValue e.max e.ty e.value p.value }
        else { e with n := e.n + p.n, mixed := true }
      some { k with table := k.table.map (fun q => if q.tag = p.tag then e' else q) }
  | none => if k.table.length < 8 then some { k with table := k.table ++ [{ p with from_ := [] }] } else none

/-- The owner refuses a contribution of a context that holds no launch on it (R334). -/
def ownerRefuses (s : State) (c x : Nat) : Bool := (s.core c).absent || s.holder c != some x

/-- The acknowledgement of each contribution of a packet, or its refusal (R109, R334, R335). -/
def acknowledgeAll (s : State) (p : Contribution) (failedAt : Option Word) : State :=
  p.from_.foldl (fun t f => acknowledge t f.1 f.2.1 f.2.2.1 (failedAt.map (fun va => (f.2.2.2, va)))) s

/-- COMBINE_ARRIVE (R336): a waiting packet, the oldest of its tag, joins the table of the owner's station, or is refused. -/
def combineArrive (id : Nat) (s : State) : State :=
  match s.cores.find? (fun c => c.2.packets.any (·.id == id)) with
  | some (c, k) =>
    match k.packets.find? (·.id == id) with
    | some p =>
      if (k.packets.find? (·.tag == p.tag)).any (·.id == id) then
        let rest := k.packets.filter (·.id != id)
        if ownerRefuses s c p.ctx then acknowledgeAll (s.setCore c { k with packets := rest }) p (some (fabBase c))
        else
          match joinTable { k with packets := rest } p with
          | some k' => acknowledgeAll (s.setCore c { k' with gated := false }) p none
          | none => s
      else s
    | none => s
  | none => s

/-! The combining instructions. -/

/-- A contribution (R334): a release, counted in `unack` until the owner's station accepts it; one to the issuer's own core is
accepted before the bundle retires, one to another core stays behind the core's fabric accesses on the same path (R331). -/
def contribute (max : Bool) (t : Fmt) (d : Nat) (a b : State → Word) : Act := fun s =>
  if badReduction (a s) then .ok (wx s d (statusWord 1))
  else
    match drained s with
    | .error e => .error e
    | .ok s =>
      let c := wbits (a s) 60 48
      let q := s.tick
      let p : Contribution :=
        { id := q.1, ctx := s.myCtx, owner := c, tag := wbits (a s) 15 0, max := max, ty := t, cnt := wbits (a s) 47 32, n := 1, value := b s, mixed := false, from_ := [] }
      if c = s.iss.core then
        (if ownerRefuses s c s.myCtx then .ok (wx (failHere s (fabBase c)) d 0)
        else if s.here.packets.any (·.tag == p.tag) then .error (.wait (.retry .unbounded) s)
        else
          match joinTable s.here p with
          | some k => .ok (wx (q.2.setCore c k) d 0)
          | none => .error (.wait (.retry .unbounded) s))
      else if decide (65535 ≤ s.cur.unack) || pathBusy s s.iss.core c then .error (.wait (.retry .unbounded) s)
      else
        .ok (wx ((q.2.modCore c (fun k => { k with
            packets := k.packets ++ [{ p with from_ := [(s.iss.core, s.iss.slot, s.cur.uid, q.1)] }] }))
          |> countStore) d 0)

/-- CMBMAX (R334). -/
def execCmbmax (t : VTy) (d : Nat) (a b : Src) (s : State) : Host.Outcome State Fault Refusal :=
  guard (.cmbmax t d a b) (contribute true (vtyFmt t) d (fun s => rx s a.r) (fun s => rx s b.r)) s

/-- CMBSUM (R334): of an f32 payload only bits 31:0 are the value (R332). -/
def execCmbsum (t : Fmt) (d : Nat) (a b : Src) (s : State) : Host.Outcome State Fault Refusal :=
  guard (.cmbsum t d a b) (contribute false t d (fun s => rx s a.r)
    (fun s => if t = .f32 then rx s b.r &&& 0xFFFFFFFF else rx s b.r)) s

/-- The status of CMBRECV: `n:32 res:28 st:4` (R337). -/
def recvStatus (n st : Nat) : Word := wd (n % 2 ^ 32 * 2 ^ 32 + st)

/-- The two results of CMBRECV. -/
def recvResult (s : State) (d st : Nat) (v w : Word) : State := wx (wx s d v) st w

/-- CMBRECV (R337): the result of a complete entry is taken and the entry freed, an acquire at package scope of every
contribution that it counted (R338). -/
def execCmbrecv (d st : Nat) (a : Src) (s : State) : Host.Outcome State Fault Refusal :=
  guard (.cmbrecv d st a) (fun s =>
    let v := rx s a.r
    if wbits v 63 16 ≠ 0 then .ok (recvResult s d st 0 (recvStatus 0 3))
    else
      match s.here.table.find? (fun e => e.tag == v.toNat) with
      | some e =>
        if e.complete then
          let t := s.modHere (fun k => { k with table := k.table.filter (fun q => q.tag != e.tag) })
          .ok (if e.mixed then recvResult t d st 0 (recvStatus e.n 2) else recvResult t d st e.value (recvStatus e.n 0))
        else if s.cur.expired then .ok (recvResult s d st 0 (recvStatus e.n 1))
        else .error (.wait (.retry (.returns 2)) s)
      | none =>
        if s.cur.expired then .ok (recvResult s d st 0 (recvStatus 0 1))
        else .error (.wait (.retry (.returns 2)) s)) s

/-! Loops and links. -/

/-- LOOP_BYPASS (R331): the loop's twin takes its place; nothing is lost or reordered, and the bypass is reported in telemetry. -/
def loopBypass (die loop : Nat) (s : State) : State :=
  telemetry 4 <| s.modManage (fun m => { m with twins := if m.twins.contains (die, loop) then m.twins else m.twins ++ [(die, loop)] })

/-- LOOP_BYPASS (R331). -/
def execLoopBypass (die loop : Nat) (s : State) : Host.Outcome State Fault Refusal :=
  event (decide (die < 8) && decide (loop < 136)) (loopBypass die loop) s

/-- CXL_LINK_TRAINING (R339): a link that ends training in 256-byte flits serves its protocols; one in the 68-byte mode enables
none and is reported unusable. -/
def execCxlLinkTraining (flit256 : Bool) (s : State) : Host.Outcome State Fault Refusal :=
  event true (fun s => telemetry 5 <| s.modManage (fun m => { m with cxlTrained := true, cxlUsable := flit256 })) s

/-- PACKAGE_LINK_TRAINING (R341). -/
def execPackageLinkTraining (port : Nat) (s : State) : Host.Outcome State Fault Refusal :=
  event (decide (port < 4)) (fun s => telemetry 5 <| s.modManage (fun m => { m with ports := insN m.ports port })) s

/-! The host port. -/

/-- A part of a host access finds its line held at the home for a registration (R195). -/
def hostHeld (s : State) (tier : Nat) (ps : List (Nat × Nat)) : Bool :=
  ps.any (fun p => match hostPlace s tier p.1 with
    | some h => rangeHeld s h.1 h.2.1 p.2
    | none => false)

/-- A host write, line by line. -/
def hostMemWrite (tier : Nat) : List (Nat × Nat) → List Byte → State → State
  | [], _, s => s
  | (pa, n) :: t, bs, s => hostMemWrite tier t (bs.drop n) (hostWritePart s tier pa (bs.take n))

/-- HOST_MEM_WRITE (R127, R339, R340). A port that serves no protocol carries no access. DESIGN CHOICE (log 51, unsafe). -/
def execHostMemWrite (tier pa : Nat) (data : List Byte) (s : State) : Host.Outcome State Fault Refusal :=
  event true (fun s =>
    if s.manage.cxlUsable && !hostHeld s tier (parts 128 pa data.length) then hostMemWrite tier (parts 128 pa data.length) data s else s) s

/-- A byte of the memory BAR (R339, R352): record t stands at 0x1000·t; what lies beside the records is not given.
DESIGN CHOICE (log 51, unsafe). -/
def barByte (s : State) (pa : Nat) : Byte :=
  let bs := ((s.manage.record (pa / 4096)).2.flatMap (fun w => toBytes 8 w.toNat))
  if 1 ≤ pa / 4096 ∧ pa / 4096 ≤ 7 then bs.getD (pa % 4096) (Config.holeByte s.env.fresh) else Config.holeByte s.env.fresh

/-- A byte that the host reads, with its poison mark (R187, R199, R339); tier 3 stands for the memory BAR. -/
def hostByte (s : State) (tier pa : Nat) : Byte × Bool :=
  if tier ≤ 1 ∧ physOk tier pa 1 = true then
    match hostPlace s tier pa with
    | some (x, va, p) => if deadPage s x va then (0, false) else (s.byte p.key, s.isPoison p.key)
    | none => (s.byte (memKey tier pa), s.isPoison (memKey tier pa))
  else if tier = 2 ∧ physOk 2 pa 1 = true then (s.byte (memKey 2 pa), s.isPoison (memKey 2 pa))
  else if tier = 3 then (barByte s pa, false)
  else (Config.holeByte s.env.fresh, true)

/-- HOST_MEM_READ (R340): the bytes go to the host, which then holds copies of their lines (R127); a trace records the requests (R217). -/
def hostMemRead (tier pa len : Nat) (s : State) : State :=
  let out := (List.range len).foldl (fun (a : State × List (Byte × Bool)) i =>
    (a.1.tick.2, a.2 ++ [hostByte a.1 tier (pa + i)])) (s, [])
  let copies := (parts 128 pa len).filter (fun p => decide (tier ≤ 1) && physOk tier p.1 p.2)
  let read := copies.foldl (fun t p => match hostPlace t tier p.1 with
    | some h => traceReads t 8192 h.1 (wd h.2.1) p.2
    | none => t) out.1
  { read.modManage (fun m => { m with hostRead := out.2 }) with
    hostCopies := copies.foldl (fun l p => insN l (memKey tier p.1 / 128)) out.1.hostCopies }

/-- HOST_MEM_READ (R339, R340). DESIGN CHOICE (log 51, unsafe). -/
def execHostMemRead (tier pa len : Nat) (s : State) : Host.Outcome State Fault Refusal :=
  event true (fun s =>
    if s.manage.cxlUsable && !hostHeld s tier (parts 128 pa len) then hostMemRead tier pa len s else s) s

/-- HOST_SNOOP (R339): the home slice answers with the line as it stands and gives up its copy of a tier 2 line. A port that serves no
protocol carries no snoop. DESIGN CHOICE (log 51, unsafe). -/
def execHostSnoop (pa : Nat) (s : State) : Host.Outcome State Fault Refusal :=
  event true (fun s => if s.manage.cxlUsable then { s with hostLines := delN s.hostLines (memKey 2 pa / 128) } else s) s

end Sys2Proof.Machine
end

