-- ==== Sys2Proof/Machine/Queue.lean ====
section
/-!
DEFINITION. Host queues (R170 to R178, R360): the tail line, taking and starting entries, launch, seal, fence and signal entries.
-/
namespace Sys2Proof.Machine

def Ctx.queue (k : Ctx) (q : Nat) : Queue := lookD k.queues q {}
def Ctx.setQueue (k : Ctx) (q : Nat) (u : Queue) : Ctx := { k with queues := put k.queues q u }

/-- Set a queue of a context, and write its completion record (R172). -/
def setQueue (s : State) (x q : Nat) (u : Queue) : State := writeRecord (s.modCtx x (·.setQueue q u)) (q == 0) u

/-- The number that stands for the administration queue where an event names a context: contexts are 0 to 4,095.
DESIGN CHOICE (log 42, unsafe). -/
def adminCtx : Nat := 4096

/-! The tail line (R171). -/

/-- The queue takes no further entry until it is reset (R171). -/
def Queue.stopped (u : Queue) : Bool := u.overrun || u.badtail

/-- What a tail that the command core sees does to a queue (R171). -/
def Queue.seeTail (u : Queue) (tail : Nat) : Queue :=
  if u.stopped then u
  else if u.retired + 2 ^ u.lg < tail then { u with overrun := true }
  else if tail < u.tail then { u with badtail := true }
  else { u with tail := tail }

/-- The host stores a tail into the line of a queue, a store at system scope (R127). -/
def storeTail (s : State) (u : Queue) (tail : Nat) : State := deviceWrite s u.lineTier u.tailLine (toBytes 8 tail)

/-- A registration of the tail line of a queue waits for acknowledgements (R195). -/
def tailHeld (s : State) (u : Queue) : Bool := hostHeld s u.lineTier [(u.tailLine, 8)]

/-- The store snoops the copy of a command core (R21, R140). -/
def snoop (s : State) (c : Nat) : State := s.modCore c (fun k => { k with snooped := true, gated := false })

/-- The tier and the address there of an address that the host gives (R170, R339): below 2^48 host memory; the spec does not give where the
host's map has decoders 0 and 1, which the model puts at 2^48 and 2^49. DESIGN CHOICE (log 69, unsafe). -/
def hostAddr (a : Nat) : Nat × Nat :=
  if a < 2 ^ 48 then (2, a) else if a < 2 ^ 49 then (0, a - 2 ^ 48) else (1, a - 2 ^ 49)

/-- TAIL_LINE_SNOOP (R171): the host stores a tail, and the store snoops the command core's copy of the line. A line that is held waits
(R195). -/
def tailSnoop (x q tail : Nat) (s : State) : State :=
  if x = adminCtx then
    let u := s.manage.adminQueue
    let v := u.seeTail tail
    if tailHeld s u then s
    else
    let s := (snoop (storeTail s u tail) (commandCore 0)).modManage (fun m => { m with adminQueue := v })
    if v.stopped = u.stopped then s else writeRecord s false v
  else
    match look (s.ctx x).queues q with
    | none => s
    | some u =>
      let v := u.seeTail tail
      if tailHeld s u then s
      else
      let s := snoop (storeTail s u tail) (commandCore x)
      if v.stopped = u.stopped then s.modCtx x (·.setQueue q v) else setQueue s x q v

/-- TAIL_LINE_SNOOP (R171). A port that serves no protocol carries no snoop (R339). DESIGN CHOICE (log 51, unsafe). -/
def execTailLineSnoop (ctx q tail : Nat) (s : State) : Host.Outcome State Fault Refusal :=
  event true (fun s => if s.manage.cxlUsable then tailSnoop ctx q tail s else s) s

/-- QUEUE_RESET_REQUEST (R171): an administration request lets a stopped queue go on. The tail line is not read again: the command core
goes on from the last tail it took, until the host stores the next one. DESIGN CHOICE (log 43, unsafe). -/
def execQueueResetRequest (ctx q : Nat) (s : State) : Host.Outcome State Fault Refusal :=
  event true (fun s =>
    if ctx = adminCtx then
      let v := { s.manage.adminQueue with overrun := false, badtail := false }
      writeRecord (s.modManage (fun m => { m with adminQueue := v })) false v
    else
      match look (s.ctx ctx).queues q with
      | none => s
      | some u => setQueue s ctx q { u with overrun := false, badtail := false }) s

/-! Entries (R174, R175). -/

def eKind (ws : List Word) : Nat := wbits (ws.getD 0 0) 63 60
def ePri (ws : List Word) : Nat := wbits (ws.getD 0 0) 59 57
def eLast (ws : List Word) : Bool := (ws.getD 0 0).getLsbD 56
def ePhase (ws : List Word) : Nat := wbits (ws.getD 0 0) 47 32

/-- The phase that an entry names, if any. -/
def phaseNamed (ws : List Word) : Option Nat := if ePhase ws = 0 then none else some (ePhase ws)

/-- The valid dependences of an entry: queue and entry (R174). -/
def depsOf (ws : List Word) : List (Nat × Nat) :=
  ([ws.getD 3 0, ws.getD 4 0].filter (·.getLsbD 63)).map (fun w => (wbits w 55 48, wbits w 47 0))

/-- A phase takes entries: it has not closed, and none has been named so far or its intake is open. -/
def intakeOpen (k : Ctx) (p : Nat) : Bool :=
  !k.closedPhases.contains p && (match look k.phases p with | some r => r.st.live && r.intake | none => true)

/-- A reserved field of any entry is not zero (R174), that of its status word among them. -/
def reservedSet (ws : List Word) : Bool :=
  let w := fun i => ws.getD i 0
  wbits (w 0) 55 48 + wbits (w 0) 31 12 + wbits (w 3) 62 56 + wbits (w 4) 62 56 + wbits (w 5) 63 12 + wbits (w 7) 62 48 != 0 || w 6 != 0

/-- BADENTRY (R175). DESIGN CHOICE (log 43, unsafe). -/
def badEntry (k : Ctx) (x : Nat) (ws : List Word) : Bool :=
  let w := fun i => ws.getD i 0
  let kind := eKind ws
  reservedSet ws
    || decide (3 < kind) || wbits (w 0) 11 0 != x || (decide (kind ≤ 1) && ePhase ws == 0)
    || (match phaseNamed ws with | some p => !intakeOpen k p | none => eLast ws)
    || (kind == 3 && wbits (w 2) 2 0 != 0)

/-- A dependence leads back to an entry through entries taken and not complete (R175). -/
def leadsBack (k : Ctx) (target : Nat × Nat) : Nat → List (Nat × Nat) → Bool
  | 0, ds => ds.contains target
  | n + 1, ds =>
    ds.contains target
      || leadsBack k target n (ds.flatMap (fun d => ((k.queue d.1).entries.filter (·.seq == d.2)).flatMap (fun e => depsOf e.words)))

/-- BADDEP (R175). -/
def badDep (k : Ctx) (q seq : Nat) (ws : List Word) : Bool :=
  (depsOf ws).any (fun d => d.1 == q || (match look k.queues d.1 with | some u => decide (u.tail ≤ d.2) | none => true))
    || leadsBack k (q, seq) (k.queues.foldl (fun n u => n + u.2.entries.length) 0) (depsOf ws)

/-- A phase takes no further entries (R145, R175). -/
def closeIntake (k : Ctx) (p : Nat) : Ctx :=
  let k := match look k.phases p with
    | some r => { k with phases := put k.phases p { r with intake := false } }
    | none => { k with phases := put k.phases p { intake := false }, job := (k.job.1 + 1, k.job.2) }
  tryClosePhase k p

/-- An entry with last = 1 closes the intake of its phase. DESIGN CHOICE (log 43, unsafe). -/
def closeIfLast (s : State) (x : Nat) (ws : List Word) : State :=
  match phaseNamed ws with
  | some p => if eLast ws && intakeOpen (s.ctx x) p then s.modCtx x (closeIntake · p) else s
  | none => s

/-- An entry completes (R175). -/
def finishEntry (s : State) (x q seq : Nat) (ws : List Word) (code val : Nat) : State :=
  closeIfLast (completeEntry s x q seq code val) x ws

/-- The ring of a queue lies in host memory, which a link that enables no protocol does not reach (R339): its entries wait; the spec does not
say so. DESIGN CHOICE (log 51, unsafe). -/
def ringCut (s : State) (u : Queue) : Bool := !s.manage.cxlUsable && u.tier == 2

/-- A word of an entry is poisoned, so the entry is no data (R2): the spec names no code, and the model answers BADENTRY.
DESIGN CHOICE (log 43, unsafe). -/
def lostEntryWord (s : State) (u : Queue) (seq : Nat) : Bool := lostRow s (entryKey u seq) 64

/-- The words of an entry in its ring slot (R171). -/
def entryWords (s : State) (u : Queue) (seq : Nat) : List Word := (List.range 8).map (fun i => wd (s.num (entryKey u seq + 8 * i) 8))

/-- ENTRY_TAKE (R360): the command core reads the oldest entry not yet taken, once every earlier one has started, and checks it
(R175). An entry that a cancel has completed is passed. An entry that is both BADENTRY and BADDEP is reported as BADENTRY.
DESIGN CHOICE (log 43, unsafe). -/
def entryTake (x q : Nat) (s : State) : State :=
  match look (s.ctx x).queues q with
  | none => s
  | some u =>
    if u.stopped || ringCut s u || decide (u.tail ≤ u.taken) || u.entries.any (fun e => !e.started) then s
    else
      let seq := u.taken
      let ws := entryWords s u seq
      let lost := lostEntryWord s u seq
      let s := setQueue s x q { u with taken := seq + 1 }
      if (look u.codes seq).isSome then s
      else if lost || badEntry (s.ctx x) x ws then finishEntry s x q seq ws 10 0
      else if badDep (s.ctx x) q seq ws then finishEntry s x q seq ws 11 0
      else s.modCtx x (fun k => k.setQueue q { k.queue q with entries := (k.queue q).entries ++ [{ seq := seq, words := ws, pri := ePri ws }] })

/-! Choosing the next entry (R176, R177). -/

/-- The entry of a queue that is taken and not started (R360). -/
def headEntry (k : Ctx) (q : Nat) : Option Entry := (k.queue q).entries.find? (fun e => !e.started)

/-- The code with which a dependence has completed. -/
def depCode (k : Ctx) (d : Nat × Nat) : Option Nat := look (k.queue d.1).codes d.2

/-- The entry is eligible (R176, R177). -/
def mayStartEntry (k : Ctx) (q : Nat) (e : Entry) : Bool :=
  (k.st == .runnable || k.st == .running) && (depsOf e.words).all (fun d => depCode k d == some 0)
    && e.blocked.isNone && e.token.isNone
    && (eKind e.words != 2 || decide (e.seq ≤ (k.queue q).retired))
    && (eKind e.words != 1 || !wavesFull k)

/-- The eligible entries of a command core: 256 times the context and the queue, and the entry. -/
def eligibleOf (s : State) (cc : Nat) : List (Nat × Entry) :=
  s.ctxs.flatMap (fun p =>
    if p.1 % 4 = cc then
      p.2.queues.filterMap (fun u => (headEntry p.2 u.1).bind (fun e => if mayStartEntry p.2 u.1 e then some (256 * p.1 + u.1, e) else none))
    else [])

/-- The queue that a command core chooses: the highest priority, then the next after the one chosen last (R177). The spec does not say where
the round begins: before a command core has chosen any, the lowest queue of its lowest context comes first.
DESIGN CHOICE (log 43, unsafe). -/
def chosenQueue (s : State) (cc : Nat) : Option Nat :=
  let es := eligibleOf s cc
  let top := es.foldl (fun m e => max m e.2.pri) 0
  let best := (es.filter (fun e => e.2.pri == top)).map (·.1)
  match look s.manage.lastQueue cc with
  | none => best.head?
  | some l => match best.find? (fun n => decide (l < n)) with
    | some n => some n
    | none => best.head?

/-- An entry that was eligible and not chosen is one older (R177). DESIGN CHOICE (log 43, unsafe). -/
def Entry.aged (e : Entry) : Entry :=
  if e.age + 1 = 4096 then { e with age := 0, pri := min (ePri e.words + 1) 7 } else { e with age := e.age + 1 }

/-- The choice of a queue is made: the others age (R177). -/
def takeChoice (s : State) (cc n : Nat) : State :=
  let others := (eligibleOf s cc).filter (fun e => e.1 != n)
  let s := others.foldl (fun s e => s.modCtx (e.1 / 256) (fun k => k.setQueue (e.1 % 256) { k.queue (e.1 % 256) with
    entries := (k.queue (e.1 % 256)).entries.map (fun f => if f.seq = e.2.seq then f.aged else f) })) s
  s.modManage (fun m => { m with lastQueue := put m.lastQueue cc n })

/-- Change the entry of a queue. -/
def modEntry (s : State) (x q seq : Nat) (f : Entry → Entry) : State :=
  s.modCtx x (fun k => k.setQueue q { k.queue q with entries := (k.queue q).entries.map (fun e => if e.seq = seq then f e else e) })

/-- The start of an entry of a kind: one whose dependence has failed completes with DEPFAIL; else it starts when its command core
chooses it. OVERRUN and BADTAIL stop the reading of further entries (R171); the spec does not say whether an entry taken before them still
starts, and the model lets it start. DESIGN CHOICE (log 43, unsafe). -/
def startEntry (kind x q : Nat) (body : Entry → State → State) (s : State) : State :=
  let k := s.ctx x
  match headEntry k q with
  | none => s
  | some e =>
    if eKind e.words ≠ kind then s
    else if (depsOf e.words).any (fun d => match depCode k d with | some c => c != 0 | none => false) then
      finishEntry s x q e.seq e.words 9 0
    else if chosenQueue s (x % 4) = some (256 * x + q) then body e (takeChoice s (x % 4) (256 * x + q))
    else s

/-! The kinds of entries (R177). -/

/-- What a command core reads for a launch entry: a descriptor and its cores, none for BADDESC, or a page fault; or the read waits at the
home of a line (R195). -/
inductive EntryRead where
  | desc (d : Desc) (cores : List Nat)
  | bad
  | fault (va : Word) (f : PFault)
  | later
  deriving Repr, Inhabited

/-- A range read as unprivileged loads of the entry's context: the bytes, or none for an access on which LAUNCH would trap, a page that may not
be read among them (R177). A page for privileged threads alone is no case of R177's list; the model answers as for one that may not be read.
DESIGN CHOICE (log 43, unsafe). -/
def entryLoad (s : State) (x : Nat) (va : Word) (n align : Nat) : Except (Word × PFault) (Option (List Byte)) × State :=
  if va.getLsbD 63 || !aligned va align then (.ok none, s)
  else
    match locateRange s x false va n forLoad with
    | .error (a, .fault f) => (if f.kind = 1 then .ok none else .error (a, f), s)
    | .error _ => (.ok none, s)
    | .ok ps => (.ok (if (rangePoison s ps).isSome then none else some (rangeBytes s ps)), traceReads s (commandCore x) x va n)

/-- Read the descriptor of a launch entry (R177), with the state in which its requests have been traced (R217). -/
def entryDesc (s : State) (x : Nat) (va : Word) : EntryRead × State :=
  if rangeHeld s x va.toNat 64 then (.later, s)
  else
  match entryLoad s x va 64 64 with
  | (.error e, s) => (.fault e.1 e.2, s)
  | (.ok none, s) => (.bad, s)
  | (.ok (some bs), t) =>
    match parseDesc bs with
    | none => (.bad, t)
    | some d =>
      if d.list = 0 then (.desc d ((List.range d.count).map (d.first + ·)), t)
      else if rangeHeld s x d.list (2 * d.count) then (.later, s)
      else
        match entryLoad t x (wd d.list) (2 * d.count) 2 with
        | (.error e, t) => (.fault e.1 e.2, t)
        | (.ok none, t) => (.bad, t)
        | (.ok (some bs), t) => (match parseList bs d.count with | some cs => .desc d cs | none => .bad, t)

/-- A launch entry starts (R177). -/
def startLaunch (x q : Nat) (e : Entry) (s : State) : State :=
  let fail := fun (s : State) (code : Nat) => finishEntry s x q e.seq e.words code 0
  if e.fatal.isSome then fail s 1
  else if !(match phaseNamed e.words with | some p => intakeOpen (s.ctx x) p | none => true) then fail s 10
  else
    let r := entryDesc s x (e.words.getD 1 0)
    let s := r.2
    match r.1 with
    | .fault va f =>
      let r := raiseFault s x va.toNat 4 0 0 f (.entry x q)
      modEntry r.1 x q e.seq (fun e => { e with token := some r.2 })
    | .bad => fail s 1
    | .later => s
    | .desc d cores =>
      let st := launchStatus s x d cores
      if st = 0 then
        let s := modEntry s x q e.seq (fun e => { e with started := true })
        closeIfLast (createLaunch s x d cores (phaseNamed e.words) (ePri e.words) (e.words.getD 2 0) (some (q, e.seq))).2 x e.words
      else if st ≤ 2 then fail s st
      else modEntry s x q e.seq (fun e => { e with blocked := some (if st = 7 then [] else cores) })

/-- LAUNCH_ENTRY (R177). -/
def execLaunchEntry (ctx q : Nat) (s : State) : Host.Outcome State Fault Refusal := event true (startEntry 0 ctx q (startLaunch ctx q)) s

/-- A seal entry starts (R177, R282). -/
def startSeal (x q : Nat) (e : Entry) (s : State) : State :=
  let fail := fun (code : Nat) => finishEntry s x q e.seq e.words code 0
  if !(match phaseNamed e.words with | some p => intakeOpen (s.ctx x) p | none => true) then fail 10
  else
    match (s.ctx x).batches.find? (fun b => wd b.num == e.words.getD 1 0) with
    | none => fail 14
    | some b =>
      if exhausted (s.ctx x) then fail 15
      else
        let s := modEntry s x q e.seq (fun e => { e with started := true })
        closeIfLast (sealBatch s x b (phaseNamed e.words) (some (q, e.seq))).2 x e.words

/-- SEAL_ENTRY (R177). -/
def execSealEntry (ctx q : Nat) (s : State) : Host.Outcome State Fault Refusal := event true (startEntry 1 ctx q (startSeal ctx q)) s

/-- FENCE_ENTRY (R176): FENCE.system, and the entry is done. -/
def execFenceEntry (ctx q : Nat) (s : State) : Host.Outcome State Fault Refusal :=
  event true (startEntry 2 ctx q fun e s => finishEntry s ctx q e.seq e.words 0 0) s

/-- A signal entry writes its value at its host address, in host or device memory, unless the address is 0, and then raises its vector (R177).
DESIGN CHOICE (log 43, unsafe). -/
def startSignal (x q : Nat) (e : Entry) (s : State) : State :=
  let va := e.words.getD 2 0
  let h := hostAddr va.toNat
  let s := if va = 0 then s else deviceWrite s h.1 h.2 (toBytes 8 (e.words.getD 1 0).toNat)
  let s := if (e.words.getD 5 0).getLsbD 11 then raiseVector s (wbits (e.words.getD 5 0) 10 0) else s
  finishEntry s x q e.seq e.words 0 0

/-- A signal entry has nothing to write or raise over a link that enables no protocol: it waits, and the choice of its command core with it; the
spec does not say so. DESIGN CHOICE (log 51, unsafe). -/
def signalCut (s : State) (x q : Nat) : Bool :=
  !s.manage.cxlUsable && (match headEntry (s.ctx x) q with
    | some e => (e.words.getD 5 0).getLsbD 11 || (e.words.getD 2 0 != 0 && (hostAddr (e.words.getD 2 0).toNat).1 == 2)
    | none => false)

/-- SIGNAL_ENTRY (R177). -/
def execSignalEntry (ctx q : Nat) (s : State) : Host.Outcome State Fault Refusal :=
  event true (fun s => if signalCut s ctx q then s else startEntry 3 ctx q (startSignal ctx q) s) s

end Sys2Proof.Machine
end

