-- ==== Sys2Proof/Machine/Admin.lean ====
section
/-!
DEFINITION. Contexts on the administration queue (R128, R129, R347): create, suspend, resume, destroy, and a context that becomes free.
-/
namespace Sys2Proof.Machine

/-- An entry of the administration queue completes: its status word with done, and the completion record (R172, R175, R347). -/
def adminFinish (s : State) (seq kind code : Nat) : State :=
  let u := s.manage.adminQueue.complete seq code
  writeRecord ((writeStatus s u seq code 0).modManage (fun m => { m with admin := m.admin ++ [(kind, code)], adminQueue := u })) false u

/-- BADENTRY of an administration entry (R174): the kind is not one of its four, or a reserved field is set, `last` and `phase` among them. The
spec names no context of this queue; kinds 9 to 11 name theirs in the control word. DESIGN CHOICE (log 42, unsafe). -/
def adminBad (ws : List Word) : Bool :=
  reservedSet ws || eLast ws || ePhase ws != 0 || decide (eKind ws < 8) || decide (11 < eKind ws)

/-! CREATE (R347). -/

/-- A pager or monitor in a create record: window, core, slot, entry. -/
structure Agent where
  win : Nat
  core : Nat
  slot : Nat
  entry : Nat
  deriving DecidableEq, Repr, Inhabited

/-- `res:22 win:8 core:13 slot:6 entry:15`. -/
def parseAgent (w : Nat) : Option Agent :=
  let a : Agent := ⟨bits w 41 34, bits w 33 21, bits w 20 15, bits w 14 0⟩
  if bits w 63 42 = 0 ∧ 8 ≤ a.win ∧ a.win ≤ 128 ∧ a.slot < 62 ∧ a.entry % 8 = 0 then some a else none

/-- A create record. -/
structure Create where
  ctx : Nat
  k : Ctx
  pager : Agent
  monitor : Agent
  deriving DecidableEq, Repr, Inhabited

/-- The queues of a create record; none where a field is outside its limits. -/
def parseQueues (w : Nat → Nat) (nq : Nat) : Option (SMap Queue) :=
  (List.range nq).mapM (fun q =>
    let o := 16 + 4 * q
    if w o % 64 = 0 ∧ bits (w (o + 1)) 63 5 = 0 ∧ 4 ≤ bits (w (o + 1)) 4 0 ∧ bits (w (o + 1)) 4 0 ≤ 16 then
      some (q, { base := (hostAddr (w o)).2, tier := (hostAddr (w o)).1, lg := bits (w (o + 1)) 4 0
                 tailLine := (hostAddr (w (o + 2))).2, lineTier := (hostAddr (w (o + 2))).1
                 record := (hostAddr (w (o + 3))).2, recTier := (hostAddr (w (o + 3))).1 : Queue })
    else none)

/-- Read a create record at a host address: none for BADENTRY, a record with a poisoned word among them.
DESIGN CHOICE (log 42, unsafe). -/
def parseCreate (s : State) (va : Nat) : Option Create :=
  let w := fun i => s.num (memKey 2 (va + 8 * i)) 8
  let nq := bits (w 0) 20 12
  if lostRow s (memKey 2 va) (128 + 32 * nq) then none
  else
  match parseAgent (w 5), parseAgent (w 6), parseQueues w nq with
  | some p, some m, some qs =>
    let root := wd (w 1)
    if va % 128 = 0 ∧ bits (w 0) 63 21 = 0 ∧ 1 ≤ nq ∧ nq ≤ 256 ∧ eV root = true ∧ eLeaf root = false ∧ pointerOk root = true
      ∧ bits (w 2) 63 3 = 0 ∧ w 3 % 4096 = 0 ∧ bits (w 4) 63 15 = 0 ∧ w 4 % 8 = 0 ∧ w 7 % 4096 = 0 ∧ bits (w 8) 63 22 = 0
      ∧ (List.range 7).all (fun i => w (9 + i) == 0) = true then
      some { ctx := bits (w 0) 11 0, pager := p, monitor := m
             k := { st := .building, root := root, home := bits (w 2) 2 0, probes := w 3, trapvec := bits (w 4) 14 0
                    pager := (p.core, p.slot), pagerRec := w 5, monitor := (m.core, m.slot), monitorRec := w 6
                    image := w 7, quota := bits (w 8) 21 0, queues := qs } }
    else none
  | _, _, _ => none

/-- A core cannot take a pager or monitor: it serves another context, or the slot, the window or the segment is taken (R347). The pager and
the monitor may have their entries in one segment of one core, for both hold it from the same image.
DESIGN CHOICE (log 42, unsafe). -/
def agentTaken (s : State) (x : Nat) (a : Agent) : Bool :=
  let k := s.core a.core
  badCore s x a.core || (k.slot a.slot).phase != .free || (lowestBase (usedWindows k) a.win).isNone
    || (match (k.seg (a.entry / 4096)).holder with | some h => h != (x, 0) | none => false)

/-- The firmware creates a pager or monitor (R129, R130, R347): a privileged thread of no launch, whose segment it holds. -/
def createAgent (x : Nat) (s : State) (a : Agent) : State :=
  let s := beginHolding s a.core x
  let base := (lowestBase (usedWindows (s.core a.core)) a.win).getD 0
  let k := s.ctx x
  let s := s.modCore a.core (fun c => { fetchSegments c (2 ^ (a.entry / 4096)) k.image true (x, 0) with gated := false })
  newThread s a.core a.slot { pc := wd a.entry, st := Status.created true, trapvec := wd k.trapvec, ctx := x
                              wbase := base, wlim := base + a.win }

/-- The agents of a record: the pager, and the monitor unless one thread serves as both (R129). -/
def Create.agents (r : Create) : List Agent :=
  if r.pager.core = r.monitor.core ∧ r.pager.slot = r.monitor.slot then [r.pager] else [r.pager, r.monitor]

/-- Create the agents one after another; none when one finds no room. -/
def createAgents (x : Nat) : List Agent → State → Option State
  | [], s => some s
  | a :: t, s => if agentTaken s x a then none else createAgents x t (createAgent x s a)

/-- A create request (R128, R347): the record is read, and the firmware builds the context, which is `building` meanwhile; a refused
record leaves it free. The code of a refusal, or 0. DESIGN CHOICE (log 42, unsafe). -/
def createCtx (va : Nat) (s : State) : Nat × State :=
  match parseCreate s va with
  | none => (10, s)
  | some r =>
    if (s.ctx r.ctx).st ≠ .free then (12, s)
    else
      match createAgents r.ctx r.agents (s.setCtx r.ctx r.k) with
      | none => (12, s)
      | some t => (0, t)

/-! Suspend, resume, destroy (R128). -/

/-- A suspend request (R128): every resident thread is pre-empted. DESIGN CHOICE (log 42, unsafe). -/
def suspendCtx (x : Nat) (s : State) : Nat × State :=
  if (s.ctx x).st = .runnable ∨ (s.ctx x).st = .running then
    (0, (slotsOf s x).foldl (fun s p => stopSlot p.1 p.2 s) (s.modCtx x (fun k => { k with st := .suspended })))
  else (13, s)

/-- A thread that a suspension stopped goes on: its core wakes (R21), its withdrawn wait is entered afresh, and a pending WRITE trap is taken
(R142). -/
def restart (s : State) (c t : Nat) : State :=
  let l := s.slot c t
  if l.stopping then (s.modCore c (Core.notBefore t)).modSlot c t (fun l => { l with stopping := false })
  else if l.phase = .stopped then
    let s := (s.modCore c (fun k => { k.notBefore t with
      station := k.station ++ k.kept.filter (fun m => m.kind == .completion l.uid)
      kept := k.kept.filter (fun m => m.kind != .completion l.uid) })).modSlot c t (fun l =>
        { l with phase := .ready, pendingWrite := false })
    if l.pendingWrite then takeTrap s c t cWRITE 0 l.tval l.pc else s
  else s

/-- A resume request (R128): a suspended context, or a faulted one after repair, is runnable again.
DESIGN CHOICE (log 42, unsafe). -/
def resumeCtx (x : Nat) (s : State) : Nat × State :=
  if (s.ctx x).st = .suspended ∨ (s.ctx x).st = .faulted then
    (0, (slotsOf s x).foldl (fun s p => restart s p.1 p.2) (s.modCtx x (fun k => { k with st := .runnable })))
  else (13, s)

/-- A destroy request (R128): the context is dying, as by a CANCEL of its job; one that is dying already goes on so, and only a free one has no
such request. DESIGN CHOICE (log 42, unsafe). -/
def destroyCtx (x : Nat) (s : State) : Nat × State :=
  match (s.ctx x).st with
  | .free => (13, s)
  | .dying => (0, s)
  | _ => (0, cancelJob none s x)

/-! The administration queue (R170 to R175, R347). -/

/-- What an entry of the administration queue asks for: its code, and the state. -/
def adminRun (ws : List Word) (s : State) : Nat × State :=
  let x := wbits (ws.getD 0 0) 11 0
  match eKind ws with
  | 8 => createCtx (ws.getD 1 0).toNat s
  | 9 => suspendCtx x s
  | 10 => resumeCtx x s
  | _ => destroyCtx x s

/-- The command cores stand between two entries: a pending firmware takes effect (R355). DESIGN CHOICE (log 45, unsafe). -/
def activateCommand (s : State) : State :=
  if s.manage.command.pending then telemetry 6 (s.modManage (fun m => { m with command := m.command.activate 2 })) else s

/-- A context that is being built is complete: it is runnable, and its create entry is done (R128, R347). -/
def finishBuild (s : State) : State :=
  match s.manage.adminQueue.entries, s.ctxs.find? (fun p => p.2.st == .building) with
  | e :: _, some p => activateCommand (adminFinish (s.modCtx p.1 (fun k => { k with st := .runnable })) e.seq 8 0)
  | _, _ => s

/-- The command core takes the next entry of the administration queue (R360): it is checked (R175) and performed, and completes; a context
that it begins to build stays `building` until the next step, or no longer than this one while accesses are prompt. An entry of this queue
with a valid dependence, whatever queue it names, completes with BADDEP, for the spec says of no queue that such an entry may name it.
DESIGN CHOICE (log 42, unsafe; log 51, unsafe). -/
def adminTake (s : State) : State :=
  let u := s.manage.adminQueue
  let seq := u.taken
  let ws := entryWords s u seq
  let lost := lostEntryWord s u seq
  if u.stopped || decide (u.tail ≤ u.taken) || !u.entries.isEmpty || ringCut s u || (!s.manage.cxlUsable && eKind ws == 8) then s
  else
    let s := s.modManage (fun m => { m with adminQueue := { u with taken := seq + 1 } })
    if lost || adminBad ws then adminFinish s seq (eKind ws) 10
    else if !(depsOf ws).isEmpty then adminFinish s seq (eKind ws) 11
    else
      let r := adminRun ws s
      if eKind ws = 8 ∧ r.1 = 0 then
        let t := writeRecord (r.2.modManage (fun m => { m with adminQueue := { m.adminQueue with entries := [{ seq := seq, words := ws, started := true }] } }))
          false { u with taken := seq + 1 }
        if s.env.prompt then finishBuild t else t
      else adminFinish r.2 seq (eKind ws) r.1

/-- The command core goes on with the administration queue: a build is completed, or the next entry is taken. -/
def adminStep (s : State) : State := if s.manage.adminQueue.entries.isEmpty then adminTake s else finishBuild s

/-- The host writes an entry of the administration queue and its tail, and the command core takes the entry; or the build that such an entry
began is completed. Where entries stand before it, it waits its turn: the event does not occur yet; nor while the port serves no protocol
(R339). -/
def adminRequest (kind x va : Nat) (s : State) : State :=
  let u := s.manage.adminQueue
  if !u.entries.isEmpty then (if kind = 8 then finishBuild s else s)
  else if !s.manage.cxlUsable || u.stopped || u.tail != u.taken || decide (u.retired + 2 ^ u.lg ≤ u.tail) || tailHeld s u
    || hostHeld s u.tier [(entryAddr u u.tail, 64)] then s
  else
    let s := deviceWrite s u.tier (entryAddr u u.tail) (toBytes 8 (kind * 2 ^ 60 + x) ++ toBytes 8 va ++ List.replicate 48 0)
    adminTake ((snoop (storeTail s u (u.tail + 1)) (commandCore 0)).modManage (fun m => { m with adminQueue := { u with tail := u.tail + 1 } }))

/-- CREATE (R128, R347). DEDUCED (log 10, safe). DESIGN CHOICE (log 42, unsafe). -/
def execCreate (record : Nat) (s : State) : Host.Outcome State Fault Refusal := event true (adminRequest 8 0 record) s

/-- SUSPEND (R128). DESIGN CHOICE (log 42, unsafe). -/
def execSuspend (ctx : Nat) (s : State) : Host.Outcome State Fault Refusal := event true (if ctx < adminCtx then adminRequest 9 ctx 0 else id) s

/-- RESUME (R128). DESIGN CHOICE (log 42, unsafe). -/
def execResume (ctx : Nat) (s : State) : Host.Outcome State Fault Refusal := event true (if ctx < adminCtx then adminRequest 10 ctx 0 else id) s

/-- DESTROY (R128). DESIGN CHOICE (log 42, unsafe). -/
def execDestroy (ctx : Nat) (s : State) : Host.Outcome State Fault Refusal := event true (if ctx < adminCtx then adminRequest 11 ctx 0 else id) s

/-- ENTRY_TAKE (R360): of a context's queue, or of the administration queue. -/
def execEntryTake (ctx q : Nat) (s : State) : Host.Outcome State Fault Refusal :=
  event true (if ctx = adminCtx then adminStep else entryTake ctx q) s

/-! CONTEXT_FREE (R128). -/

/-- Release what a context holds beyond its record: translations, lines, written bits, fault records, waiters, messages, segments, ranges still
to be taken back; its cores hold it no more (R128, R159). The frames that come back count for the watermarks (R297). -/
def releaseCtx (s : State) (x : Nat) : State :=
  let k := s.ctx x
  let s := unblockAll (invalidatePages s x 0 (2 ^ 57)) x false [k.pager.1, k.monitor.1]
  noteFree { s with
    written := s.written.filter (·.2.1 != x)
    faults := s.faults.filter (·.ctx != x)
    waiters := s.waiters.filter (·.ctx != x)
    cores := s.cores.map (fun p => (p.1, { p.2 with
      heldCtx := if p.2.heldCtx = some x then none else p.2.heldCtx
      segs := p.2.segs.filter (fun g => match g.2.holder with | some h => h.1 != x | none => true)
      queue := p.2.queue.filter (·.ctx != x)
      station := p.2.station.filter (·.ctx != x)
      kept := p.2.kept.filter (·.ctx != x)
      table := p.2.table.filter (·.ctx != x)
      packets := p.2.packets.filter (·.ctx != x)
      matches_ := p.2.matches_.filter (·.ctx != x) }))
    ctxs := del s.ctxs x }

/-- Transfers of a context that have been taken run to their end (R152, R221). -/
def transfersEnded (s : State) (x : Nat) : Bool :=
  s.cores.all (fun p => p.2.chans.all (fun h => match h.2.who with | some w => w.2.2.1 != x | none => true)) && s.pieces.all (·.ctx != x)

/-- CONTEXT_FREE (R128): every thread has ended, its transfers with them, and every wave is closed; every handle and page is released. -/
def contextFree (x : Nat) (s : State) : State :=
  let k := s.ctx x
  if k.st = .dying ∧ slotsOf s x = [] ∧ k.saved = [] ∧ k.waves = [] ∧ s.flights.all (·.ctx != x) = true ∧ transfersEnded s x = true then
    releaseCtx s x
  else s

/-- CONTEXT_FREE (R128). -/
def execContextFree (ctx : Nat) (s : State) : Host.Outcome State Fault Refusal := event true (contextFree ctx) s

end Sys2Proof.Machine
end

