-- ==== Sys2Proof/Machine/FloatOps.lean ====
section
/-!
DEFINITION. Scalar floating point (R89 to R92).
-/
namespace Sys2Proof.Machine

/-- The format of a scalar float type. -/
def ftyFmt : FTy → FFmt
  | .f64 => b64
  | .f32 => b32

/-- The bits of a scalar source: all of it, or bits 31:0 (R78). -/
def fsrc (t : FTy) (v : Word) : Nat :=
  match t with
  | .f64 => v.toNat
  | .f32 => v.toNat % 2 ^ 32

/-- The decode table a core holds (R62). -/
def Core.tableOf (k : Core) (dt : Bool) : Table := if dt then k.table1 else k.table0

/-- A conversion's formats and modes as its bundle resolves them; a bundle whose descriptor does not serve it has
trapped with cause PREFIX before (R40, R42). -/
def conv (pair : Fmt → Fmt → Bool) (s : State) (c : Conv) : Fmt × Fmt × Bool × Rnd × Bool :=
  (convFmts pair s.cur.latch c).getD (.f32, .f32, false, .rne, false)

/-- FADD (R89). -/
def execFadd (t : FTy) (d : Nat) (a b : Src) (s : State) : Host.Outcome State Fault Refusal :=
  guard (.fadd t d a b) (setX d fun s => wd ((ftyFmt t).addB (fsrc t (rx s a.r)) (fsrc t (rx s b.r)))) s

/-- FSUB (R89). -/
def execFsub (t : FTy) (d : Nat) (a b : Src) (s : State) : Host.Outcome State Fault Refusal :=
  guard (.fsub t d a b) (setX d fun s => wd ((ftyFmt t).subB (fsrc t (rx s a.r)) (fsrc t (rx s b.r)))) s

/-- FMUL (R89). -/
def execFmul (t : FTy) (d : Nat) (a b : Src) (s : State) : Host.Outcome State Fault Refusal :=
  guard (.fmul t d a b) (setX d fun s => wd ((ftyFmt t).mulB (fsrc t (rx s a.r)) (fsrc t (rx s b.r)))) s

/-- FMIN (R89, R56). -/
def execFmin (t : FTy) (d : Nat) (a b : Src) (s : State) : Host.Outcome State Fault Refusal :=
  guard (.fmin t d a b) (setX d fun s => wd ((ftyFmt t).min (fsrc t (rx s a.r)) (fsrc t (rx s b.r)))) s

/-- FMAX (R89, R56). -/
def execFmax (t : FTy) (d : Nat) (a b : Src) (s : State) : Host.Outcome State Fault Refusal :=
  guard (.fmax t d a b) (setX d fun s => wd ((ftyFmt t).max (fsrc t (rx s a.r)) (fsrc t (rx s b.r)))) s

/-- FDIV (R91). -/
def execFdiv (t : FTy) (d : Nat) (a b : Src) (s : State) : Host.Outcome State Fault Refusal :=
  guard (.fdiv t d a b) (setX d fun s => wd ((ftyFmt t).divB (fsrc t (rx s a.r)) (fsrc t (rx s b.r)))) s

/-- FFMA (R89): xD is the addend. -/
def execFfma (t : FTy) (d : Nat) (a b : Src) (s : State) : Host.Outcome State Fault Refusal :=
  guard (.ffma t d a b) (setX d fun s =>
    wd ((ftyFmt t).fmaB (fsrc t (rx s a.r)) (fsrc t (rx s b.r)) (fsrc t (rx s d)))) s

/-- FNEG (R90). -/
def execFneg (t : FTy) (d : Nat) (a : Src) (s : State) : Host.Outcome State Fault Refusal :=
  guard (.fneg t d a) (setX d fun s => wd ((ftyFmt t).negB (fsrc t (rx s a.r)))) s

/-- FABS (R90). -/
def execFabs (t : FTy) (d : Nat) (a : Src) (s : State) : Host.Outcome State Fault Refusal :=
  guard (.fabs t d a) (setX d fun s => wd ((ftyFmt t).absB (fsrc t (rx s a.r)))) s

/-- FSQRT (R90). -/
def execFsqrt (t : FTy) (d : Nat) (a : Src) (s : State) : Host.Outcome State Fault Refusal :=
  guard (.fsqrt t d a) (setX d fun s => wd ((ftyFmt t).sqrtB (fsrc t (rx s a.r)))) s

/-- FCLASS (R90). -/
def execFclass (t : FTy) (d : Nat) (a : Src) (s : State) : Host.Outcome State Fault Refusal :=
  guard (.fclass t d a) (setX d fun s => wd (2 ^ (ftyFmt t).classBit (fsrc t (rx s a.r)))) s

/-- FCMP (R91). -/
def execFcmp (t : FTy) (r : Rel) (d : Nat) (a b : Src) (s : State) : Host.Outcome State Fault Refusal :=
  guard (.fcmp t r d a b) (setX d fun s => flag ((ftyFmt t).rel r (fsrc t (rx s a.r)) (fsrc t (rx s b.r)))) s

/-- FCVT (R92). -/
def execFcvt (c : Conv) (d : Nat) (a : Src) (s : State) : Host.Outcome State Fault Refusal :=
  guard (.fcvt c d a) (setX d fun s =>
    let f := conv fcvtPair s c
    fmtWord f.1 (convert (s.here.tableOf f.2.2.2.2) f.1 f.2.1 f.2.2.1 f.2.2.2.1 (rx s a.r).toNat)) s

end Sys2Proof.Machine
end

