-- ==== Sys2Proof/Machine/Mem.lean ====
section
/-!
DEFINITION. Loads, stores, MX block moves, prefetches and fences (R110 to R116, R121).
-/
namespace Sys2Proof.Machine

/-- A load of `n` bytes into a scalar register (R110). -/
def loadBody (t n : Nat) (signed : Bool) (addr : State → Word) : Act := fun s =>
  if !aligned (addr s) n then .error (.trap cALIGN 0 (addr s))
  else
    match threadLoad s (addr s) n with
    | .error e => .error e
    | .ok r => .ok (wx r.2 t (if signed then BitVec.ofInt 64 (toSigned (8 * n) (ofBytes r.1)) else wd (ofBytes r.1)))

/-- The low `n` bytes of a register (R110). -/
def lowBytes (v : Word) (n : Nat) : List Byte := toBytes n v.toNat

/-- A store of the low `n` bytes of a scalar register (R110). -/
def storeBody (t n : Nat) (addr : State → Word) : Act := fun s =>
  if !aligned (addr s) n then .error (.trap cALIGN 0 (addr s))
  else threadStore s (addr s) (lowBytes (rx s t) n)

/-- The bytes of lanes (R6, R110). -/
def laneBytes (v : List Lane) : List Byte := v.flatMap (fun l => toBytes 4 l.toNat)

/-- The lanes of bytes (R6, R110). -/
def bytesLane (bs : List Byte) (i : Nat) : Lane := BitVec.ofNat 32 (ofBytes ((bs.drop (4 * i)).take 4))

/-- LdI8 (R110). -/
def execLdI8 (t : Nat) (base : Src) (off : Int) (s : State) : Host.Outcome State Fault Refusal :=
  guard (.ldI8 t base off) (loadBody t 1 true fun s => addrOf (rx s base.r) off 1) s

/-- LdN8 (R110). -/
def execLdN8 (t : Nat) (base : Src) (off : Int) (s : State) : Host.Outcome State Fault Refusal :=
  guard (.ldN8 t base off) (loadBody t 1 false fun s => addrOf (rx s base.r) off 1) s

/-- LdI16 (R110). -/
def execLdI16 (t : Nat) (base : Src) (off : Int) (s : State) : Host.Outcome State Fault Refusal :=
  guard (.ldI16 t base off) (loadBody t 2 true fun s => addrOf (rx s base.r) off 2) s

/-- LdN16 (R110). -/
def execLdN16 (t : Nat) (base : Src) (off : Int) (s : State) : Host.Outcome State Fault Refusal :=
  guard (.ldN16 t base off) (loadBody t 2 false fun s => addrOf (rx s base.r) off 2) s

/-- LdI32 (R110). -/
def execLdI32 (t : Nat) (base : Src) (off : Int) (s : State) : Host.Outcome State Fault Refusal :=
  guard (.ldI32 t base off) (loadBody t 4 true fun s => addrOf (rx s base.r) off 4) s

/-- LdN32 (R110). -/
def execLdN32 (t : Nat) (base : Src) (off : Int) (s : State) : Host.Outcome State Fault Refusal :=
  guard (.ldN32 t base off) (loadBody t 4 false fun s => addrOf (rx s base.r) off 4) s

/-- LdI64 (R110). -/
def execLdI64 (t : Nat) (base : Src) (off : Int) (s : State) : Host.Outcome State Fault Refusal :=
  guard (.ldI64 t base off) (loadBody t 8 false fun s => addrOf (rx s base.r) off 8) s

/-- StI8 (R110). -/
def execStI8 (t : Nat) (base : Src) (off : Int) (s : State) : Host.Outcome State Fault Refusal :=
  guard (.stI8 t base off) (storeBody t 1 fun s => addrOf (rx s base.r) off 1) s

/-- StI16 (R110). -/
def execStI16 (t : Nat) (base : Src) (off : Int) (s : State) : Host.Outcome State Fault Refusal :=
  guard (.stI16 t base off) (storeBody t 2 fun s => addrOf (rx s base.r) off 2) s

/-- StI32 (R110). -/
def execStI32 (t : Nat) (base : Src) (off : Int) (s : State) : Host.Outcome State Fault Refusal :=
  guard (.stI32 t base off) (storeBody t 4 fun s => addrOf (rx s base.r) off 4) s

/-- StI64 (R110). -/
def execStI64 (t : Nat) (base : Src) (off : Int) (s : State) : Host.Outcome State Fault Refusal :=
  guard (.stI64 t base off) (storeBody t 8 fun s => addrOf (rx s base.r) off 8) s

/-- LDV (R110): lane i from addr + 4i. -/
def execLdv (t : Nat) (base : Src) (off : Int) (s : State) : Host.Outcome State Fault Refusal :=
  guard (.ldv t base off) (fun s =>
    let va := addrOf (rx s base.r) off 64
    if !aligned va 64 then .error (.trap cALIGN 0 va)
    else
      match threadLoad s va 64 with
      | .error e => .error e
      | .ok r => .ok (wv r.2 t ((List.range 16).map (bytesLane r.1)))) s

/-- STV (R110). -/
def execStv (t : Nat) (base : Src) (off : Int) (s : State) : Host.Outcome State Fault Refusal :=
  guard (.stv t base off) (fun s =>
    let va := addrOf (rx s base.r) off 64
    if !aligned va 64 then .error (.trap cALIGN 0 va)
    else threadStore s va (laneBytes (rv s t))) s

/-- LDA (R113): an acquire at package scope. The thread waits for the value, so nothing later is performed before it. -/
def execLdaI64 (t : Nat) (base : Src) (off : Int) (s : State) : Host.Outcome State Fault Refusal :=
  guard (.ldaI64 t base off) (loadBody t 8 false fun s => addrOf (rx s base.r) off 8) s

/-- STL (R113): a release at package scope; its store is not sent until `unack` is zero and the deferred report is taken. -/
def execStlI64 (t : Nat) (base : Src) (off : Int) (s : State) : Host.Outcome State Fault Refusal :=
  guard (.stlI64 t base off) (fun s =>
    let va := addrOf (rx s base.r) off 8
    if !aligned va 8 then .error (.trap cALIGN 0 va)
    else if s.cur.reply.isSome then threadStore s va (lowBytes (rx s t) 8)
    else
      match drained s with
      | .error e => .error e
      | .ok s => threadStore s va (lowBytes (rx s t) 8)) s

/-- LDMX (R114, R115): the codes and the scale in one event. -/
def execLdmx (d : Nat) (a b : Src) (s : State) : Host.Outcome State Fault Refusal :=
  guard (.ldmx d a b) (fun s =>
    let va := rx s a.r
    let vb := rx s b.r
    if !aligned va 32 then .error (.trap cALIGN 0 va)
    else if va.getLsbD 63 != vb.getLsbD 63 then .error (.trap cREAD 0 vb)
    else if heldBack s va 32 forLoad || heldBack s vb 1 forLoad then .error (.wait (.retry .unbounded) s)
    else
      match loadNow s va 32 forLoad with
      | .error e => .error e
      | .ok r =>
        match loadNow r.2 vb 1 forLoad with
        | .error e => .error e
        | .ok q => .ok (wv q.2 d ((List.range 8).map (bytesLane r.1) ++ [BitVec.ofNat 32 (ofBytes q.1)] ++ List.replicate 7 0))) s

/-- STMX (R114, R115). -/
def execStmx (d : Nat) (a b : Src) (s : State) : Host.Outcome State Fault Refusal :=
  guard (.stmx d a b) (fun s =>
    let va := rx s a.r
    let vb := rx s b.r
    if !aligned va 32 then .error (.trap cALIGN 0 va)
    else if va.getLsbD 63 != vb.getLsbD 63 then .error (.trap cWRITE 0 vb)
    else storeBlock s (va, laneBytes ((rv s d).take 8)) (vb, toBytes 1 (rlane s d 8).toNat)) s

/-- A prefetch (R116): the line joins the core's cache, or is brought to its home slice when the cache has no room; anything that keeps
an ordinary load from it ends it silently, an earlier access that stands before it among them. No register, memory byte or order changes.
DESIGN CHOICE (log 13, unsafe). -/
def prefetch (va : State → Word) : Act := fun s =>
  match locate s s.myCtx s.priv (va s) 1 forLoad with
  | .error _ => .ok s
  | .ok p =>
    if p.glob && (poisonedAt s { p with key := p.key - p.key % 128 } 0 128).isNone
        && !behind s s.iss.core s.myCtx (va s) 1 forLoad then
      let t := install s s.myCtx (va s).toNat p
      .ok (if cacheRoom s.here then touchLoad t s.iss.core s.myCtx (va s).toNat 1 p else t)
    else .ok s

/-- PFL (R116). -/
def execPfl (a : Src) (off : Int) (s : State) : Host.Outcome State Fault Refusal :=
  guard (.pfl a off) (prefetch fun s => addrOf (rx s a.r) off 128) s

/-- PFL.w (R116): the intent to write is a hint. -/
def execPflW (a : Src) (off : Int) (s : State) : Host.Outcome State Fault Refusal :=
  guard (.pflW a off) (prefetch fun s => addrOf (rx s a.r) off 128) s

/-- DRAIN (R121). -/
def execDrain (s : State) : Host.Outcome State Fault Refusal := guard .drain drained s

/-- IFENCE (R121): also waits until every fetch that the thread has issued has landed or failed. -/
def execIfence (s : State) : Host.Outcome State Fault Refusal :=
  guard .ifence (fun s =>
    if s.here.segs.any (fun p => p.2.st == .fetching && p.2.byUid == s.cur.uid && p.2.byUid != 0) then
      .error (.wait (.retry .unbounded) s)
    else drained s) s

/-- FENCE (R121). At .thread it orders the thread's own streams: it waits until every earlier store of the thread is performed, and takes
no report. DESIGN CHOICE (log 13, unsafe). -/
def execFence (c : Scope) (s : State) : Host.Outcome State Fault Refusal :=
  guard (.fence c) (fun s => if c = .thread then performed s else drained s) s

end Sys2Proof.Machine
end

