-- ==== Sys2Proof/Machine/Atomic.lean ====
section
/-!
DEFINITION. Atomics (R117, R118): one event at the home slice or in the target core's array.
-/
namespace Sys2Proof.Machine

/-- The operations of R117. -/
inductive AtomKind where
  | add | and | or | xor | min | max | swp | cas | fadd
  deriving DecidableEq, Repr, Inhabited

/-- Their numbers in an access in flight: the sub less 0x040. -/
def AtomKind.code : AtomKind → Nat
  | .add => 0 | .and => 1 | .or => 2 | .xor => 3 | .min => 4 | .max => 5 | .swp => 6 | .cas => 7 | .fadd => 8

/-- The data format of an integer type. -/
def ityFmt : ITy → Fmt
  | .i32 => .i32 | .n32 => .n32 | .i64 => .i64 | .n64 => .n64

/-- The data format of a float type. -/
def ftyData : FTy → Fmt
  | .f64 => .f64 | .f32 => .f32

/-- `op(old, b)` of R117 on `w`-bit values. -/
def atomResult (op : Nat) (ty : Fmt) (old b exp : Nat) : Nat :=
  let w := fmtWidth ty
  let m := 2 ^ w
  let x := b % m
  let less := fun p q => if fmtSigned ty then decide (toSigned w p < toSigned w q) else decide (p < q)
  match op with
  | 0 => (old + x) % m
  | 1 => old &&& x
  | 2 => old ||| x
  | 3 => old ^^^ x
  | 4 => if less x old then x else old
  | 5 => if less old x then x else old
  | 6 => x
  | 7 => if old = exp % m then x else old
  | _ => if ty = .f64 then b64.addB old x else b32.addB old x

/-- The old value in xD (R117): sign-extended for i32, zero-extended else. -/
def atomOld (ty : Fmt) (old : Nat) : Word := if ty = .i32 then BitVec.ofInt 64 (toSigned 32 old) else wd old

/-- An atomic performed at once: the old bytes and the state after the event. -/
def atomicNow (s : State) (va : Word) (ty : Fmt) (op : Nat) (b exp : Word) : Except Stop (List Byte × State) :=
  let n := fmtWidth ty / 8
  if heldBack s va n forAtomic then .error (.wait (.retry .unbounded) s)
  else
    match locate s s.myCtx s.priv va n forAtomic with
    | .error e => .error (refusal s va forAtomic e)
    | .ok p =>
      match poisonedAt s p va n with
      | some a => .error (.keep (readTraced s va n) cPOISON 0 a)
      | none =>
        let s := if p.glob then touchHome (install s s.myCtx va.toNat p) s.iss.core s.myCtx va.toNat n p else s
        .ok (s.bytes p.key n, storeAt s p.key (toBytes n (atomResult op ty (s.num p.key n) b.toNat exp.toNat)))

/-- The body of an atomic (R117): alignment, the release of .rel (R113), then its event; the thread waits for the value. -/
def atomicBody (k : AtomKind) (ty : Fmt) (m : AtomMode) (d : Nat) (a b : Src) : Act := fun s =>
  let n := fmtWidth ty / 8
  let va := addrOf (rx s a.r) m.off n
  if !aligned va n then .error (.trap cALIGN 0 va)
  else
    match s.cur.reply with
    | some bs => .ok (wx (takeReply s) d (atomOld ty (ofBytes bs)))
    | none =>
      match (if m.rel then drained s else .ok s) with
      | .error e => .error e
      | .ok s =>
        if s.env.prompt || ownSpad s va then
          match atomicNow s va ty k.code (rx s b.r) (rx s d) with
          | .error e => .error e
          | .ok r => .ok (wx r.2 d (atomOld ty (ofBytes r.1)))
        else .error (fly s va n (.atomic k.code ty (rx s b.r) (rx s d)) forAtomic)

/-- AADD (R117). -/
def execAadd (t : ITy) (m : AtomMode) (d : Nat) (a b : Src) (s : State) : Host.Outcome State Fault Refusal :=
  guard (.aadd t m d a b) (atomicBody .add (ityFmt t) m d a b) s

/-- AAND (R117). -/
def execAand (t : ITy) (m : AtomMode) (d : Nat) (a b : Src) (s : State) : Host.Outcome State Fault Refusal :=
  guard (.aand t m d a b) (atomicBody .and (ityFmt t) m d a b) s

/-- AOR (R117). -/
def execAor (t : ITy) (m : AtomMode) (d : Nat) (a b : Src) (s : State) : Host.Outcome State Fault Refusal :=
  guard (.aor t m d a b) (atomicBody .or (ityFmt t) m d a b) s

/-- AXOR (R117). -/
def execAxor (t : ITy) (m : AtomMode) (d : Nat) (a b : Src) (s : State) : Host.Outcome State Fault Refusal :=
  guard (.axor t m d a b) (atomicBody .xor (ityFmt t) m d a b) s

/-- AMIN (R117). -/
def execAmin (t : ITy) (m : AtomMode) (d : Nat) (a b : Src) (s : State) : Host.Outcome State Fault Refusal :=
  guard (.amin t m d a b) (atomicBody .min (ityFmt t) m d a b) s

/-- AMAX (R117). -/
def execAmax (t : ITy) (m : AtomMode) (d : Nat) (a b : Src) (s : State) : Host.Outcome State Fault Refusal :=
  guard (.amax t m d a b) (atomicBody .max (ityFmt t) m d a b) s

/-- ASWP (R117). -/
def execAswp (t : ITy) (m : AtomMode) (d : Nat) (a b : Src) (s : State) : Host.Outcome State Fault Refusal :=
  guard (.aswp t m d a b) (atomicBody .swp (ityFmt t) m d a b) s

/-- ACAS (R117). -/
def execAcas (t : ITy) (m : AtomMode) (d : Nat) (a b : Src) (s : State) : Host.Outcome State Fault Refusal :=
  guard (.acas t m d a b) (atomicBody .cas (ityFmt t) m d a b) s

/-- AFADD (R117): rounded to nearest-even. -/
def execAfadd (t : FTy) (m : AtomMode) (d : Nat) (a b : Src) (s : State) : Host.Outcome State Fault Refusal :=
  guard (.afadd t m d a b) (atomicBody .fadd (ftyData t) m d a b) s

end Sys2Proof.Machine
end

