-- ==== Sys2Proof/Machine/Barrier.lean ====
section
/-!
DEFINITION. The instructions of full/empty words and barriers (R202, R203, R208 to R214).
-/
namespace Sys2Proof.Machine

/-! The frame of the instructions. -/

/-- Rights of the full/empty instructions (R208). Those that count as writes for the DEAD check are marked. -/
def forTagTake : Rights := { r := true, w := true }
def forTagWrite : Rights := { w := true, writes := true, acc := 1, cause := cWRITE }

/-- The checks on an address, in order: alignment, R107, R108 and R186, then the tier (R208, R211).
DESIGN CHOICE (log 21, unsafe). -/
def homePlace (s : State) (va : Word) (align n : Nat) (g : Rights) : Except Stop Place :=
  if !aligned va align then .error (.trap cALIGN 0 va)
  else if heldBack s va n { g with a := true } then .error (.wait (.retry .unbounded) s)
  else
    match locate s s.myCtx s.priv va n g with
    | .error e => .error (refusal s va g e)
    | .ok p => if p.tagged then .ok p else .error (.trap cFETAG 0 va)

/-- The walk slice has installed the leaf of the place, the request has come to the home, and registered words have come back to it (R203,
R217). -/
def reached (s : State) (va : Word) (n : Nat) (p : Place) : State :=
  recalled (readTraced (install s s.myCtx va.toNat p) va n) s.myCtx va n

/-- A request that may wait: it is performed at once, or it joins the queue and the thread waits within `waitlim`.
DESIGN CHOICE (log 21, unsafe). -/
def request (s : State) (va : Word) (p : Place) (op : HomeOp) (lim : Limit) : Except Stop (Word × State) :=
  let w : Waiter := ⟨s.iss.core, s.iss.slot, s.cur.uid, s.myCtx, s.priv, va, p.key, p.home, p.dead, op, false, none⟩
  match homeEvent s w with
  | .waits => .error (.wait (.home w.line lim) (enqueue s w))
  | .traps code a => .error (.trap code 0 a)
  | .done v t => .ok (v, if op.changesTag then serve w.line t else t)

/-- The reply that a waiting bundle has received. -/
def replyWord (s : State) : Option Word := s.cur.reply.map (fun bs => wd (ofBytes bs))

/-- The body of an instruction that waits at a home: `go` sends its request, `fin` ends it with the value of the reply. -/
def homeBody (go : State → Except Stop (Word × State)) (fin : State → Word → State) : Act := fun s =>
  match replyWord s with
  | some v => .ok (fin (takeReply s) v)
  | none =>
    match go s with
    | .error e => .error e
    | .ok r => .ok (fin r.2 r.1)

/-- The address of a full/empty instruction (R208). -/
def tagAddr (s : State) (a : Src) (off : Int) : Word := addrOf (rx s a.r) off 8

/-- The limit of a wait on a word (R136, R206). -/
def wordLimit (va : Word) : Limit := .trap cWAITLIMIT 0 va

/-! Full/empty instructions (R208). -/

/-- LDFE (R208). -/
def execLdfe (d : Nat) (a : Src) (off : Int) (s : State) : Host.Outcome State Fault Refusal :=
  guard (.ldfe d a off) (homeBody (fun s =>
    let va := tagAddr s a off
    match homePlace s va 8 8 forTagTake with
    | .error e => .error e
    | .ok p => request (reached s va 8 p) va p .ldfe (wordLimit va)) fun s v => wx s d v) s

/-- LDF (R208). -/
def execLdf (d : Nat) (a : Src) (off : Int) (s : State) : Host.Outcome State Fault Refusal :=
  guard (.ldf d a off) (homeBody (fun s =>
    let va := tagAddr s a off
    match homePlace s va 8 8 forLoad with
    | .error e => .error e
    | .ok p => request (reached s va 8 p) va p .ldf (wordLimit va)) fun s v => wx s d v) s

/-- STFE (R208): a release. -/
def execStfe (a b : Src) (off : Int) (s : State) : Host.Outcome State Fault Refusal :=
  guard (.stfe a b off) (homeBody (fun s =>
    let va := tagAddr s a off
    match homePlace s va 8 8 forTagWrite with
    | .error e => .error e
    | .ok p =>
      match drained s with
      | .error e => .error e
      | .ok s => request (reached s va 8 p) va p (.stfe (rx s b.r)) (wordLimit va)) fun s _ => s) s

/-- STF (R208): it never waits for the tag. -/
def execStf (a b : Src) (off : Int) (s : State) : Host.Outcome State Fault Refusal :=
  guard (.stf a b off) (fun s =>
    let va := tagAddr s a off
    match homePlace s va 8 8 forTagWrite with
    | .error e => .error e
    | .ok p =>
      match drained s with
      | .error e => .error e
      | .ok s =>
        let v := rx s b.r
        let s := reached s va 8 p
        .ok (retag s.myCtx va p.key true (storeAt (touchHome s s.iss.core s.myCtx va.toNat 8 p) p.key (toBytes 8 v.toNat)))) s

/-- FECLR (R208); on a dead page it changes nothing. -/
def execFeclr (d : Nat) (a : Src) (off : Int) (s : State) : Host.Outcome State Fault Refusal :=
  guard (.feclr d a off) (fun s =>
    let va := tagAddr s a off
    match homePlace s va 8 8 forTagTake with
    | .error e => .error e
    | .ok p =>
      let s := reached s va 8 p
      if p.dead then .ok (wx s d 0)
      else .ok (wx (retag s.myCtx va p.key false s) d (if s.isFull p.key then 1 else 0))) s

/-- FESTAT (R208). -/
def execFestat (d : Nat) (a : Src) (off : Int) (s : State) : Host.Outcome State Fault Refusal :=
  guard (.festat d a off) (fun s =>
    let va := tagAddr s a off
    match homePlace s va 8 8 forLoad with
    | .error e => .error e
    | .ok p => .ok (wx (reached s va 8 p) d (if s.isFull p.key && !p.dead then 1 else 0))) s

/-! Barrier instructions (R211). -/

/-- The barrier at a place. -/
def barAt (s : State) (p : Place) : Option Bar := if p.dead then none else parseBar (s.bytes p.key 32)

/-- Write a barrier at its home for a core, as one event, and serve its waiters (R203, R210). -/
def putBar (s : State) (c x : Nat) (va : Word) (p : Place) (b : Bar) : State :=
  serve (lineId x va p.key) (storeAt (touchHome s c x va.toNat 32 p) p.key (barBytes b))

/-- A barrier instruction's place; a poisoned word traps as it does for an atomic (R199). -/
def barPlace (s : State) (va : Word) (g : Rights) (reads : Bool) : Except Stop Place :=
  match homePlace s va 32 32 g with
  | .error e => .error e
  | .ok p =>
    match (if reads then poisonedAt s p va 32 else none) with
    | some a => .error (.trap cPOISON 0 a)
    | none => .ok p

/-- A waiter queued or parked on a barrier (R211). -/
def barWaiter (s : State) (p : Place) : Bool :=
  s.waiters.any (fun w => w.key == p.key && (match w.op with | .bwait _ | .bcpl _ => true | _ => false))

/-- BINIT (R211, R213). -/
def execBinit (d : Nat) (a b : Src) (s : State) : Host.Outcome State Fault Refusal :=
  guard (.binit d a b) (fun s =>
    let va := rx s a.r
    let n := (rx s b.r).toNat
    match barPlace s va forBarrier false with
    | .error e => .error e
    | .ok p =>
      match drained s with
      | .error e => .error e
      | .ok s =>
        let s := reached s va 32 p
        if n = 0 ∨ 2 ^ 24 ≤ n then .ok (wx s d (barStatus 1))
        else if barWaiter s p then .ok (wx s d (barStatus 2))
        else .ok (wx (putBar s s.iss.core s.myCtx va p ⟨n, n, 0, 0⟩) d 0)) s

/-- An arrival (R211): its result, and the barrier after it. -/
def arriveAt (b : Option Bar) : Word × Option Bar :=
  match b with
  | none => (barStatus 5, none)
  | some b => if b.arr = 0 then (barStatus 3, none) else (wd b.count, some (completePhase { b with arr := b.arr - 1 }))

/-- An arrival at a place, performed as one event. -/
def arrival (s : State) (va : Word) (p : Place) : Word × Bool × State :=
  match arriveAt (barAt s p) with
  | (v, some b) => (v, true, putBar s s.iss.core s.myCtx va p b)
  | (v, none) => (v, false, s)

/-- BARV (R211): a release. -/
def execBarv (d : Nat) (a : Src) (s : State) : Host.Outcome State Fault Refusal :=
  guard (.barv d a) (fun s =>
    let va := rx s a.r
    match barPlace s va forBarrier true with
    | .error e => .error e
    | .ok p =>
      match drained s with
      | .error e => .error e
      | .ok s =>
        let r := arrival (reached s va 32 p) va p
        .ok (wx r.2.2 d r.1)) s

/-- BEXP on a barrier (R211): its status, and the barrier after it. -/
def expect (b : Option Bar) (v : Word) : Word × Option Bar :=
  let low := bits v.toNat 55 0
  let n : Int := if low < 2 ^ 55 then low else (low : Int) - (2 ^ 56 : Nat)
  match b with
  | none => (barStatus 5, none)
  | some b =>
    if wbits v 63 56 ≠ (if low < 2 ^ 55 then 0 else 255) ∨ b.bytes + n < -(2 ^ 55 : Nat) ∨ (2 ^ 55 : Nat) ≤ b.bytes + n then (barStatus 4, none)
    else (0, some (completePhase { b with bytes := b.bytes + n }))

/-- BEXP (R211). -/
def execBexp (d : Nat) (a b : Src) (s : State) : Host.Outcome State Fault Refusal :=
  guard (.bexp d a b) (fun s =>
    let va := rx s a.r
    match barPlace s va forBarrier true with
    | .error e => .error e
    | .ok p =>
      let r := expect (barAt s p) (rx s b.r)
      let s := reached s va 32 p
      .ok (wx (match r.2 with | some q => putBar s s.iss.core s.myCtx va p q | none => s) d r.1)) s

/-- The limit of a wait on a barrier (R212). -/
def barLimit (va : Word) : Limit := .trap cWAITLIMIT 3 va

/-- BWAIT (R211, R212). -/
def execBwait (d : Nat) (a b : Src) (s : State) : Host.Outcome State Fault Refusal :=
  guard (.bwait d a b) (homeBody (fun s =>
    let va := rx s a.r
    match barPlace s va forLoad true with
    | .error e => .error e
    | .ok p =>
      if (barAt s p).isNone then .ok (barStatus 5, reached s va 32 p)
      else request (reached s va 32 p) va p (.bwait (rx s b.r)) (barLimit va)) fun s v => wx s d v) s

/-- BTEST (R211). -/
def execBtest (d : Nat) (a b : Src) (s : State) : Host.Outcome State Fault Refusal :=
  guard (.btest d a b) (fun s =>
    let va := rx s a.r
    match barPlace s va forLoad true with
    | .error e => .error e
    | .ok p =>
      .ok (wx (reached s va 32 p) d (match barAt s p with
        | none => barStatus 5
        | some q => if q.passed (rx s b.r) then 1 else 0))) s

/-- BCPL (R211, R214): the arrival is performed at once, then the wait; the arrival stands however the wait ends. -/
def execBcpl (d : Nat) (a : Src) (s : State) : Host.Outcome State Fault Refusal :=
  guard (.bcpl d a) (homeBody (fun s =>
    let va := rx s a.r
    match barPlace s va forBarrier true with
    | .error e => .error e
    | .ok p =>
      match drained s with
      | .error e => .error e
      | .ok s =>
        let r := arrival (reached s va 32 p) va p
        if r.2.1 then request r.2.2 va p (.bcpl r.1) (.arrived (arrivedOnly r.1)) else .ok (r.1, r.2.2))
    fun s v => wx s d v) s

end Sys2Proof.Machine
end

