-- ==== Sys2Proof/Machine/Table.lean ====
section
/-!
DEFINITION. DTLD and the replacement of a decode table (R62 to R65, R74 to R77).
-/
namespace Sys2Proof.Machine

/-- The A-slot of a bundle that has issued, and whose C-slot waits, reads the table (R22, R75). -/
def pairReads (l : Slot) (n : Nat) : Bool :=
  match l.held with
  | some h => h.latch.isSome && (match decodeBundle h.bundle with
    | .ok (.pair _ a) => tableReadBy l.latch l.dtsel a == some (n == 1)
    | _ => false)
  | none => false

/-- An operation that has issued and not retired reads the table (R62, R75): a matrix operation, or the A-slot of a bundle whose C-slot
waits. -/
def mmaReads (k : Core) (n : Nat) : Bool :=
  k.slots.any (fun p => match p.2.mop with
    | some m => (tabled m.fmts.1 || tabled m.fmts.2.1) && m.fmts.2.2.2 == (n == 1)
    | none => pairReads p.2 n)

/-- Set a decode table of a core. -/
def Core.setTable (k : Core) (n : Nat) (t : Table) : Core := if n = 1 then { k with table1 := t } else { k with table0 := t }

/-- Replace a table (R75, R77): at once, or held until every operation that has issued and reads it has retired. A bundle that reads the
table and waits at step 8 of R42 has not issued: the replacement does not wait for it, and it uses the new table. A second replacement of a
table whose replacement is held waits and is tried again once the first has been made: the spec gives no order of two.
DESIGN CHOICE (log 25, unsafe). -/
def replaceTable (d n : Nat) (t : Table) : Act := fun s =>
  if s.cur.reply.isSome then .ok (wx (gathered (takeReply s)) d 0)
  else if (look s.here.newTable n).isSome then .error (.wait (.retry .unbounded) s)
  else if mmaReads s.here n then
    .error (.wait (.reply 0) (s.modHere (fun k => { k with newTable := put k.newTable n (s.iss.slot, t) })))
  else .ok (wx (gathered (s.modHere (·.setTable n t))) d 0)

/-- The entries of a table image (R63). -/
def tableImage (bs : List Byte) : List Lane := (List.range 256).map (fun i => BitVec.ofNat 32 (ofBytes ((bs.drop (4 * i)).take 4)))

/-- DTLD.mem (R75, R77): sixteen loads of 64 bytes in order; status 1 BADTABLE when the image is not valid (R64). -/
def execDtldMem (d : Nat) (a : Src) (n : Nat) (s : State) : Host.Outcome State Fault Refusal :=
  guard (.dtldMem d a n) (fun s =>
    let va := rx s a.r
    if s.cur.part.length = 1024 ∧ s.cur.reply.isSome = true then replaceTable d n (.preset .e4m3) s
    else if !aligned va 64 then .error (.trap cALIGN 0 va)
    else
      match gatherLoads s 64 ((List.range 16).map (fun i => va + wd (64 * i))) with
      | .error e => .error e
      | .ok r =>
        let t := Table.image (tableImage r.1)
        if t.valid then replaceTable d n t r.2 else .ok (wx (gathered r.2) d 1)) s

/-- DTLD of a preset (R65, R75). -/
def execDtldPreset (d : Nat) (p : Preset) (n : Nat) (s : State) : Host.Outcome State Fault Refusal :=
  guard (.dtldPreset d p n) (replaceTable d n (.preset p)) s

/-- TABLE_REPLACEMENT (R77): one event on the core, once every operation that reads the table has retired; the DTLD that waits
retires. -/
def tableReplace (c n : Nat) (s : State) : State :=
  match look (s.core c).newTable n with
  | some (t, tab) =>
    if mmaReads (s.core c) n = false then
      (s.modCore c (fun k => { k.setTable n tab with newTable := del k.newTable n })).modSlot c t (fun l => { l.again with reply := some [] })
    else s
  | none => s

/-- TABLE_REPLACEMENT (R77). -/
def execTableReplacement (core n : Nat) (s : State) : Host.Outcome State Fault Refusal :=
  event (decide (core < coreCount) && decide (n < 2)) (tableReplace core n) s

end Sys2Proof.Machine
end

