-- ==== Sys2Proof/Machine/Tile.lean ====
section
/-!
DEFINITION. The matrix unit: accumulators, masks, rings, tile loads and matrix operations (R69, R70, R238 to R258).
-/
namespace Sys2Proof.Machine

/-! Accumulators and masks. -/

/-- The physical accumulator that a thread names (R238). -/
def accNo (l : Slot) (n : Nat) : Nat := l.accs.getD n 0

/-- An accumulator of the bundle in issue. -/
def accOfCur (s : State) (n : Nat) : Acc := lookD s.here.accs (accNo s.cur n) {}

/-- Set an accumulator of a core. -/
def setAcc (s : State) (c a : Nat) (v : Acc) : State := s.modCore c (fun k => { k with accs := put k.accs a v })

/-- The code of a shape (R239, R240). -/
def shapeCode : Shape → Nat
  | .f32 => 1 | .i32 => 2 | .f64 => 3

/-- The rows and columns of a shape (R239). -/
def accDim (shape : Nat) : Nat := if shape = 3 then 8 else if shape = 0 then 0 else 16

/-- The mask pair of accumulator aN (R241). -/
def maskPair (l : Slot) (n : Nat) : MaskPair := lookD l.masks (n % 4) ⟨-1, -1⟩

/-- Element (i, j) is not masked (R241). -/
def unmasked (m : MaskPair) (i j : Nat) : Bool := m.rows.getLsbD i && m.cols.getLsbD j

/-- Element (i, j) of an accumulator. -/
def Acc.at (a : Acc) (i j : Nat) : Word := lookD a.el (accDim a.shape * i + j) 0

/-- Change the unmasked elements of an accumulator. -/
def Acc.update (a : Acc) (m : MaskPair) (f : Nat → Nat → Word) : Acc :=
  let n := accDim a.shape
  { a with el := (List.range (n * n)).foldl (fun e x =>
      if unmasked m (x / n) (x % n) then putD e x (f (x / n) (x % n)) 0 else e) a.el }

/-- MSHAPE (R240). -/
def execMshape (acc : Nat) (sh : Shape) (s : State) : Host.Outcome State Fault Refusal :=
  guard (.mshape acc sh) (fun s => .ok (setAcc s s.iss.core (accNo s.cur acc) { shape := shapeCode sh })) s

/-- Change a mask pair of the thread. -/
def setMask (s : State) (m : Nat) (f : MaskPair → MaskPair) : State :=
  s.modCur (fun l => { l with masks := put l.masks m (f (lookD l.masks m ⟨-1, -1⟩)) })

/-- MSKR (R242). -/
def execMskr (m : Nat) (a : Src) (s : State) : Host.Outcome State Fault Refusal :=
  guard (.mskr m a) (fun s => .ok (setMask s m (fun p => { p with rows := (rx s a.r).setWidth 16 }))) s

/-- MSKC (R242). -/
def execMskc (m : Nat) (a : Src) (s : State) : Host.Outcome State Fault Refusal :=
  guard (.mskc m a) (fun s => .ok (setMask s m (fun p => { p with cols := (rx s a.r).setWidth 16 }))) s

/-- ACCMV (R255): one row, whatever the masks. -/
def execAccmv (d acc : Nat) (b : Src) (s : State) : Host.Outcome State Fault Refusal :=
  guard (.accmv d acc b) (fun s =>
    let c := accOfCur s acc
    if c.shape = 3 then
      let i := wbits (rx s b.r) 2 0
      .ok ((List.range 8).foldl (fun t j => wx t (8 * d + j) (c.at i j)) s)
    else
      let i := wbits (rx s b.r) 3 0
      .ok (wv s d ((List.range 16).map (fun j => if c.shape = 0 then 0 else (c.at i j).setWidth 32)))) s

/-- Every mask bit that counts for the shape is 1 (R256). -/
def fullMask (m : MaskPair) (n : Nat) : Bool := (List.range n).all (fun i => m.rows.getLsbD i && m.cols.getLsbD i)

/-- ACCZ (R256). -/
def execAccz (acc : Nat) (s : State) : Host.Outcome State Fault Refusal :=
  guard (.accz acc) (fun s =>
    let c := accOfCur s acc
    let m := maskPair s.cur acc
    if c.shape = 0 then .ok s
    else
      .ok (setAcc s s.iss.core (accNo s.cur acc)
        { c.update m (fun _ _ => 0) with live := c.live && !fullMask m (accDim c.shape) })) s

/-- Bytes of an element of a shape. -/
def elBytes (shape : Nat) : Nat := if shape = 3 then 8 else 4

/-- ACCLD (R257). -/
def execAccld (acc : Nat) (sh : Shape) (a : Src) (s : State) : Host.Outcome State Fault Refusal :=
  guard (.accld acc sh a) (fun s =>
    let va := rx s a.r
    let n := accDim (shapeCode sh)
    let z := elBytes (shapeCode sh)
    if !aligned va 64 then .error (.trap cALIGN 0 va)
    else
      match gatherLoads s 64 ((List.range (n * n * z / 64)).map (fun i => va + wd (64 * i))) with
      | .error e => .error e
      | .ok r =>
        let old := accOfCur s acc
        let c : Acc := if old.shape = shapeCode sh then old else { shape := shapeCode sh }
        .ok (setAcc (gathered r.2) s.iss.core (accNo s.cur acc)
          { c.update (maskPair s.cur acc) (fun i j => wd (ofBytes ((r.1.drop (z * (n * i + j))).take z))) with live := true })) s

/-- The stores of ACCST (R257): one of 64 bytes for a row with no masked element, else one for each element. -/
def accStores (c : Acc) (m : MaskPair) (va : Word) : List (Word × List Byte) :=
  let n := accDim c.shape
  let z := elBytes c.shape
  let el := fun (i j : Nat) => (va + wd (z * (n * i + j)), toBytes z (c.at i j).toNat)
  (List.range n).flatMap (fun i =>
    if (List.range n).all (unmasked m i) then [(va + wd (z * n * i), (List.range n).flatMap (fun j => (el i j).2))]
    else ((List.range n).filter (unmasked m i)).map (el i))

/-- ACCST (R257). -/
def execAccst (acc : Nat) (a : Src) (s : State) : Host.Outcome State Fault Refusal :=
  guard (.accst acc a) (fun s =>
    let va := rx s a.r
    if !aligned va 64 then .error (.trap cALIGN 0 va)
    else storeRows s (accStores (accOfCur s acc) (maskPair s.cur acc) va)) s

/-! Rings. -/

/-- Bytes of a tile's element (R244). -/
def ringBytes : Nat → Nat
  | 1 => 8 | 2 => 4 | 3 | 4 => 2 | _ => 1

/-- The stride of a ring (R244). -/
def Ring.stride (r : Ring) : Nat := r.rows * r.cols * ringBytes r.fmt + (if r.fmt = 6 then 64 else 0)

/-- The scratchpad of the launch whose rings a thread sees, in units of 16 KiB; 0 when it sees none (R243). -/
def ringScr (s : State) (c t : Nat) : Nat :=
  let l := s.slot c t
  let x := s.ctxOf c t
  let holds := fun (n : Launch) => n.st.live && n.cores.contains c && n.scr != 0
  if l.launch = 0 then
    ((s.ctx x).launches.find? (fun p => holds p.2)).map (·.2.scr) |>.getD 0
  else
    match look (s.ctx x).launches l.launch with
    | some n => if holds n then n.scr else 0
    | none => 0

/-- A ring as a thread sees it (R243). -/
def ringFor (s : State) (c t q : Nat) : Option Ring := if ringScr s c t = 0 then none else look (s.core c).rings q

/-- A ring as the bundle in issue sees it. -/
def ringOfCur (s : State) (q : Nat) : Option Ring := ringFor s s.iss.core s.iss.slot q

/-- Set a ring of a core. -/
def setRing (s : State) (c q : Nat) (r : Ring) : State := s.modCore c (fun k => { k with rings := put k.rings q r })

/-- The ring that a well-formed descriptor describes, in a scratchpad of `scr` units (R244). -/
def parseRing (scr : Nat) (bs : List Byte) : Option Ring :=
  let w0 := ofBytes (bs.take 8)
  let w1 := ofBytes ((bs.drop 8).take 8)
  let r : Ring := { fmt := bits w0 44 41, cols := bits w0 40 35, rows := bits w0 34 29, cap := bits w0 28 21, base := bits w0 19 0
                    head := bits w1 7 0, cnt := bits w1 15 8 }
  if bits w0 63 45 = 0 ∧ bits w0 20 20 = 0 ∧ bits w1 63 16 = 0 ∧ 1 ≤ r.fmt ∧ r.fmt ≤ 7
    ∧ [(8, 4), (16, 4), (16, 16), (16, 32), (4, 8), (4, 16), (32, 16)].contains (r.rows, r.cols) = true
    ∧ r.cap ≠ 0 ∧ r.cnt ≤ r.cap ∧ r.head < r.cap ∧ r.base % 64 = 0 ∧ r.base + r.cap * r.stride ≤ 16384 * scr
  then some r else none

/-- The descriptor of an RCFG: read once, and kept while the instruction waits for the ring (R247). -/
def ringDescriptor (s : State) (va : Word) : Except Stop (List Byte × State) :=
  if s.cur.part.length = 16 then .ok (s.cur.part, s) else readRange s va 16 forLoad

/-- RCFG (R247). The spec does not say whether the matrix operation of the same bundle counts as running: the ring is set as the bundle
retires, after that operation has popped its tiles (`awaitMma`). DESIGN CHOICE (log 25, unsafe). -/
def execRcfg (ring : Nat) (base : Src) (off : Int) (s : State) : Host.Outcome State Fault Refusal :=
  guard (.rcfg ring base off) (fun s =>
    let va := addrOf (rx s base.r) off 16
    if !aligned va 16 then .error (.trap cALIGN 0 va)
    else
      match ringDescriptor s va with
      | .error e => .error e
      | .ok (bs, s) =>
        match (if ringScr s s.iss.core s.iss.slot = 0 then none else parseRing (ringScr s s.iss.core s.iss.slot) bs) with
        | none => .error (.keep s cRING 5 (wd ring))
        | some r =>
          if ringBusy s.here ring then .error (.wait (.retry .unbounded) (s.modCur (fun l => { l with part := bs })))
          else .ok (setRing s s.iss.core ring r)) s

/-- The frame of RSTAT and RPOP: they wait until no operation that names the ring runs (R248). -/
def whenIdle (ring : Nat) (body : Act) : Act := fun s =>
  if ringBusy s.here ring then .error (.wait (.retry .unbounded) s) else body s

/-- RSTAT (R248): `set:1 res:23 fmt:4 cols:6 rows:6 cap:8 cnt:8 head:8`. -/
def execRstat (d ring : Nat) (s : State) : Host.Outcome State Fault Refusal :=
  guard (.rstat d ring) (whenIdle ring (setX d fun s =>
    match ringOfCur s ring with
    | none => 0
    | some r => wd (2 ^ 63 + r.fmt * 2 ^ 36 + r.cols * 2 ^ 30 + r.rows * 2 ^ 24 + r.cap * 2 ^ 16 + r.cnt * 2 ^ 8 + r.head))) s

/-- RPOP (R248): the ring after it, when the count is in range. -/
def popBody (d ring : Nat) (f : Ring → Option Ring) : Act := fun s =>
  match ringOfCur s ring with
  | none => .ok (wx s d (wd (2 ^ 63 + 1)))
  | some r =>
    match f r with
    | none => .ok (wx s d (wd (2 ^ 63 + 2)))
    | some q => .ok (wx (setRing s s.iss.core ring q) d (wd q.cnt))

/-- Discard tiles at the head (R248). -/
def popHead (n : Nat) (r : Ring) : Option Ring :=
  if r.cnt < n then none else some { r with head := (r.head + n) % r.cap, cnt := r.cnt - n }

/-- Publish tiles at the tail (R248). -/
def popTail (n : Nat) (r : Ring) : Option Ring := if r.cap < r.cnt + n then none else some { r with cnt := r.cnt + n }

/-- RPOP.head (R248). -/
def execRpopHead (d ring : Nat) (b : Src) (s : State) : Host.Outcome State Fault Refusal :=
  guard (.rpopHead d ring b) (whenIdle ring fun s => popBody d ring (popHead (rx s b.r).toNat) s) s

/-- RPOP.tail (R248): a release at core scope (R250). -/
def execRpopTail (d ring : Nat) (b : Src) (s : State) : Host.Outcome State Fault Refusal :=
  guard (.rpopTail d ring b) (whenIdle ring fun s =>
    match performed s with
    | .error e => .error e
    | .ok s => popBody d ring (popTail (rx s b.r).toNat) s) s

/-- The key of a slot of a ring on a core (R243). -/
def tileKey (c : Nat) (r : Ring) (slot : Nat) : Nat := spadKey c (r.base + slot * r.stride)

/-- The format and the shape of a ring. -/
def Ring.form (r : Ring) : Nat × Nat × Nat := (r.fmt, r.rows, r.cols)

/-- The addresses of the source elements of TLDT, in the order of the tile's rows (R249). -/
def tileAddrs (va pitch : Word) (form : Nat × Nat × Nat) : List Word :=
  (List.range (form.2.1 * form.2.2)).map (fun i => va + wd (i % form.2.2) * pitch + wd (i / form.2.2 * ringBytes form.1))

/-- The final event of TLDT (R249, R250): a release at core scope; it waits for a free slot, and then the ring is checked again. A ring that
is unset has no slot to wait for. DESIGN CHOICE (log 25, unsafe). -/
def publishTile (ring : Nat) (shape : Nat × Nat × Nat) (bs : List Byte) : Act := fun s =>
  match ringOfCur s ring with
  | none => .error (.trap cRING 2 (wd ring))
  | some r =>
    if r.cap ≤ r.cnt then .error (.wait (.retry (.trap cRING 1 (wd ring))) s)
    else if r.form ≠ shape then .error (.trap cRING 3 (wd ring))
    else
      match performed s with
      | .error e => .error e
      | .ok s =>
        .ok (gathered (setRing (storeAt s (tileKey s.iss.core r ((r.head + r.cnt) % r.cap)) bs) s.iss.core ring { r with cnt := r.cnt + 1 }))

/-- The loads of TLDT, for the format and shape that it found at its first event, and its final event (R249). -/
def loadTile (ring : Nat) (va pitch : Word) (form : Nat × Nat × Nat) : Act := fun s =>
  match gatherLoads (s.modCur (fun l => { l with tile := some form })) (ringBytes form.1) (tileAddrs va pitch form) with
  | .error e => .error e
  | .ok q => publishTile ring form q.1 q.2

/-- TLDT (R249). A tile that has been loaded and waits for a free slot is not loaded again.
DESIGN CHOICE (log 14, unsafe; log 25, unsafe). -/
def execTldt (ring : Nat) (a b : Src) (s : State) : Host.Outcome State Fault Refusal :=
  guard (.tldt ring a b) (fun s =>
    let va := rx s a.r
    let pitch := rx s b.r
    match s.cur.tile, ringOfCur s ring with
    | some form, _ => loadTile ring va pitch form s
    | none, none => .error (.trap cRING 2 (wd ring))
    | none, some r =>
      if r.fmt = 6 then .error (.trap cRING 3 (wd ring))
      else if !aligned va (ringBytes r.fmt) then .error (.trap cALIGN 0 va)
      else if !aligned pitch (ringBytes r.fmt) then .error (.trap cALIGN 0 pitch)
      else loadTile ring va pitch r.form s) s

/-! Matrix operations. -/

/-- The shapes of the tiles and the accumulator, K and the cycles of a form by its operand formats (R251). -/
def formShape (fa : Fmt) : (Nat × Nat) × (Nat × Nat) × Nat × Nat × Nat :=
  match fa with
  | .f64 => ((8, 4), (4, 8), 3, 4, 64)
  | .f32 => ((16, 4), (4, 16), 1, 4, 32)
  | .bf16 | .f16 => ((16, 16), (16, 16), 1, 16, 16)
  | .i8 => ((16, 32), (32, 16), 2, 32, 16)
  | _ => ((16, 32), (32, 16), 1, 32, 16)

/-- The checks of a matrix operation's rings (R253): info and ring of the first failure. -/
def ringFails (s : State) (c t qa qb : Nat) (fa fb : Fmt) : Option (Nat × Nat) :=
  match ringFor s c t qa, ringFor s c t qb with
  | none, _ => some (2, qa)
  | _, none => some (2, qb)
  | some a, some b =>
    if a.fmt ≠ fa.code ∨ (a.rows, a.cols) ≠ (formShape fa).1 then some (3, qa)
    else if b.fmt ≠ fb.code ∨ (b.rows, b.cols) ≠ (formShape fa).2.1 then some (3, qb)
    else none

/-- The unit is free and both rings hold a tile (R253). -/
def tilesReady (s : State) (c t qa qb : Nat) : Bool :=
  (s.core c).mma.isNone && (match ringFor s c t qa, ringFor s c t qb with
    | some a, some b => a.cnt != 0 && b.cnt != 0
    | _, _ => false)

/-- An operation reads a byte of a tile (R241, R245): one of an element or a scale of an A row, or of a B column, that is not masked. -/
def tileByteRead (r : Ring) (unmasked : BitVec 16) (rows : Bool) (o : Nat) : Bool :=
  let z := ringBytes r.fmt
  if o < r.rows * r.cols * z then unmasked.getLsbD (if rows then o / (r.cols * z) else o / z % r.cols)
  else r.fmt == 6 && decide (512 ≤ o) && unmasked.getLsbD (o - 512)

/-- The address of the first poisoned word that an operation reads of the head tile of a ring (R2, R199, R241). -/
def tilePoison (s : State) (c t q : Nat) (unmasked : BitVec 16) (rows : Bool) : Option Word :=
  (ringFor s c t q).bind (fun r =>
    let k := tileKey c r r.head
    (s.poison.find? (fun w => (List.range 8).any (fun i =>
      decide (k ≤ 8 * w + i) && decide (8 * w + i < k + r.stride) && tileByteRead r unmasked rows (8 * w + i - k)))).map (fun w => wd (8 * w)))

/-- The first poisoned word that an operation on two rings would read, with the mask pair of its accumulator (R2, R199). -/
def tilesPoison (s : State) (c t qa qb : Nat) (m : MaskPair) : Option Word :=
  (tilePoison s c t qa m.rows true).orElse (fun _ => tilePoison s c t qb m.cols false)

/-- The value of a tile's element (R69, R245). -/
def tileVal (s : State) (c : Nat) (tab : Table) (f : Fmt) (r : Ring) (i j : Nat) : FVal :=
  let z := ringBytes r.fmt
  fmtValue tab f (s.num (tileKey c r r.head + (i * r.cols + j) * z) z)

/-- A scale of an mx tile (R245). -/
def tileScale (s : State) (c : Nat) (r : Ring) (i : Nat) : Nat := s.num (tileKey c r r.head + 512 + i) 1

/-- Split a list into groups of four. -/
def groups4 {β : Type} : List β → List (List β)
  | a :: b :: c :: d :: t => [a, b, c, d] :: groups4 t
  | _ => []

/-- The exact sum of a group of four products (R69). -/
def groupSum (ps : List FVal) : FVal :=
  ((ps.getD 0 (.fin false 0 0)).add (ps.getD 1 (.fin false 0 0))).add ((ps.getD 2 (.fin false 0 0)).add (ps.getD 3 (.fin false 0 0)))

/-- One element of a float form: one rounding for each group of four steps (R69). `sc` is the sum of the two scales less 254,
none when a scale is 0xFF. -/
def macElement (g : FFmt) (sc : Option Int) (c0 : Nat) (a b : List FVal) : Nat :=
  (groups4 (List.zipWith FVal.mul a b)).foldl (fun c ps =>
    let v := match sc with
      | some k => (groupSum ps).scale k
      | none => .nan
    g.rne ((g.dec c).add v)) c0

/-- The scale of an element (R69): exact, or none for 0xFF. -/
def mxScale (sa sb : Nat) : Option Int := if sa = 255 ∨ sb = 255 then none else some ((sa : Int) + sb - 254)

/-- The result of a matrix operation on an accumulator (R69, R70, R253). -/
def mmaResult (s : State) (c : Nat) (acc : Acc) (m : MaskPair) (zero : Bool) (f : Fmt × Fmt × Fmt × Bool) (a b : Ring) : Acc :=
  let tab := (s.core c).tableOf f.2.2.2
  let k := (formShape f.1).2.2.2.1
  let n := accDim acc.shape
  let rowsA := (List.range n).map (fun i => (List.range k).map (fun q => tileVal s c tab f.1 a i q))
  let colsB := (List.range n).map (fun j => (List.range k).map (fun q => tileVal s c tab f.2.1 b q j))
  acc.update m (fun i j =>
    let c0 := if zero then 0 else (acc.at i j).toNat
    if f.1 == .i8 then
      let sum := (List.zipWith (fun x y => fmtInt x * fmtInt y) (rowsA.getD i []) (colsB.getD j [])).foldl (· + ·) (0 : Int)
      wd (((c0 : Int) + sum) % (2 ^ 32 : Nat)).toNat
    else
      let sc := if f.1 == .mx then mxScale (tileScale s c a i) (tileScale s c b j) else some 0
      wd (macElement (if acc.shape = 3 then b64 else b32) sc c0 (rowsA.getD i []) (colsB.getD j [])))
where
  /-- An exact integer value. -/
  fmtInt : FVal → Int
    | .fin neg m e => signedNat neg (m * 2 ^ e.toNat)
    | _ => 0

/-- The pops at retirement (R253). -/
def popTiles (s : State) (c qa qb : Nat) (keepb : Bool) : State :=
  let pop := fun (s : State) (q : Nat) =>
    match look (s.core c).rings q with
    | some r => match popHead 1 r with | some r => setRing s c q r | none => s
    | none => s
  if qa = qb then (if keepb then s else pop s qa) else if keepb then pop s qa else pop (pop s qa) qb

/-- The start event of a matrix operation of a slot (R253). -/
def mmaRun (s : State) (c t : Nat) (o : Mop) : MmaRun :=
  let l := s.slot c t
  let a := (ringFor s c t o.qa).getD ⟨0, 0, 0, 1, 0, 0, 0⟩
  let b := (ringFor s c t o.qb).getD ⟨0, 0, 0, 1, 0, 0, 0⟩
  { slot := t, seq := o.seq, qa := o.qa, qb := o.qb
    result := mmaResult s c (lookD (s.core c).accs (accNo l o.acc) {}) (maskPair l o.acc) o.zero o.fmts a b
    doneAt := (s.core c).cyc + (formShape o.fmts.1).2.2.2.2 }

/-- The effect at retirement (R253): the accumulator takes the result, and the tiles are popped. -/
def mmaCommit (s : State) (acc qa qb : Nat) (keepb : Bool) (r : Acc) : State :=
  popTiles (setAcc s s.iss.core (accNo s.cur acc) { r with live := true }) s.iss.core qa qb keepb

/-- The matrix operation of an instruction: form, accumulator, rings, .keepb, and whether it starts from zero. -/
def mmaOperands : Instr → Option (MForm × Nat × Nat × Nat × Bool × Bool)
  | .mma f a qa qb k => some (f, a, qa, qb, k, false)
  | .mmaz f a qa qb k => some (f, a, qa, qb, k, true)
  | _ => none

/-- The formats of a matrix operation of the bundle in issue (R251, R252). -/
def mmaFmtsOf (s : State) (form : MForm) : Fmt × Fmt × Fmt × Bool := (mmaFmts s.cur.latch s.iss.dt form).getD (.f32, .f32, .f32, false)

/-- The checks of a matrix operation at issue (R253): info and ring of the trap. -/
def mmaFails (s : State) (form : MForm) (acc qa qb : Nat) : Option (Nat × Nat) :=
  let f := mmaFmtsOf s form
  if (accOfCur s acc).shape ≠ (formShape f.1).2.2.1 then some (4, qa) else ringFails s s.iss.core s.iss.slot qa qb f.1 f.2.1

/-- The operation that an instruction issues. -/
def newMop (s : State) (form : MForm) (acc qa qb : Nat) (zero : Bool) : Mop :=
  { seq := s.env.fresh, fmts := mmaFmtsOf s form, acc := acc, qa := qa, qb := qb, zero := zero }

/-- The bundle's matrix operation issues, and the count of its wait starts (R253). -/
def issueMma (s : State) (form : MForm) (acc qa qb : Nat) (zero : Bool) : State :=
  s.tick.2.modCur (fun l => { l with mop := some (newMop s form acc qa qb zero), waitFrom := 0, waitSeq := 0 })

/-- A waiting operation of another slot that has issued before and whose tiles are present (R253). -/
def olderMma (s : State) (c t seq : Nat) : Bool :=
  (s.core c).slots.any (fun p => p.1 != t && (match p.2.mop with
    | some o => !o.started && decide (o.seq < seq) && tilesReady s c p.1 o.qa o.qb
    | none => false))

/-- No other slot of the core can issue, or reach the limit of a wait, while an operation runs. -/
def aloneOn (k : Core) (t : Nat) : Bool :=
  k.slots.all (fun p => p.1 == t || (p.2.phase != .ready && (p.2.phase != .waiting || wbits p.2.waitlim 31 0 == 0)))

/-- A matrix operation starts and retires with its bundle: accesses are prompt, the unit is free, both tiles are published and hold no
poisoned word, no older operation waits for it, no store of the thread is outstanding (the pop is a release, R250), and no other slot acts in
its cycles. DESIGN CHOICE (log 25, unsafe). -/
def mmaAtOnce (s : State) (acc qa qb : Nat) : Bool :=
  s.env.prompt && tilesReady s s.iss.core s.iss.slot qa qb && (tilesPoison s s.iss.core s.iss.slot qa qb (maskPair s.cur acc)).isNone
    && !olderMma s s.iss.core s.iss.slot s.env.fresh && s.cur.unack == 0 && aloneOn s.here s.iss.slot

/-- The wait of a bundle for its matrix operation (R253): for its start, or for its retirement. -/
def mmaWait (o : Mop) : Wait := if o.started then .reply 0 else .retry (.tile o.qa o.qb)

/-- MMA and MMAZ (R253): the checks at issue, the wait for the unit and the tiles, the start, and the retirement after the form's cycles.
Where nothing else acts on the core meanwhile the operation starts and retires with its bundle; else MMA_START and MMA_RETIRE are events
of their own. DESIGN CHOICE (log 25, unsafe). -/
def mmaBody (form : MForm) (acc qa qb : Nat) (keepb zero : Bool) : Act := fun s =>
  match s.cur.mop with
  | some o =>
    match s.here.mma with
    | some r =>
      if o.started && o.done && r.seq == o.seq then
        if s.cur.unack ≠ 0 then .error (.wait (mmaWait o) s)
        else
          .ok ((mmaCommit s acc qa qb keepb r.result).modHere (fun k => { k with mma := none })
            |>.modCur (fun l => { l with mop := none }))
      else .error (.wait (mmaWait o) s)
    | none => .error (.wait (mmaWait o) s)
  | none =>
    match mmaFails s form acc qa qb with
    | some e => .error (.trap cRING e.1 (wd e.2))
    | none =>
      if mmaAtOnce s acc qa qb then
        let r := mmaRun s s.iss.core s.iss.slot (newMop s form acc qa qb zero)
        .ok ((mmaCommit s acc qa qb keepb r.result).modHere (fun k => { k with cyc := r.doneAt }))
      else .error (.wait (.retry (.tile qa qb)) (issueMma s form acc qa qb zero))

/-- MMA (R253). DESIGN CHOICE (log 25, unsafe). -/
def execMma (form : MForm) (acc qa qb : Nat) (keepb : Bool) (s : State) : Host.Outcome State Fault Refusal :=
  guard (.mma form acc qa qb keepb) (mmaBody form acc qa qb keepb false) s

/-- MMAZ (R253). -/
def execMmaz (form : MForm) (acc qa qb : Nat) (keepb : Bool) (s : State) : Host.Outcome State Fault Refusal :=
  guard (.mmaz form acc qa qb keepb) (mmaBody form acc qa qb keepb true) s

/-- A matrix operation of a slot may start: it has issued, the unit is free, both rings hold a tile, or one of them is unset, and no older
operation can start (R253). A ring that is unset has no tile to wait for. DESIGN CHOICE (log 25, unsafe). -/
def mmaMayStart (s : State) (c t : Nat) (o : Mop) : Bool :=
  !o.started && (s.slot c t).phase == .waiting && (s.core c).mma.isNone && !olderMma s c t o.seq
    && (tilesReady s c t o.qa o.qb || (ringFor s c t o.qa).isNone || (ringFor s c t o.qb).isNone)

/-- MMA_START (R253): the rings are checked again, and the operation reads its tiles in one event; a poisoned word of a tile is reported as
that of a load is (R2, R199). The spec names no trap of MMA for one. DEDUCED (log 74, unsafe). -/
def mmaStart (c t : Nat) (s : State) : State :=
  let l := s.slot c t
  match l.mop with
  | some o =>
    if mmaMayStart s c t o then
      match ringFails s c t o.qa o.qb o.fmts.1 o.fmts.2.1, tilesPoison s c t o.qa o.qb (maskPair l o.acc) with
      | some e, _ => trapWaiting s c t cRING e.1 (wd e.2)
      | none, some va => trapWaiting s c t cPOISON 0 va
      | none, none =>
        ((s.wake c).modCore c (fun k => { k with mma := some (mmaRun s c t o) })).modSlot c t (fun l => { l with
          mop := some { o with started := true }
          wait := match l.wait with | some (.reply n) => some (.reply n) | _ => some (.reply 0) })
    else s
  | none => s

/-- MMA_START (R253). -/
def execMmaStart (core slot : Nat) (s : State) : Host.Outcome State Fault Refusal :=
  event (slotOk core slot) (mmaStart core slot) s

end Sys2Proof.Machine
end

