-- ==== Sys2Proof/Machine/Issue.lean ====
section
/-!
DEFINITION. The issue of a bundle (R22, R26, R42, R43, R157, R160, R161): its fetch and checks, both its slots, its retirement, and what
stands at the boundary after it. The meaning of an instruction is an argument, so that the events that bring a reply can resume the
bundle that waits for it.
-/
namespace Sys2Proof.Machine

/-- The meaning of the instructions. -/
abbrev Meaning := Instr → State → Host.Outcome State Fault Refusal

/-- The state after an instruction of a bundle. A well-formed instruction of a ready thread always answers a next state. -/
def applyInstr (ex : Meaning) (i : Instr) (s : State) : State :=
  match ex i s with
  | .next t => t
  | _ => s

/-- A bundle's issue begins. `latch` holds the sources of a bundle that has passed steps 1 to 8 of R42 before (R22). -/
def startIssue (c t bundle : Nat) (latch : Option (SMap Word)) (s : State) : State :=
  { s with iss := { core := c, slot := t, bundle := bundle, npc := (s.slot c t).pc + 8, passed := latch.isSome, src := latch
                    dt := (s.slot c t).dtsel } }

/-- The instructions of a bundle, the C-slot first. -/
def bundleInstrs : Bundle → List Instr
  | .lone i => [i]
  | .pair c a => [c, a]

/-- What follows both slots of a paired bundle. -/
def finishPair (is : List Instr) (s : State) : State :=
  (retire s is).iss.post.foldl (fun t p =>
    match p with
    | .exit => (endThread t t.iss.core t.iss.slot false).ended .ended
    | p => applyPost t p) (retire s is)

/-- C-slot instructions that send an access: it is sent when the bundle issues, whatever its matrix operation waits for (R22, R253). -/
def sendsAccess : Instr → Bool
  | .ldI8 _ _ _ | .ldN8 _ _ _ | .ldI16 _ _ _ | .ldN16 _ _ _ | .ldI32 _ _ _ | .ldN32 _ _ _ | .ldI64 _ _ _ | .ldv _ _ _ | .ldaI64 _ _ _
  | .stI8 _ _ _ | .stI16 _ _ _ | .stI32 _ _ _ | .stI64 _ _ _ | .stv _ _ _ | .stlI64 _ _ _ | .rcfg _ _ _ => true
  | _ => false

/-- C-slot instructions that are performed as the bundle retires, so that nothing of a bundle stands whose matrix operation traps (R43,
R135): stores, and RCFG. -/
def performsLast : Instr → Bool
  | .stI8 _ _ _ | .stI16 _ _ _ | .stI32 _ _ _ | .stI64 _ _ _ | .stv _ _ _ | .stlI64 _ _ _ | .rcfg _ _ _ => true
  | _ => false

/-- A C-slot whose access is sent while the bundle's matrix operation waits or runs: it goes on its way by itself. -/
def runHead (ex : Meaning) (c : Instr) (s : State) : State :=
  if sendsAccess c then
    let t := applyInstr ex c { s with env := { s.env with prompt := false } }
    { t with env := { t.env with prompt := s.env.prompt } }
  else applyInstr ex c s

/-- A bundle whose matrix operation has issued (R22, R253, R254): it retires once its C-slot and the operation have ended, and waits until
then. A load is sent as the operation waits; a store or RCFG is performed once the operation has run its cycles, and sees its pop.
DESIGN CHOICE (log 25, unsafe). -/
def awaitMma (ex : Meaning) (c a : Instr) (s : State) : State :=
  if performsLast c then
    let u := applyInstr ex a s
    if u.iss.out ≠ .running then u
    else
      let v := applyInstr ex c u
      if v.iss.out = .running then finishPair [c, a] v else applyInstr ex c s
  else
    let t := runHead ex c s
    if t.iss.out ≠ .running then t
    else
      let u := applyInstr ex a t
      if u.iss.out = .running then finishPair [c, a] u else applyInstr ex a s

/-- A bundle with a matrix operation in its A-slot (R22, R43, R253, R254). A C-slot that traps at issue, or is dropped, prevents the
operation from issuing, and so does one that waits for anything but its access; the operation's own checks at issue come before anything
of the C-slot is performed, and see nothing of it. DESIGN CHOICE (log 25, unsafe). -/
def pairMma (ex : Meaning) (c a : Instr) (m : MForm × Nat × Nat × Nat × Bool × Bool) (s0 s : State) : State :=
  if s.cur.mop.isSome then awaitMma ex c a s
  else
    let t := applyInstr ex c s
    if t.iss.out ≠ .running ∧ ¬(t.iss.out = .waiting ∧ sendsAccess c = true) then t
    else
      match mmaFails s m.1 m.2.1 m.2.2.1 m.2.2.2.1 with
      | some e => stopped true s0 (.trap cRING e.1 (wd e.2))
      | none =>
        if t.iss.out = .running ∧ mmaAtOnce s m.2.1 m.2.2.1 m.2.2.2.1 = true then finishPair [c, a] (applyInstr ex c (applyInstr ex a s))
        else awaitMma ex c a (issueMma s m.1 m.2.1 m.2.2.1 m.2.2.2.1 m.2.2.2.2.2)

/-- Both slots of a paired bundle (R22, R43, R161): the checks for both, the sources latched, the C-slot, the A-slot. Of the A-slot's
instructions only a matrix operation can stop after the checks. DESIGN CHOICE (log 57, unsafe). -/
def runPair (ex : Meaning) (c a : Instr) (s : State) : State :=
  let s1 := s.modIss (fun i => { i with pair := true, src := some s.srcFile })
  match (if s.iss.passed then .ok () else checks s1 [c, a]) with
  | .error e => stopped false s e
  | .ok () =>
    let s2 := s1.modIss (fun i => { i with passed := true })
    match mmaOperands a with
    | some m => pairMma ex c a m s s2
    | none =>
      let t := applyInstr ex c s2
      if t.iss.out = .running then finishPair [c, a] (applyInstr ex a t) else t

/-- The instructions of a bundle. -/
def runInstrs (ex : Meaning) (b : Bundle) (s : State) : State :=
  match b with
  | .lone i => applyInstr ex i s
  | .pair c a => runPair ex c a s

/-- A bundle that has retired: the pc moves on, and a single step enters the handler (R139). `te` is `st.te` at its issue.
DESIGN CHOICE (log 52, unsafe). -/
def retired (te : Bool) (s : State) : State :=
  let t := s.modCur (fun l => { l.awake with pc := s.iss.npc })
  if t.cur.st.ss && !te then takeTrap t t.iss.core t.iss.slot cBKPT 0 0 t.cur.pc else t

/-- The debugger stops a slot, as by pre-emption (R217). -/
def debugStop (c t : Nat) (s : State) : State :=
  stopSlot c t (s.modSlot c t (fun l => { l with rudb := true, oneStep := false, passBrk := none }))

/-- A cancel or a pre-emption of a slot takes effect once nothing of its thread is outstanding (R142, R152, R160). -/
def settle (c t : Nat) (s : State) : State := tryStop (tryEnd s c t) c t

/-- The boundary after a bundle of a slot: a cancel or a pre-emption that waits for it takes effect (R142, R152), and a single step of
the debugger is over (R217). -/
def boundary (c t : Nat) (s : State) : State :=
  let s := if (s.slot c t).oneStep && (s.slot c t).phase == .ready && (s.slot c t).held.isNone then debugStop c t s else s
  settle c t s

/-- Run a bundle of a slot, from its checks or, with `latch`, from where it waits. After a wait of step 8 of R42 steps 3 and 5 to 8 are made
again: a privileged bit of `st` that an unprivileged thread's CSRW, CSRS or CSRC would change by a source that has changed meanwhile traps then.
DESIGN CHOICE (log 64, unsafe). -/
def runBits (ex : Meaning) (c t : Nat) (b : Bundle) (bundle : Nat) (latch : Option (SMap Word)) (s : State) : State :=
  let te := (s.slot c t).st.te
  let vw := (s.slot c t).st.vw
  let s := if latch.isNone then s.modSlot c t (countBundle true te vw t) else s
  let u := runInstrs ex b (startIssue c t bundle latch s)
  let u :=
    match u.iss.out with
    | .running => retired te u
    | .waiting =>
      if latch.isNone && (match (u.slot c t).held with | some h => h.latch.isNone | none => true) then
        u.modSlot c t (countBundle false te vw t)
      else u
    | .dropped => u.modSlot c t (countBundle false te vw t)
    | _ => u
  boundary c t u

/-- The bundle of a thread issues (R42): steps 1 to 4, then the bundle. A bundle that step 3 refuses by its encoding alone has not issued, so it
is not counted towards `msglim` or a view's limit; one that a later step or the state refuses is. The spec does not say which bundles that trap
ILLEGAL count. DESIGN CHOICE (log 52, unsafe). -/
def issueNew (ex : Meaning) (c t : Nat) (s : State) : State :=
  let l := s.slot c t
  let s := s.modSlot c t (fun l => { l with passBrk := none, woken := false, yielded := none })
  let bundle := s.code c l.pc
  if overLimit s c t then boundary c t (takeTrap s c t cMSGLIMIT 0 l.handler l.pc)
  else if 0x8000 ≤ l.pc.toNat || (s.seg c (l.pc.toNat / 4096)).st != .landed then
    boundary c t (takeTrap s c t cOVERLAY 0 l.pc l.pc)
  else
    match decodeBundle bundle with
    | .error _ => boundary c t (takeTrap s c t cILLEGAL 0 (wd bundle) l.pc)
    | .ok b =>
      if viewExpires l && !nextIsCvend s c t && !(bundleInstrs b).any (illegalNow (startIssue c t bundle none s)) then boundary c t (expireView c t s)
      else runBits ex c t b bundle none s

/-- Go on with the bundle that a slot holds: it waits no more, or tries its condition again. -/
def resume (ex : Meaning) (c t : Nat) (s : State) : State :=
  match (s.slot c t).held with
  | none => s
  | some h =>
    match decodeBundle h.bundle with
    | .error _ => s
    | .ok b => runBits ex c t b h.bundle h.latch ((s.modCore c (Core.notBefore t)).modSlot c t Slot.again)

/-- A slot may issue: its thread is ready, its context runs, and its core is there (R128, R160, R351). -/
def mayIssue (s : State) (c t : Nat) : Bool :=
  let l := s.slot c t
  let x := (s.ctx (s.ctxOf c t)).st
  l.phase == .ready && l.held.isNone && !l.stopping && !l.cancelled && !(s.core c).absent && (x == .runnable || x == .running)

/-- A breakpoint stops the thread before the bundle at its pc issues, but the first issue after it leaves that stop (R217). -/
def atBreakpoint (s : State) (c t : Nat) : Bool :=
  let pc := (s.slot c t).pc.toNat
  s.manage.breaks.contains (s.ctxOf c t, c, t, pc) && (s.slot c t).passBrk != some pc

/-- The first cycle in which a ready slot may issue (R157): eight cycles after its last issue, and after a YIELD not before another slot
of the core has issued or 64 cycles have passed. DESIGN CHOICE (log 12, unsafe). -/
def turnAt (k : Core) (t : Nat) : Nat :=
  let n := max (if k.busy then k.cyc + 1 else k.cyc) (lookD k.turns t 0)
  match (k.slot t).yielded with
  | some (issued, at_) => if issued < k.issued then n else max n (at_ + 64)
  | none => n

/-- The slots of a core that may issue, in the order of the rotation after the slot that issued last. -/
def rotation (s : State) (c : Nat) : List Nat :=
  let ready := ((s.core c).slots.map (·.1)).filter (mayIssue s c)
  ready.filter (fun t => decide ((s.core c).lastSlot < t)) ++ ready.filter (fun t => decide (t ≤ (s.core c).lastSlot))

/-- The slot that issues next on a core, and its cycle: the first of the rotation in the first cycle that allows one (R157). -/
def nextSlot (s : State) (c : Nat) : Option (Nat × Nat) :=
  let k := s.core c
  match rotation s c with
  | [] => none
  | t :: r =>
    let n := r.foldl (fun m u => min m (turnAt k u)) (turnAt k t)
    ((t :: r).find? (fun u => decide (turnAt k u ≤ n))).map (·, n)

/-- It is the slot's turn: the rotation chooses it next on its core (R157). -/
def itsTurn (s : State) (c t : Nat) : Bool := (nextSlot s c).any (·.1 == t)

/-- The slot's turn of the barrel (R157): its bundle issues; the core's count stands at the cycle of the issue during it. -/
def turn (ex : Meaning) (c t : Nat) (s : State) : State :=
  if mayIssue s c t && itsTurn s c t then
    if atBreakpoint s c t then debugStop c t s
    else
      let n := turnAt (s.core c) t
      let x := s.ctxOf c t
      let s := if (s.ctx x).st = .runnable then s.modCtx x (fun k => { k with st := .running }) else s
      issueNew ex c t (s.modCore c (fun k => { k with
        cyc := n, busy := true, lastSlot := t, issued := k.issued + 1, gated := false, turns := put k.turns t (n + 8) }))
  else s

/-- The bundle of a thread waits for the reply of an access. -/
def awaits (s : State) (c t uid id : Nat) : Bool :=
  (s.slot c t).phase == .waiting && (s.slot c t).uid == uid && (s.slot c t).wait == some (.reply id)

/-- The events that end a bundle's wait for a reply. A bundle of a cancelled thread is dropped then, but one whose matrix operation has
started retires first (R152, R254). -/
def replyTo (ex : Meaning) (c t uid id : Nat) (bs : List Byte) (s : State) : State :=
  let l := s.slot c t
  if awaits s c t uid id = false then settle c t s
  else if l.cancelled && !l.mop.any (·.started) then tryEnd (s.modSlot c t Slot.awake) c t
  else resume ex c t ((s.wake c).modSlot c t (fun l => { l with reply := some bs }))

/-- A bundle's access is refused at the place it went to: the bundle traps (R43, R109, R199). -/
def refuseTo (c t uid id cause : Nat) (va : Word) (s : State) : State :=
  let l := s.slot c t
  if awaits s c t uid id = false then settle c t s
  else if l.cancelled then tryEnd (s.modSlot c t Slot.awake) c t
  else boundary c t (trapWaiting s c t cause 0 va)

end Sys2Proof.Machine
end

