-- ==== Sys2Proof/Machine/Line.lean ====
section
/-!
DEFINITION. The line instructions (R200, R201), the command core's discard (R179), uncorrectable errors (R199), and the
eviction and recall of a line (R193, R197).
-/
namespace Sys2Proof.Machine

/-! Ranges of lines and pages. -/

/-- The range of a line instruction breaks a limit (R200). -/
def badRange (va len : Word) (page : Bool) : Bool :=
  va.getLsbD 63 || wbits va 62 57 != 0 || decide (2 ^ 30 < len.toNat)
    || (page && (va.toNat % 4096 != 0 || len.toNat % 4096 != 0))

/-- The lines of a range as addresses: the first byte of the first and the byte after the last; none for a length of 0. -/
def lineRange (va len : Word) : Nat × Nat :=
  if len = 0 then (0, 0) else (va.toNat / 128 * 128, (va.toNat + len.toNat + 127) / 128 * 128)

/-- The leaf pages that meet a range, from an address on: address of the page, level, page bits, entry. A page that is not
present is skipped. -/
def leavesIn (s : State) (x hi : Nat) : Nat → Nat → List (Nat × Nat × Nat × Word)
  | 0, _ => []
  | f + 1, va =>
    if hi ≤ va then []
    else
      match leafOf s x (wd va) with
      | some (lvl, pb, e) => (va / 2 ^ pb * 2 ^ pb, lvl, pb, e) :: leavesIn s x hi f ((va / 2 ^ pb + 1) * 2 ^ pb)
      | none => leavesIn s x hi f ((va / 4096 + 1) * 4096)

/-- The leaf pages of a range. -/
def leaves (s : State) (x lo hi : Nat) : List (Nat × Nat × Nat × Word) := leavesIn s x hi ((hi - lo) / 4096 + 2) lo

/-- WBACK (R200): every registered word of the lines goes back to its home, and memory accepts every write. -/
def writeBack (s : State) (x lo hi : Nat) : State :=
  let s := (regsIn s x lo hi).foldl (fun s g => recallOne s g.2.1 x g.1 g.2.2) s
  { s with unwritten := s.unwritten.filter (fun w => !(decide (wordKey x lo ≤ w.1) && decide (w.1 < wordKey x (min hi (2 ^ 57))))) }

/-- A request for a line of a range waits at its home, or is on its way there from the core (R195, R196). -/
def linesBehind (s : State) (c x lo hi : Nat) : Bool :=
  s.flights.any (fun f => !f.isFabric && f.ctx == x && f.lines.any (fun l => decide (lo / 128 ≤ l) && decide (128 * l < hi)) && (match f.stage with
    | .translated | .invalidating _ _ => true
    | .issued => f.core == c && !joined s f
    | _ => false))

/-- WBACK (R200); its requests wait at the homes behind those that have come before (R195). -/
def execWback (d : Nat) (a b : Src) (s : State) : Host.Outcome State Fault Refusal :=
  guard (.wback d a b) (fun s =>
    if badRange (rx s a.r) (rx s b.r) false then .ok (wx s d 1)
    else
      let r := lineRange (rx s a.r) (rx s b.r)
      if linesBehind s s.iss.core s.myCtx r.1 r.2 then .error (.wait (.retry .unbounded) s)
      else .ok (wx (writeBack s s.myCtx r.1 r.2) d 0)) s

/-- A core loses its copies and victims of a range; registered words are written back, notices are sent (R200). -/
def dropCopies (s : State) (c x lo hi : Nat) : State :=
  let mine := ((c :: (List.range 4).map (quadMember c)).flatMap (fun k => (s.core k).lines)).filter (fun l =>
    l.owner == c && l.ctx == x && decide (lo ≤ 128 * l.line) && decide (128 * l.line < hi))
  mine.foldl (fun s l =>
    if l.st = .registered then endRegistration s c x l.line
    else sendNotice (dropLine s c x l.line) c x l.line) s

/-- LINV (R200). -/
def execLinv (d : Nat) (a b : Src) (s : State) : Host.Outcome State Fault Refusal :=
  guard (.linv d a b) (fun s =>
    if badRange (rx s a.r) (rx s b.r) false then .ok (wx s d 1)
    else
      let r := lineRange (rx s a.r) (rx s b.r)
      .ok (wx (dropCopies s s.iss.core s.myCtx r.1 r.2) d 0)) s

/-- The words of a page that are registered, or whose write-back is queued, are lost: the frame keeps its old data (R200, R201).
DESIGN CHOICE (log 18, unsafe). -/
def loseWords (s : State) (x : Nat) (p : Nat × Nat × Nat × Word) : State :=
  (unwrittenIn s x p.1 (p.1 + 2 ^ p.2.2.1)).foldl (fun s w =>
    s.setNum (memKey (eTier p.2.2.2) (eFrame p.2.2.2 * 4096) + (w.1 - p.1)) 8 w.2.toNat) s

/-- DISCARD of pages (R200, R201): their leaves become dead, their copies and registered words go, and their entries are
dropped as by PGINV. DESIGN CHOICE (log 18, unsafe). -/
def discardPages (s : State) (x : Nat) (ps : List (Nat × Nat × Nat × Word)) : State :=
  ps.foldl (fun s p =>
    invalidatePages (setLeafBit (loseWords s x p) x p.1 p.2.1 p.2.2.1 8 true) x p.1 (p.1 + 2 ^ p.2.2.1)) s

/-- A leaf page of the range is only partly covered (R200). -/
def partlyCovered (lo hi : Nat) (ps : List (Nat × Nat × Nat × Word)) : Bool :=
  ps.any (fun p => decide (p.1 < lo) || decide (hi < p.1 + 2 ^ p.2.2.1))

/-- DISCARD (R200). DESIGN CHOICE (log 18, unsafe). -/
def execDiscard (d : Nat) (a b : Src) (s : State) : Host.Outcome State Fault Refusal :=
  guard (.discard d a b) (fun s =>
    let va := rx s a.r
    let hi := va.toNat + (rx s b.r).toNat
    let x := s.myCtx
    if badRange va (rx s b.r) true then .ok (wx s d 1)
    else if rx s b.r = 0 then .ok (wx s d 0)
    else
      let ps := leaves s x va.toNat hi
      if partlyCovered va.toNat hi ps then .ok (wx s d 2)
      else
        match drained s with
        | .error e => .error e
        | .ok s => settled (fun _ => (va.toNat, hi)) (fun s => .ok (wx (discardPages s x ps) d 0)) s) s

/-- LCLR on the lines of a leaf page (R200): every poisoned word becomes 0, its tag empty, its mark cleared; a tag that changes is an event
of its line's queue (R204). DESIGN CHOICE (log 18, unsafe). -/
def clearPoison (x lo hi : Nat) (s : State) (p : Nat × Nat × Nat × Word) : State :=
  let k := memKey (eTier p.2.2.2) (eFrame p.2.2.2 * 4096)
  let first := k + (max lo p.1 - p.1)
  let last := k + (min hi (p.1 + 2 ^ p.2.2.1) - p.1)
  (s.poison.filter (fun w => decide (first ≤ 8 * w) && decide (8 * w < last))).foldl (fun s w =>
    retag x (wd (p.1 + (8 * w - k))) (8 * w) false ((s.setNum (8 * w) 8 0).setPoison (8 * w) false)) s

/-- LCLR (R200); its requests wait at the homes behind those that have come before (R195). DESIGN CHOICE (log 18, unsafe). -/
def execLclr (d : Nat) (a b : Src) (s : State) : Host.Outcome State Fault Refusal :=
  guard (.lclr d a b) (fun s =>
    if badRange (rx s a.r) (rx s b.r) false then .ok (wx s d 1)
    else
      let r := lineRange (rx s a.r) (rx s b.r)
      let ps := leaves s s.myCtx r.1 r.2
      if linesBehind s s.iss.core s.myCtx r.1 r.2 then .error (.wait (.retry .unbounded) s)
      else
        let s := (ps.filter (fun p => !eCg p.2.2.2)).foldl (clearPoison s.myCtx r.1 r.2) s
        .ok (wx s d (if ps.any (fun p => eCg p.2.2.2) then 3 else 0))) s

/-- The sheet has marked a range dead (R179): it lies in the storage of a cell that it has freed, whose unbinding a wave has committed and
which no live view can reach (R280); the storage of a version that a sweep destroyed is not so marked, for a view may reach the version. The
spec names no other moment of the mark. DESIGN CHOICE (log 70, unsafe). -/
def markedDead (k : Ctx) (addr len : Nat) : Bool :=
  k.unmaps.any (fun u => u.dead && decide (cellBase ≤ u.addr) && decide (u.addr ≤ addr) && decide (addr + len ≤ u.addr + u.size))

/-- DEAD_RANGE_DISCARD (R179): a command core discards a range that the sheet has marked dead. -/
def deadDiscard (x addr len : Nat) (s : State) : State :=
  let ps := leaves s x addr (addr + len)
  if (s.ctx x).st = .free ∨ markedDead (s.ctx x) addr len = false ∨ badRange (wd addr) (wd len) true = true
    ∨ partlyCovered addr (addr + len) ps = true ∨ entryInUse s x addr (addr + len) = true then s
  else discardPages s x ps

/-- DEAD_RANGE_DISCARD (R179). -/
def execDeadRangeDiscard (ctx addr len : Nat) (s : State) : Host.Outcome State Fault Refusal :=
  event true (deadDiscard ctx addr len) s

/-- A word that an error can strike: stacked DRAM, far memory, a local array, or a word of host memory while its home slice holds its line
(R199, R339). -/
def strikable (s : State) (key : Nat) : Bool :=
  decide (key < 2 ^ 49) || (decide (2 ^ 63 ≤ key) && decide (key < 2 ^ 64)) || (decide (key < 3 * 2 ^ 48) && s.hostLines.contains (key / 128))

/-- UNCORRECTABLE_ERROR (R199): the word is poisoned, and the Daward controller counts the error (R350). -/
def uncorrectable (key : Nat) (s : State) : State :=
  if strikable s key then (s.setPoison key true).modManage (fun m => { m with uncorrected := m.uncorrected + 1 }) else s

/-- UNCORRECTABLE_ERROR (R199). -/
def execUncorrectableError (key : Nat) (s : State) : Host.Outcome State Fault Refusal := event true (uncorrectable key) s

/-- EVICTION_NOTICE (R193, R194, R196): a notice on its way reaches the home, behind the earlier requests of its core; else a core whose cache
portion is full evicts a line, and sends its notice. DESIGN CHOICE (log 15, unsafe). -/
def evict (c x line : Nat) (s : State) : State :=
  match s.notices.find? (fun n => n.core == c && n.ctx == x && n.line == line) with
  | some n =>
    if sentBefore { s with notices := s.notices.takeWhile (· != n) } c x (128 * line) n.seq then s
    else takeNotice { s with notices := dropFirst (· == n) s.notices } c x line
  | none =>
    match (s.core c).lines.find? (fun l => l.ctx == x && l.line == line) with
    | some l => if cacheRoom (s.core c) then s else evictLine s c l
    | none => s

/-- EVICTION_NOTICE (R194). -/
def execEvictionNotice (core ctx line : Nat) (s : State) : Host.Outcome State Fault Refusal :=
  event (decide (core < coreCount)) (evict core ctx line) s

/-- RECALL (R197): a registrant writes back words of a line and clears them from its mask. -/
def recallFrom (c x line mask : Nat) (s : State) : State := recallOne s c x line mask

/-- RECALL (R197). -/
def execRecall (core ctx line mask : Nat) (s : State) : Host.Outcome State Fault Refusal :=
  event (decide (core < coreCount)) (recallFrom core ctx line mask) s

end Sys2Proof.Machine
end

