-- ==== Sys2Proof/Machine/Tap.lean ====
section
/-!
DEFINITION. The tap instructions (R310 to R313, R319 to R323).
-/
namespace Sys2Proof.Machine

/-! The descriptor and the probe table (R310, R311). -/

/-- The fields of a tap descriptor (R311). -/
structure TapDesc where
  probe : Word
  rpr : Nat
  nrm : Bool
  ord : Bool
  nsv : Nat
  map : Nat
  gain : Nat
  eps : Lane
  base : Nat
  deriving DecidableEq, Repr, Inhabited

/-- A positive finite FP32 value. -/
def posFinite (v : Lane) : Bool := decide (0 < v.toNat) && decide (v.toNat < b32.infBits)

/-- The descriptor, unless it is BADDESC by itself (R311, R313). DESIGN CHOICE (log 36, unsafe). -/
def parseTap (bs : List Byte) : Option TapDesc :=
  let w := fun i => ofBytes ((bs.drop (8 * i)).take 8)
  let d : TapDesc := { probe := wd (w 0), rpr := bits (w 1) 3 0, nrm := (w 1).testBit 4, ord := (w 1).testBit 5, nsv := bits (w 1) 19 11
                       map := w 2, gain := w 3, eps := BitVec.ofNat 32 (bits (w 4) 31 0), base := w 5 }
  if bits (w 1) 10 6 = 0 ∧ bits (w 1) 63 20 = 0 ∧ bits (w 4) 63 32 = 0 ∧ w 6 = 0 ∧ w 7 = 0
    ∧ [1, 2, 4].contains d.rpr = true
    ∧ (if d.nrm then posFinite d.eps else d.eps == 0 && d.gain == 0) = true
    ∧ d.nsv ≤ 256 ∧ (d.nsv ≠ 0 ∨ d.base = 0) ∧ d.map % 4 = 0 ∧ d.gain % 64 = 0 ∧ d.base % 64 = 0 then some d
  else none

/-- A map entry's reserved bits are zero, and its steering vector exists (R312, R313). -/
def mapOk (nsv : Nat) (m : Lane) : Bool := bits m.toNat 31 25 == 0 && (!mSt m || decide (mSv m < nsv))

/-- 32-bit and 16-bit values of bytes. -/
def lanesOf (bs : List Byte) : List Lane := (List.range (bs.length / 4)).map (fun i => BitVec.ofNat 32 (ofBytes ((bs.drop (4 * i)).take 4)))
def halvesOf (bs : List Byte) : List (BitVec 16) := (List.range (bs.length / 2)).map (fun i => BitVec.ofNat 16 (ofBytes ((bs.drop (2 * i)).take 2)))

/-- The index that a probe handle names (R310): kind 4, tag 0, one of 256 records. -/
def probeIndex (h : Word) : Option Nat :=
  let i := hObj h
  if i < 256 ∧ h = wd (2 ^ 62 + i * 2 ^ 36) then some i else none

/-- A tap's cell may be tapped (R313). -/
def tapCellOk (b : Binding) (rpr : Nat) : Bool := !b.input && (tapFmt b.fmt).isSome && b.rows % rpr == 0

/-- The map of a descriptor (R311): one entry for each logical row. -/
def readMap (s : State) (d : TapDesc) (b : Binding) : Except Stop (List Lane × State) :=
  match readRange s (wd d.map) (4 * (b.rows / d.rpr)) forLoad with
  | .error e => .error e
  | .ok (bs, s) => .ok (lanesOf bs, s)

/-- The probe record of a handle: weights' address, control word, threshold and bias; none for BADPROBE (R310, R313). R313 names no status for
a record with a reserved field set or a misaligned address of weights: the model answers BADPROBE.
DESIGN CHOICE (log 36, unsafe). -/
def readProbe (s : State) (d : TapDesc) (b : Binding) : Except Stop (Option (Nat × Nat × Nat × Word) × State) :=
  match probeIndex d.probe with
  | none => .ok (none, s)
  | some i =>
    if (s.ctx s.myCtx).probes = 0 then .ok (none, s)
    else
      match readRange s (wd ((s.ctx s.myCtx).probes + 32 * i)) 32 forLoad with
      | .error e => .error e
      | .ok (bs, s) =>
        let w := fun i => ofBytes ((bs.drop (8 * i)).take 8)
        if bits (w 1) 63 18 = 0 ∧ w 3 = 0 ∧ (w 1).testBit 17 = true ∧ bits (w 1) 15 0 = d.rpr * b.cols ∧ w 0 % 64 = 0 then .ok (some (i, w 0, w 1, wd (w 2)), s)
        else .ok (none, s)

/-- Arm a tap on a cell (R313). -/
def armTap (k : Ctx) (n : Nat) (t : Tap) : Ctx :=
  k.modCell n (fun c => { c with arms := c.arms + 1, taps := c.taps ++ [{ t with arm := c.arms + 1 }] })

/-- TAPARM (R313, R320): a release; the descriptor, the map, the probe record, the weights, the gains and the steering vectors are read
as privileged loads of the issuer, and the tap is armed in one event. -/
def execTaparm (d : Nat) (a h : Src) (s : State) : Host.Outcome State Fault Refusal :=
  guard (.taparm d a h) (withCell false d (fun s => rx s h.r) fun n s =>
    match drained s with
    | .error e => .error e
    | .ok s =>
      let k := s.ctx s.myCtx
      let c := k.cell n
      let va := rx s a.r
      if !aligned va 64 then .ok (cellStatus s d 1)
      else
        match readRange s va 64 forLoad with
        | .error e => .error e
        | .ok (bs, s) =>
          match parseTap bs with
          | none => .ok (cellStatus s d 1)
          | some desc =>
            match readMap s desc c.bind with
            | .error e => .error e
            | .ok (map, s) =>
              if !map.all (mapOk desc.nsv) then .ok (cellStatus s d 1)
              else if !tapCellOk c.bind desc.rpr then .ok (cellStatus s d 2)
              else
                match readProbe s desc c.bind with
                | .error e => .error e
                | .ok (none, s) => .ok (cellStatus s d 3)
                | .ok (some (i, wts, ctl, tb), s) =>
                  if (armedTap c).isSome then .ok (cellStatus s d 4)
                  else
                    let dim := bits ctl 15 0
                    match readRanges s ((wts, 2 * dim) :: (desc.gain, if desc.nrm then 2 * dim else 0)
                        :: (List.range desc.nsv).map (fun v => (desc.base + 2 * dim * v, 2 * dim))) with
                    | .error e => .error e
                    | .ok (rs, s) =>
                      let t : Tap := { arm := 0, probe := i, dir := ctl.testBit 16, dim := dim
                                       thr := tb.extractLsb' 32 32, bias := tb.extractLsb' 0 32
                                       weights := halvesOf (rs.getD 0 []), gains := halvesOf (rs.getD 1 [])
                                       eps := desc.eps, ord := desc.ord, nrm := desc.nrm, rpr := desc.rpr, map := map
                                       steer := (rs.drop 2).map halvesOf }
                      if freeFrames s 0 k.home < t.frames then .ok (cellStatus s d 5)
                      else .ok (wx (s.modCtx s.myCtx (fun k => armTap k n t)) d (wd (c.arms + 1)))) s

/-- A wave that TAPREL or TAPOFF opens, as a lone edit does, or its deferral (R321). -/
def tapEdit (s : State) (d n : Nat) (kind : EditKind) : Except Stop State :=
  let x := s.myCtx
  let e : Edit := { cell := n, kind := kind, phase := phaseOf s s.cur }
  if e.defers (s.ctx x) then .ok (wx (s.modCtx x (fun k => { k with deferred := k.deferred ++ [e] })) d (wd (2 ^ 62)))
  else if exhausted (s.ctx x) then .ok (cellStatus s d 8)
  else if wavesFull (s.ctx x) then .error (waitHere s)
  else
    let r := openWave s x 0 [e] e.phase none
    .ok (wx r.2 d (wd r.1))

/-- The frame of the instructions on an armed tap, each a release (R320, R321, R323): NOTARMED where no tap is armed. -/
def withTap (d : Nat) (h : State → Word) (body : Nat → Tap → Act) : Act :=
  withCell false d h fun n s =>
    match drained s with
    | .error e => .error e
    | .ok s =>
      match armedTap ((s.ctx s.myCtx).cell n) with
      | none => .ok (cellStatus s d 7)
      | some t => body n t s

/-- TAPOFF (R320). DESIGN CHOICE (log 36, unsafe). -/
def execTapoff (d : Nat) (h : Src) (s : State) : Host.Outcome State Fault Refusal :=
  guard (.tapoff d h) (withTap d (fun s => rx s h.r) fun n t s =>
    if t.heldSeqs.isEmpty && t.killed.isEmpty then .ok (wx (s.modCtx s.myCtx (fun k => disarm k n)) d 0)
    else tapEdit s d n .off) s

/-- TAPREL (R321). -/
def execTaprel (d : Nat) (a h : Src) (s : State) : Host.Outcome State Fault Refusal :=
  guard (.taprel d a h) (withTap d (fun s => rx s h.r) fun n t s =>
    let q := wbits (rx s a.r) 15 0
    if t.heldSeqs.contains q || t.killed.contains q then tapEdit s d n (.release [q]) else .ok (cellStatus s d 6)) s

/-- TAPKILL (R321): a held sequence moves to the killed set. -/
def execTapkill (d : Nat) (a h : Src) (s : State) : Host.Outcome State Fault Refusal :=
  guard (.tapkill d a h) (withTap d (fun s => rx s h.r) fun n t s =>
    let q := wbits (rx s a.r) 15 0
    if t.heldSeqs.contains q || t.killed.contains q then
      .ok (wx (s.modCtx s.myCtx (fun k => k.modCell n (fun c => { c with taps := c.taps.map (fun (t : Tap) =>
        if t.armed then { t with heldSeqs := delN t.heldSeqs q, killed := insN t.killed q } else t) }))) d 0)
    else .ok (cellStatus s d 6)) s

/-- TAPRD's values (R322): `arm:1 ord:1 nrm:1 res:13 rpr:4 res:12 nheld:16 nkill:16`, and
`st:2 res:30 score:32`. -/
def tapWord (c : Cell) (sel q : Nat) : Word :=
  match armedTap c with
  | none => if sel = 0 then 0 else wd (3 * 2 ^ 62)
  | some t =>
    if sel = 0 then
      wd (2 ^ 63 + (if t.ord then 2 ^ 62 else 0) + (if t.nrm then 2 ^ 61 else 0) + t.rpr * 2 ^ 44 + t.heldSeqs.length * 2 ^ 16 + t.killed.length)
    else
      match t.seqRows q with
      | [] => wd (3 * 2 ^ 62)
      | l :: _ =>
        wd ((if t.killed.contains q then 2 else if t.heldSeqs.contains q then 1 else 0) * 2 ^ 62 + (lookD t.scores l 0).toNat)

/-- TAPRD (R322). -/
def execTaprd (d : Nat) (a h : Src) (sel : Nat) (s : State) : Host.Outcome State Fault Refusal :=
  guard (.taprd d a h sel) (withCell false d (fun s => rx s h.r) fun n s =>
    .ok (wx s d (tapWord ((s.ctx s.myCtx).cell n) sel (wbits (rx s a.r) 15 0)))) s

end Sys2Proof.Machine
end

