-- ==== Sys2Proof/Machine/Transfer.lean ====
section
/-!
DEFINITION. The transfer thread: taking requests, copies, multicast, save and restore, completion (R221 to R233), with XWPT,
XSUBS and XUNSUB.
-/
namespace Sys2Proof.Machine

/-! Requests (R222, R224, R226). -/

/-- A channel of a core's transfer thread. -/
def Core.chan (k : Core) (n : Nat) : Chan := lookD k.chans n {}
def State.setChan (s : State) (c n : Nat) (h : Chan) : State := s.modCore c (fun k => { k with chans := put k.chans n h })

/-- The fields of an options word (R224). -/
def optCh (w : Word) : Nat := wbits w 2 0
def optOp (w : Word) : Nat := wbits w 4 3
def optMc (w : Word) : Bool := w.getLsbD 5
def optList (w : Word) : Bool := w.getLsbD 6
def optCred (w : Word) : Bool := w.getLsbD 7

/-- The address of the barrier to credit. -/
def optBar (w : Word) : Word := w &&& ~~~ (0xFF : Word)

/-- A global address with non-zero bits 62:57 (R226). -/
def badGlobal (va : Word) : Bool := !va.getLsbD 63 && wbits va 62 57 != 0

/-- A check of R226 fails on the request's words. -/
def badRequest (priv : Bool) (w : List Word) : Bool :=
  let w0 := w.getD 0 0
  let w1 := w.getD 1 0
  let w2 := w.getD 2 0
  let o := w.getD 3 0
  optOp o == 3 || (optOp o != 0 && !priv) || (optMc o && (optList o || optOp o != 0)) || (!optCred o && optBar o != 0)
    || (optCred o && badGlobal (optBar o))
    || (if optOp o != 0 then wbits w0 63 6 != 0 || w2 != 0 || badGlobal w1
        else if optList o then w0 != 0 || w1 != 0 || !aligned w2 32 || badGlobal w2
        else wbits w2 63 40 != 0 || w2 == 0 || badGlobal w0 || (if optMc o then wbits w1 63 16 != 0 else badGlobal w1))

/-- The complete request in the mailboxes, with its writer, when its channel is free (R222). -/
def readyRequest (s : State) (c : Nat) : Option (List Word × (Nat × Nat × Nat × Bool)) :=
  let k := s.core c
  match look k.mbox 3, k.writer with
  | some o, some w =>
    if (k.chan (optCh o)).who.isNone && !k.matches_.any (fun m => m.ch == optCh o) then
      some ([lookD k.mbox 0 0, lookD k.mbox 1 0, lookD k.mbox 2 0, o], w)
    else none
  | _, _ => none

/-- What a request does: 0 copy, 1 multicast, 2 save, 3 restore. A request that fails a check counts as a copy. -/
def requestKind (priv : Bool) (w : List Word) : Nat :=
  let o := w.getD 3 0
  if badRequest priv w then 0 else if optOp o = 1 then 2 else if optOp o = 2 then 3 else if optMc o then 1 else 0

/-- The transfer thread takes the request (R228): the mailboxes empty, and the channel's record is reset; the record of a request that fails
a check keeps its values until the request finishes. -/
def takeRequest (s : State) (c : Nat) (w : List Word) (r : Nat × Nat × Nat × Bool) : State :=
  let o := w.getD 3 0
  let q := s.tick
  let bad := badRequest r.2.2.2 w
  let n := (w.getD 2 0).toNat
  let old := (s.core c).chan (optCh o)
  let h : Chan := {
    st := if bad then old.st else 1, ptr := if bad then old.ptr else 0, who := some r, mb := w, kind := requestKind r.2.2.2 w, req := q.1, ver := s.manage.transfer.active
    segs := if bad || optList o || optOp o != 0 then [] else [((w.getD 0 0).toNat, (w.getD 1 0).toNat, n)]
    total := if bad || optList o || optOp o != 0 then 0 else n
    list := if !bad && optOp o == 0 && optList o then some ((w.getD 2 0).toNat, 0) else none
    finishing := if bad then some (7, 0) else none }
  (q.2.modCore c (fun k => { k with mbox := [], claim := none, writer := none, gated := false })).setChan c (optCh o) h

/-- Take the request in the mailboxes when it is of a kind. -/
def takeKind (kind c : Nat) (s : State) : State :=
  match readyRequest s c with
  | some (w, r) => if requestKind r.2.2.2 w = kind then takeRequest s c w r else s
  | none => s

/-- TRANSFER_COPY (R228). DESIGN CHOICE (log 24, unsafe). -/
def execTransferCopy (core : Nat) (s : State) : Host.Outcome State Fault Refusal :=
  event (decide (core < coreCount)) (takeKind 0 core) s

/-- TRANSFER_MULTICAST (R231). DESIGN CHOICE (log 24, unsafe). -/
def execTransferMulticast (core : Nat) (s : State) : Host.Outcome State Fault Refusal :=
  event (decide (core < coreCount)) (takeKind 1 core) s

/-! Accesses of the transfer thread: privileged, in the requester's context. -/

/-- The requester's context and `thid`. -/
def Chan.ctx (h : Chan) : Nat := match h.who with | some w => w.2.2.1 | none => 0
def Chan.thid (h : Chan) (c : Nat) : Nat := match h.who with | some w => Machine.thid c w.1 | none => 0

/-- An access of a channel is refused: a page fault stalls it with a message of source 1, anything else finishes it
(R227, R228). -/
def chanRefused (s : State) (c n : Nat) (va : Word) (acc : Nat) (st cause : Nat) : Refuse → State
  | .fault f =>
    let h := (s.core c).chan n
    let q := raiseFault s h.ctx va.toNat 1 acc (h.thid c) f (.chan c n)
    q.1.setChan c n { h with st := 2, token := some q.2 }
  | _ => s.setChan c n { (s.core c).chan n with finishing := some (st, cause) }

/-- Read a range for a channel: the bytes, or the state in which it has stalled or is about to finish; it waits for what stands before it
(R195, R196, R331). A poisoned word that it covers stops it, and for a piece of a copy, `line`, any of a source line (R199, R228). -/
def chanRead (s : State) (c n : Nat) (line : Bool) (va : Word) (len : Nat) : Except State (List Byte × State) :=
  let h := (s.core c).chan n
  if engineBehind s c h.ctx va len then .error s
  else
    match locateRange s h.ctx true va len forLoad with
    | .error e => .error (chanRefused s c n e.1 0 5 cREAD e.2)
    | .ok ps =>
      let dirty := ps.any (fun p =>
        if line then (poisonedAt s { p.2.2 with key := p.2.2.key - p.1 % 128 } 0 ((p.1 % 128 + p.2.1 + 127) / 128 * 128)).isSome
        else (poisonedAt s p.2.2 0 p.2.1).isSome)
      let s := traceReads s c h.ctx va len
      if dirty then .error (s.setChan c n { h with finishing := some (4, cPOISON) }) else .ok (rangeBytes s ps, s)

/-- Write a range for a channel: the state after it, or the state in which it has stalled, is about to finish, or waits for what stands
before it. -/
def chanWrite (s : State) (c n : Nat) (va : Word) (bs : List Byte) : Except State State :=
  let h := (s.core c).chan n
  if engineBehind s c h.ctx va bs.length || (!va.getLsbD 63 && readersBehind s c h.ctx va.toNat bs.length) then .error s
  else
  match locateRange s h.ctx true va bs.length forStore with
  | .error e => .error (chanRefused s c n e.1 1 6 cWRITE e.2)
  | .ok ps => .ok (rangeStore s c h.ctx ps bs)

/-! Pieces. -/

/-- The next entry of a copy-command list (R225, R226). -/
def nextEntry (s : State) (c n : Nat) (addr k : Nat) : State :=
  match chanRead s c n false (wd addr) 32 with
  | .error t => t
  | .ok (bs, s) =>
    let h := (s.core c).chan n
    let w := fun i => ofBytes ((bs.drop (8 * i)).take 8)
    let len := bits (w 2) 39 0
    let last := (w 2).testBit 63
    if bits (w 2) 62 40 ≠ 0 ∨ w 3 ≠ 0 ∨ len = 0 ∨ badGlobal (wd (w 0)) = true ∨ badGlobal (wd (w 1)) = true
      ∨ 2 ^ 40 - 1 < h.total + len ∨ (last = false ∧ 65536 ≤ k + 1) then
      s.setChan c n { h with finishing := some (7, 0) }
    else
      s.setChan c n { h with
        segs := [(w 0, w 1, len)], off := 0, total := h.total + len, list := if last then none else some (addr + 32, k + 1) }

/-- A piece of `m` bytes is done: ptr advances (R228). -/
def advance (h : Chan) (m : Nat) : Chan :=
  match h.segs with
  | (_, _, n) :: rest =>
    if h.off + m < n then { h with off := h.off + m, ptr := h.ptr + m } else { h with segs := rest, off := 0, ptr := h.ptr + m }
  | [] => h

/-- The cores of a die whose station copies a piece of a request: the first piece finds those subscribed, later ones those
that took part from the first (R231). -/
def stations (s : State) (die x tag req : Nat) (first : Bool) : List Nat :=
  (s.cores.filter (fun p => p.1 / 1024 == die && p.2.matches_.any (fun m =>
    m.ctx == x && m.tag == tag && (first || m.reqs.contains req)))).map (·.1)

/-- Inject a piece of a multicast (R231). -/
def injectPiece (s : State) (c n start : Nat) (last : Bool) (bs : List Byte) : State :=
  let h := (s.core c).chan n
  let tag := (h.mb.getD 1 0).toNat
  let q := s.tick
  { q.2 with pieces := q.2.pieces ++ [{ id := q.1, core := c, ch := n, todo := stations s (c / 1024) h.ctx tag h.req (start == 0)
                                        ctx := h.ctx, tag := tag, req := h.req, start := start, last := last, bytes := bs }] }

/-- A piece that has been read is written; it stays with the channel until it is, since each piece is read at most once. -/
def writePiece (s : State) (c n : Nat) (va : Word) (bs : List Byte) : State :=
  match chanWrite s c n va bs with
  | .error t => t
  | .ok t => t.setChan c n (advance { (t.core c).chan n with piece := none } bs.length)

/-- TRANSFER_PIECE (R228): the next list entry is read, or the next piece, which lies within one source line, is read and
written; a multicast piece is injected, and counts once it has circled its loops. -/
def transferPiece (c n : Nat) (s : State) : State :=
  let h := (s.core c).chan n
  if h.who.isSome ∧ h.st = 1 ∧ h.finishing = none ∧ h.fatal = none ∧ h.kind ≤ 1 then
    match h.segs, h.list with
    | [], some (addr, k) => nextEntry s c n addr k
    | [], none => s
    | (a, b, len) :: _, _ =>
      let m := min (128 - (a + h.off) % 128) (len - h.off)
      if h.kind = 1 then
        match s.pieces.find? (fun p => p.core == c && p.ch == n) with
        | some p =>
          if p.todo.isEmpty then ({ s with pieces := dropFirst (· == p) s.pieces }).setChan c n (advance h p.bytes.length) else s
        | none =>
          match chanRead s c n true (wd (a + h.off)) m with
          | .error t => t
          | .ok (bs, s) => injectPiece s c n h.off (h.off + m == len) bs
      else
        match h.piece with
        | some bs => writePiece s c n (wd (b + h.off)) bs
        | none =>
          match chanRead s c n true (wd (a + h.off)) m with
          | .error t => t
          | .ok (bs, s) => writePiece (s.setChan c n { h with piece := some bs }) c n (wd (b + h.off)) bs
  else s

/-- TRANSFER_PIECE (R228). DESIGN CHOICE (log 24, unsafe). -/
def execTransferPiece (core ch : Nat) (s : State) : Host.Outcome State Fault Refusal :=
  event (decide (core < coreCount) && decide (ch < 8)) (transferPiece core ch) s

/-- A station copies a piece into its scratchpad (R231): bytes beyond it are dropped, and are not counted. -/
def copyPiece (s : State) (c : Nat) (p : Piece) (m : Match) : State :=
  let at_ := m.off + p.start
  let room := spadBytes (s.core c) - at_
  let bs := p.bytes.take room
  let s := if bs.isEmpty then s else storeAt s (spadKey c at_) bs
  let h := (s.core c).chan m.ch
  let ptr := if p.start = 0 then 0 else h.ptr
  s.modCore c (fun k => { k with
    matches_ := modFirst (· == m) (fun m =>
      { m with reqs := if p.last then m.reqs.filter (· != p.req) else if p.start = 0 then p.req :: m.reqs else m.reqs }) k.matches_
    chans := if p.start = 0 || m.reqs.head? == some p.req then
      put k.chans m.ch { h with st := if p.last then 3 else 1, ptr := ptr + bs.length } else k.chans })

/-- MULTICAST_PIECE_ARRIVE (R231). -/
def pieceArrive (c id : Nat) (s : State) : State :=
  match s.pieces.find? (fun p => p.id == id) with
  | some p =>
    if p.todo.contains c then
      let s := { s with pieces := modFirst (· == p) (fun p => { p with todo := p.todo.filter (· != c) }) s.pieces }
      match (s.core c).matches_.find? (fun m =>
        m.ctx == p.ctx && m.tag == p.tag && (p.start == 0 || m.reqs.contains p.req)) with
      | some m => copyPiece s c p m
      | none => s
    else s
  | none => s

/-- MULTICAST_PIECE_ARRIVE (R231). -/
def execMulticastPieceArrive (core id : Nat) (s : State) : Host.Outcome State Fault Refusal :=
  event (decide (core < coreCount)) (pieceArrive core id) s

/-! Save and restore (R233). -/

/-- The request is about to end DONE with a status. -/
def endWith (s : State) (c n status : Nat) : State := s.setChan c n { (s.core c).chan n with finishing := some (3, status) }

/-- A save whose slot has stopped (R143, R233). -/
def saveNow (s : State) (c n : Nat) : State :=
  let h := (s.core c).chan n
  let t := (h.mb.getD 0 0).toNat
  let va := h.mb.getD 1 0
  let st := saveStatus s c t
  if !aligned va 128 then s.setChan c n { h with finishing := some (5, cALIGN) }
  else if st ≠ 0 then endWith s c n st
  else
    match chanWrite s c n va (imageOf s c t) with
    | .error u => u
    | .ok u => endWith (freeSaved u c t) c n 0

/-- The save of a channel goes on: the slot's stop is requested, and the save follows it. A slot that holds no thread, or the
requester's own, does not stop. -/
def saveStep (s : State) (c n : Nat) : State :=
  let h := (s.core c).chan n
  let t := (h.mb.getD 0 0).toNat
  let own := match h.who with | some w => w.1 == t | none => false
  if h.st ≠ 1 ∨ h.finishing.isSome ∨ h.fatal.isSome then s
  else if own then endWith s c n 1
  else if fixedSlot t ∨ (s.slot c t).phase = .free ∨ (s.slot c t).phase = .stopped then saveNow s c n
  else if (s.slot c t).stopping then tryStop s c t
  else preempt c t s

/-- The channels of a core with a request of a kind in hand. -/
def busyChans (k : Core) (kind : Nat) : List Nat := (k.chans.filter (fun p => p.2.who.isSome && p.2.kind == kind)).map (·.1)

/-- TRANSFER_SAVE (R221, R228, R233): a save request is taken, and every save in hand goes on, each on its channel. -/
def transferSave (c : Nat) (s : State) : State := (busyChans (s.core c) 2).foldl (fun t n => saveStep t c n) (takeKind 2 c s)

/-- TRANSFER_SAVE (R233). -/
def execTransferSave (core : Nat) (s : State) : Host.Outcome State Fault Refusal :=
  event (decide (core < coreCount)) (transferSave core) s

/-- The descriptors of the streams of an image, read for a channel. -/
def chanReads (s : State) (c n : Nat) : List Nat → Except State (List (List Byte) × State)
  | [] => .ok ([], s)
  | a :: t =>
    match chanRead s c n false (wd a) 32 with
    | .error u => .error u
    | .ok (bs, s) =>
      match chanReads s c n t with
      | .error u => .error u
      | .ok (rs, s) => .ok (bs :: rs, s)

/-- A restore (R143, R233). -/
def restoreStep (s : State) (c n : Nat) : State :=
  let h := (s.core c).chan n
  let t := (h.mb.getD 0 0).toNat
  let va := h.mb.getD 1 0
  if h.st ≠ 1 ∨ h.finishing.isSome ∨ h.fatal.isSome then s
  else if !aligned va 128 then s.setChan c n { h with finishing := some (5, cALIGN) }
  else if fixedSlot t then endWith s c n 2
  else
    match chanRead s c n false va 256 with
    | .error u => u
    | .ok (head, s) =>
      if headStatus s c t head ≠ 0 then endWith s c n (headStatus s c t head)
      else
        match chanRead s c n false (va + 256) (imageRest head) with
        | .error u => u
        | .ok (rest, s) =>
          let i := parseImage head rest
          let st := loadStatus s c i
          if st ≠ 0 then endWith s c n st
          else
            match chanReads s c n (i.streams.map (·.1)) with
            | .error u => u
            | .ok (descs, s) =>
              match rebind i s.env.fresh descs with
              | none => endWith s c n 3
              | some streams => endWith (loadThread s c t i streams) c n 0

/-- TRANSFER_RESTORE (R221, R228, R233): a restore request is taken, and every restore in hand goes on, each on its channel. -/
def transferRestore (c : Nat) (s : State) : State := (busyChans (s.core c) 3).foldl (fun t n => restoreStep t c n) (takeKind 3 c s)

/-- TRANSFER_RESTORE (R233). -/
def execTransferRestore (core : Nat) (s : State) : Host.Outcome State Fault Refusal :=
  event (decide (core < coreCount)) (transferRestore core) s

/-! The end of a request. -/

/-- The status and cause with which a request ends, once it has nothing more to do. -/
def chanEnd (h : Chan) : Option (Nat × Nat) :=
  if h.who.isNone ∨ h.sending.isSome ∨ h.st = 2 then none
  else
    match h.fatal, h.finishing with
    | some c, _ => some (5, c)
    | none, some e => some e
    | none, none => if h.kind ≤ 1 ∧ h.segs = [] ∧ h.list = none then some (3, 0) else none

/-- The credit of a barrier (R210, R228): the cause of the completion, or the state in which the credit has stalled. -/
def credit (s : State) (c n : Nat) : Except State (Nat × State) :=
  let h := (s.core c).chan n
  let va := optBar (h.mb.getD 3 0)
  if engineBehind s c h.ctx va 32 then .error s
  else
  match locate s h.ctx true va 32 forBarrier with
  | .error (.fault f) => .error (chanRefused s c n va 1 6 cWRITE (.fault f))
  | .error _ => .ok (cWRITE, s)
  | .ok p =>
    if !p.tagged then .ok (cFETAG, s)
    else if (poisonedAt s p va 32).isSome then .ok (cPOISON, s)
    else
      let r := expect (barAt s p) (-(wd h.total))
      .ok (wbits r.1 7 0, match r.2 with | some b => putBar (install s h.ctx va.toNat p) c h.ctx va p b | none => s)

/-- The completion message can be accepted, or needs no entry (R229). -/
def completionReady (s : State) (c : Nat) (w : Nat × Nat × Nat × Bool) : Bool :=
  let l := s.slot c w.1
  !(l.uid == w.2.1 && l.phase != .free && l.phase != .stopped)
    || ((s.core c).station.isEmpty && decide (queueUsed (s.core c) < 32))

/-- The completion message meets its requester (R229): queued while it runs, kept while it is stopped or saved, discarded once
it has ended. -/
def sendCompletion (s : State) (c : Nat) (w : Nat × Nat × Nat × Bool) (ws : List Word) : State :=
  let l := s.slot c w.1
  let m : Msg := { slot := w.1, words := ws, ctx := w.2.2.1, srcCore := c, srcSlot := 63, srcUid := 0, counted := false
                   kind := .completion w.2.1 }
  if l.uid = w.2.1 ∧ l.phase ≠ .free ∧ l.phase ≠ .stopped then
    s.modCore c (fun k => { k with queue := k.queue ++ [m], gated := false })
  else if threadLives s w.2.2.1 c w.2.1 then s.modCore c (fun k => { k with kept := k.kept ++ [m] })
  else s

/-- The record of a request takes its last status, and its completion message is ready to be sent (R228). -/
def endRequest (c n st cause : Nat) (s : State) : State :=
  s.setChan c n { (s.core c).chan n with
    st := st, finishing := none, fatal := none, piece := none, sending := some (wd (cause % 256 * 2 ^ 8 + n * 2 ^ 4 + st)) }

/-- The completion message is sent once it can be accepted, and the channel is free (R228, R229). -/
def sendEnd (c n : Nat) (s : State) : State :=
  let h := (s.core c).chan n
  match h.who, h.sending with
  | some w, some m =>
    if completionReady s c w then
      settleItem (settleMember (sendCompletion (s.setChan c n { h with who := none, sending := none }) c w [m, wd h.ptr]) w.2.2.1 c w.2.1)
        w.2.2.1 c w.2.1
    else s
  | _, _ => s

/-- TRANSFER_FINISH (R228, R229): the credit of the barrier, the last status, and then the message. -/
def transferFinish (c n : Nat) (s : State) : State :=
  let h := (s.core c).chan n
  match chanEnd h with
  | some (st, cause) =>
    if st = 3 ∧ optCred (h.mb.getD 3 0) = true then
      match credit s c n with
      | .error t => t
      | .ok r => sendEnd c n (endRequest c n st r.1 r.2)
    else sendEnd c n (endRequest c n st cause s)
  | none => sendEnd c n s

/-- TRANSFER_FINISH (R228). -/
def execTransferFinish (core ch : Nat) (s : State) : Host.Outcome State Fault Refusal :=
  event (decide (core < coreCount) && decide (ch < 8)) (transferFinish core ch) s

/-! The instructions. -/

/-- The record of a channel: `st:4 res:20 ptr:40` (R227). -/
def chanRecord (h : Chan) : Word := wd (h.st * 2 ^ 60 + h.ptr % 2 ^ 40)

/-- XWPT (R230). -/
def execXwpt (d : Nat) (n : Nat) (s : State) : Host.Outcome State Fault Refusal :=
  guard (.xwpt d n) (setX d fun s => chanRecord (s.here.chan n)) s

/-- XSUBS (R232). -/
def execXsubs (d : Nat) (a b : Src) (ch : Nat) (s : State) : Host.Outcome State Fault Refusal :=
  guard (.xsubs d a b ch) (fun s =>
    let tag := (rx s a.r).toNat
    let off := (rx s b.r).toNat
    let k := s.here
    if 2 ^ 16 ≤ tag then .ok (wx s d 1)
    else if 2 ^ 20 ≤ off then .ok (wx s d 2)
    else if 16 ≤ k.matches_.length then .ok (wx s d 3)
    else if k.matches_.any (fun m => m.tag == tag) then .ok (wx s d 4)
    else if (k.chan ch).who.isSome || k.matches_.any (fun m => m.ch == ch) then .ok (wx s d 5)
    else
      let m : Match := { ctx := s.myCtx, tag := tag, off := off, ch := ch }
      .ok (wx (s.modHere (fun k => { k with matches_ := k.matches_ ++ [m], chans := put k.chans ch { st := 8 } })) d 0)) s

/-- XUNSUB (R232). -/
def execXunsub (d : Nat) (a : Src) (s : State) : Host.Outcome State Fault Refusal :=
  guard (.xunsub d a) (fun s =>
    let tag := (rx s a.r).toNat
    if 2 ^ 16 ≤ tag then .ok (wx s d 1)
    else
      match s.here.matches_.find? (fun m => m.tag == tag) with
      | none => .ok (wx s d 6)
      | some m =>
        .ok (wx (s.modHere (fun k => { k with
          matches_ := k.matches_.filter (fun m => m.tag != tag)
          chans := put k.chans m.ch { k.chan m.ch with st := 9 } })) d 0)) s

end Sys2Proof.Machine
end

