-- ==== Sys2Proof/Machine/Vector.lean ====
section
/-!
DEFINITION. Vector and extended vector instructions (R93 to R102, R71, R72).
-/
namespace Sys2Proof.Machine

/-- An operation on each lane of two vectors (R93). -/
def lanes2 (f : Lane → Lane → Lane) (a b : List Lane) : List Lane :=
  (List.range 16).map fun i => f (lane a i) (lane b i)

/-- An operation on each lane of a vector. -/
def lanes1 (f : Lane → Lane) (a : List Lane) : List Lane := (List.range 16).map fun i => f (lane a i)

/-- A lane from bits. -/
def ln (n : Nat) : Lane := BitVec.ofNat 32 n

def vAdd (t : VTy) (a b : Lane) : Lane := if t = .f32 then ln (b32.addB a.toNat b.toNat) else a + b
def vSub (t : VTy) (a b : Lane) : Lane := if t = .f32 then ln (b32.subB a.toNat b.toNat) else a - b
def vMul (t : VTy) (a b : Lane) : Lane := if t = .f32 then ln (b32.mulB a.toNat b.toNat) else a * b
def vFma (t : VTy) (a b c : Lane) : Lane :=
  if t = .f32 then ln (b32.fmaB a.toNat b.toNat c.toNat) else a * b + c

/-- The minimum and maximum of a lane type (R56, R93). -/
def vMin (t : VTy) (a b : Lane) : Lane :=
  match t with
  | .f32 => ln (b32.min a.toNat b.toNat)
  | .i32 => if b.slt a then b else a
  | .n32 => if b.ult a then b else a
def vMax (t : VTy) (a b : Lane) : Lane :=
  match t with
  | .f32 => ln (b32.max a.toNat b.toNat)
  | .i32 => if a.slt b then b else a
  | .n32 => if a.ult b then b else a

def vAbs (t : VTy) (a : Lane) : Lane :=
  if t = .f32 then ln (b32.absB a.toNat) else if a.slt 0 then -a else a
def vNeg (t : VTy) (a : Lane) : Lane := if t = .f32 then ln (b32.negB a.toNat) else -a

/-- A relation between lanes (R91, R96). -/
def vRel (t : VTy) (r : Rel) (a b : Lane) : Bool :=
  match t with
  | .f32 => b32.rel r a.toNat b.toNat
  | _ =>
    let lt := if t = .i32 then a.slt b else a.ult b
    match r with
    | .eq => a == b
    | .ne => a != b
    | .lt => lt
    | .le => lt || a == b
    | .un => false

/-- The operation of a reduction's node (R71). -/
def redNode (t : VTy) (op : RedOp) (a b : Lane) : Lane :=
  match op with
  | .sum => vAdd t a b
  | .max => vMax t a b
  | .min => vMin t a b

/-- One level of the tree of R71. -/
def pairUp (f : Lane → Lane → Lane) : List Lane → List Lane
  | a :: b :: t => f a b :: pairUp f t
  | l => l

/-- The tree of R71 over sixteen lanes. -/
def reduce (t : VTy) (op : RedOp) (v : List Lane) : Lane :=
  let f := redNode t op
  lane (pairUp f (pairUp f (pairUp f (pairUp f v)))) 0

/-- A lane type's result in a scalar register (R96, R97): i32 sign-extended, else zero-extended. -/
def laneWord (t : VTy) (a : Lane) : Word := if t = .i32 then a.signExtend 64 else a.setWidth 64

/-- One step of the scan (R72). -/
def scanStep (f : Lane → Lane → Lane) (v : List Lane) (d : Nat) : List Lane :=
  (List.range 16).map fun i => if i < d then lane v i else f (lane v (i - d)) (lane v i)

/-- VSCAN (R72). -/
def scan (t : VTy) (op : ScanOp) (v : List Lane) : List Lane :=
  let y := [1, 2, 4, 8].foldl (scanStep (if op = .max then vMax t else vAdd t)) v
  if op = .sumx then (List.range 16).map fun i => if i = 0 then 0 else lane y (i - 1) else y

/-- Whether key `a` stands after key `b` (R98): NaN keys after every other, in either direction. -/
def keyAfter (t : VTy) (desc : Bool) (a b : Lane) : Bool :=
  match t with
  | .f32 =>
    if b32.isNan a.toNat then !b32.isNan b.toNat
    else if b32.isNan b.toNat then false
    else if desc then decide (b32.order a.toNat < b32.order b.toNat) else decide (b32.order b.toNat < b32.order a.toNat)
  | .i32 => if desc then a.slt b else b.slt a
  | .n32 => if desc then a.ult b else b.ult a

/-- Insert a pair behind every pair that need not stand after it. -/
def sortInsert (t : VTy) (desc : Bool) (p : Lane × Lane) : List (Lane × Lane) → List (Lane × Lane)
  | [] => [p]
  | q :: r => if keyAfter t desc q.1 p.1 then p :: q :: r else q :: sortInsert t desc p r

/-- The stable sort of R98: pairs of key and payload. -/
def vsort (t : VTy) (desc : Bool) (a b : List Lane) : List (Lane × Lane) :=
  ((List.range 16).map fun i => (lane a i, lane b i)).foldl (fun acc p => sortInsert t desc p acc) []

/-- VADD (R93). -/
def execVadd (t : VTy) (d : Nat) (a b : Src) (s : State) : Host.Outcome State Fault Refusal :=
  guard (.vadd t d a b) (setV d fun s => lanes2 (vAdd t) (rv s a.r) (rv s b.r)) s

/-- VSUB (R93). -/
def execVsub (t : VTy) (d : Nat) (a b : Src) (s : State) : Host.Outcome State Fault Refusal :=
  guard (.vsub t d a b) (setV d fun s => lanes2 (vSub t) (rv s a.r) (rv s b.r)) s

/-- VMUL (R93). -/
def execVmul (t : VTy) (d : Nat) (a b : Src) (s : State) : Host.Outcome State Fault Refusal :=
  guard (.vmul t d a b) (setV d fun s => lanes2 (vMul t) (rv s a.r) (rv s b.r)) s

/-- VMIN (R93). -/
def execVmin (t : VTy) (d : Nat) (a b : Src) (s : State) : Host.Outcome State Fault Refusal :=
  guard (.vmin t d a b) (setV d fun s => lanes2 (vMin t) (rv s a.r) (rv s b.r)) s

/-- VMAX (R93). -/
def execVmax (t : VTy) (d : Nat) (a b : Src) (s : State) : Host.Outcome State Fault Refusal :=
  guard (.vmax t d a b) (setV d fun s => lanes2 (vMax t) (rv s a.r) (rv s b.r)) s

/-- VFMA (R93): vD is the addend. -/
def execVfma (t : VTy) (d : Nat) (a b : Src) (s : State) : Host.Outcome State Fault Refusal :=
  guard (.vfma t d a b) (setV d fun s => (List.range 16).map fun i =>
    vFma t (rlane s a.r i) (rlane s b.r i) (rlane s d i)) s

/-- VAND (R93). -/
def execVand (d : Nat) (a b : Src) (s : State) : Host.Outcome State Fault Refusal :=
  guard (.vand d a b) (setV d fun s => lanes2 (fun x y => x &&& y) (rv s a.r) (rv s b.r)) s

/-- VOR (R93). -/
def execVor (d : Nat) (a b : Src) (s : State) : Host.Outcome State Fault Refusal :=
  guard (.vor d a b) (setV d fun s => lanes2 (fun x y => x ||| y) (rv s a.r) (rv s b.r)) s

/-- VXOR (R93). -/
def execVxor (d : Nat) (a b : Src) (s : State) : Host.Outcome State Fault Refusal :=
  guard (.vxor d a b) (setV d fun s => lanes2 (fun x y => x ^^^ y) (rv s a.r) (rv s b.r)) s

/-- VSHL (R93). -/
def execVshl (d : Nat) (a b : Src) (s : State) : Host.Outcome State Fault Refusal :=
  guard (.vshl d a b) (setV d fun s => lanes2 (fun x y => x <<< (y.toNat % 32)) (rv s a.r) (rv s b.r)) s

/-- VSHRN32 (R93). -/
def execVshrN32 (d : Nat) (a b : Src) (s : State) : Host.Outcome State Fault Refusal :=
  guard (.vshrN32 d a b) (setV d fun s => lanes2 (fun x y => x >>> (y.toNat % 32)) (rv s a.r) (rv s b.r)) s

/-- VSHRI32 (R93). -/
def execVshrI32 (d : Nat) (a b : Src) (s : State) : Host.Outcome State Fault Refusal :=
  guard (.vshrI32 d a b) (setV d fun s => lanes2 (fun x y => x.sshiftRight (y.toNat % 32)) (rv s a.r) (rv s b.r)) s

/-- VMOV (R93). -/
def execVmov (d : Nat) (a : Src) (s : State) : Host.Outcome State Fault Refusal :=
  guard (.vmov d a) (setV d fun s => rv s a.r) s

/-- VABS (R93). -/
def execVabs (t : VTy) (d : Nat) (a : Src) (s : State) : Host.Outcome State Fault Refusal :=
  guard (.vabs t d a) (setV d fun s => lanes1 (vAbs t) (rv s a.r)) s

/-- VNEG (R93). -/
def execVneg (t : VTy) (d : Nat) (a : Src) (s : State) : Host.Outcome State Fault Refusal :=
  guard (.vneg t d a) (setV d fun s => lanes1 (vNeg t) (rv s a.r)) s

/-- VEXP2 (R94). -/
def execVexp2 (d : Nat) (a : Src) (s : State) : Host.Outcome State Fault Refusal :=
  guard (.vexp2 d a) (setV d fun s => lanes1 (fun x => ln (b32.rne ((b32.dec x.toNat).exp2))) (rv s a.r)) s

/-- VLOG2 (R94). -/
def execVlog2 (d : Nat) (a : Src) (s : State) : Host.Outcome State Fault Refusal :=
  guard (.vlog2 d a) (setV d fun s => lanes1 (fun x => ln (b32.rne ((b32.dec x.toNat).log2))) (rv s a.r)) s

/-- VRCP (R94). -/
def execVrcp (d : Nat) (a : Src) (s : State) : Host.Outcome State Fault Refusal :=
  guard (.vrcp d a) (setV d fun s => lanes1 (fun x => ln (b32.rne ((FVal.fin false 1 0).div (b32.dec x.toNat)))) (rv s a.r)) s

/-- VRSQ (R94). -/
def execVrsq (d : Nat) (a : Src) (s : State) : Host.Outcome State Fault Refusal :=
  guard (.vrsq d a) (setV d fun s => lanes1 (fun x => ln (b32.rne ((b32.dec x.toNat).rsqrt))) (rv s a.r)) s

/-- VCVT (R99). -/
def execVcvt (c : Conv) (d : Nat) (a : Src) (s : State) : Host.Outcome State Fault Refusal :=
  guard (.vcvt c d a) (setV d fun s =>
    let f := conv vcvtPair s c
    lanes1 (fun x => fmtLane f.1 (convert (s.here.tableOf f.2.2.2.2) f.1 f.2.1 f.2.2.1 f.2.2.2.1 x.toNat)) (rv s a.r)) s

/-- VCMP (R96). -/
def execVcmp (t : VTy) (r : Rel) (d : Nat) (a b : Src) (s : State) : Host.Outcome State Fault Refusal :=
  guard (.vcmp t r d a b) (setV d fun s => lanes2 (fun x y => if vRel t r x y then -1 else 0) (rv s a.r) (rv s b.r)) s

/-- VSEL (R96): lane i of a where the mask's lane is not zero, else of b. -/
def execVsel (d : Nat) (a b : Src) (m : Nat) (s : State) : Host.Outcome State Fault Refusal :=
  guard (.vsel d a b m) (setV d fun s => (List.range 16).map fun i =>
    if rlane s m i ≠ 0 then rlane s a.r i else rlane s b.r i) s

/-- VRED (R97, R71). -/
def execVred (t : VTy) (op : RedOp) (d : Nat) (a : Src) (s : State) : Host.Outcome State Fault Refusal :=
  guard (.vred t op d a) (setX d fun s => laneWord t (reduce t op (rv s a.r))) s

/-- VSCAN (R97, R72). -/
def execVscan (t : VTy) (op : ScanOp) (d : Nat) (a : Src) (s : State) : Host.Outcome State Fault Refusal :=
  guard (.vscan t op d a) (setV d fun s => scan t op (rv s a.r)) s

/-- VPERM (R96). -/
def execVperm (d : Nat) (a b : Src) (s : State) : Host.Outcome State Fault Refusal :=
  guard (.vperm d a b) (setV d fun s => (List.range 16).map fun i => rlane s a.r ((rlane s b.r i).toNat % 16)) s

/-- VBCAST (R96). -/
def execVbcast (d : Nat) (a : Src) (s : State) : Host.Outcome State Fault Refusal :=
  guard (.vbcast d a) (setV d fun s => List.replicate 16 ((rx s a.r).setWidth 32)) s

/-- VEXT (R96). -/
def execVext (t : VTy) (d : Nat) (a : Src) (l : Nat) (s : State) : Host.Outcome State Fault Refusal :=
  guard (.vext t d a l) (setX d fun s => laneWord t (rlane s a.r l)) s

/-- VINS (R96): the register that holds the lane is written with its other half as it was; every register of vD is set
full (R79). -/
def execVins (d : Nat) (a : Src) (l : Nat) (s : State) : Host.Outcome State Fault Refusal :=
  guard (.vins d a l) (setV d fun s => (List.range 16).map fun i =>
    if i = l then (rx s a.r).setWidth 32 else rlane s d i) s

/-- VSORT (R98): the keys to vD, the payloads to vD+1. -/
def execVsort (t : VTy) (desc : Bool) (d : Nat) (a b : Src) (s : State) : Host.Outcome State Fault Refusal :=
  guard (.vsort t desc d a b) (fun s =>
    let r := vsort t desc (rv s a.r) (rv s b.r)
    .ok (wv (wv s d (r.map (·.1))) (d + 1) (r.map (·.2)))) s

/-- VIOTA (R96). -/
def execViota (d : Nat) (a : Src) (s : State) : Host.Outcome State Fault Refusal :=
  guard (.viota d a) (setV d fun s => (List.range 16).map fun i => (rx s a.r).setWidth 32 + ln i) s

/-- VQUANT (R101, R68). -/
def execVquant (c : Conv) (d : Nat) (a : Src) (s : State) : Host.Outcome State Fault Refusal :=
  guard (.vquant c d a) (setV d fun s =>
    let f := conv vquantPair s c
    let q := quantise (s.here.tableOf f.2.2.2.2) f.2.2.1 f.2.2.2.1 ((rv s a.r ++ rv s (a.r + 1)).map (·.toNat))
    blockImage q.1 q.2) s

/-- VDEQ (R102). -/
def execVdeq (c : Conv) (d : Nat) (a : Src) (s : State) : Host.Outcome State Fault Refusal :=
  guard (.vdeq c d a) (fun s =>
    let f := conv vdeqPair s c
    let e := expand (s.here.tableOf f.2.2.2.2) f.2.2.2.1 (rv s a.r)
    .ok (wv (wv s d ((List.range 16).map e)) (d + 1) ((List.range 16).map fun i => e (16 + i)))) s

end Sys2Proof.Machine
end

