-- ==== Sys2Proof/Machine/Thread.lean ====
section
/-!
DEFINITION. The instructions that a bundle can hold: the meanings that an issue of a bundle calls. Rows of the table without an
encoding are no instructions of a bundle.
-/
namespace Sys2Proof.Machine

/-- What an instruction of a bundle does, as `exec` gives it; an event is refused. -/
def execThread (i : Instr) (s : State) : Host.Outcome State Fault Refusal :=
  match i with
  | .add d a b => execAdd d a b s
  | .sub d a b => execSub d a b s
  | .and d a b => execAnd d a b s
  | .or d a b => execOr d a b s
  | .xor d a b => execXor d a b s
  | .andn d a b => execAndn d a b s
  | .shl d a b => execShl d a b s
  | .shr d a b => execShr d a b s
  | .sra d a b => execSra d a b s
  | .rot d a b => execRot d a b s
  | .min d a b => execMin d a b s
  | .max d a b => execMax d a b s
  | .minn d a b => execMinn d a b s
  | .maxn d a b => execMaxn d a b s
  | .slt d a b => execSlt d a b s
  | .sltn d a b => execSltn d a b s
  | .seq d a b => execSeq d a b s
  | .sel d a b => execSel d a b s
  | .mul d a b => execMul d a b s
  | .mulh d a b => execMulh d a b s
  | .mulhn d a b => execMulhn d a b s
  | .popc d a => execPopc d a s
  | .clz d a => execClz d a s
  | .mov d a => execMov d a s
  | .div d a b => execDiv d a b s
  | .divn d a b => execDivn d a b s
  | .rem d a b => execRem d a b s
  | .remn d a b => execRemn d a b s
  | .addsh d a b u => execAddsh d a b u s
  | .addImm d a imm => execAddImm d a imm s
  | .andImm d a imm => execAndImm d a imm s
  | .orImm d a imm => execOrImm d a imm s
  | .xorImm d a imm => execXorImm d a imm s
  | .mulImm d a imm => execMulImm d a imm s
  | .shlImm d a amt => execShlImm d a amt s
  | .shrImm d a amt => execShrImm d a amt s
  | .sraImm d a amt => execSraImm d a amt s
  | .rotImm d a amt => execRotImm d a amt s
  | .sltImm d a v => execSltImm d a v s
  | .sltnImm d a v => execSltnImm d a v s
  | .seqImm d a v => execSeqImm d a v s
  | .movImm d imm => execMovImm d imm s
  | .li d hi lit => execLi d hi lit s
  | .liN d hi lit => execLiN d hi lit s
  | .liHi d hi => execLiHi d hi s
  | .fadd t d a b => execFadd t d a b s
  | .fsub t d a b => execFsub t d a b s
  | .fmul t d a b => execFmul t d a b s
  | .ffma t d a b => execFfma t d a b s
  | .fmin t d a b => execFmin t d a b s
  | .fmax t d a b => execFmax t d a b s
  | .fneg t d a => execFneg t d a s
  | .fabs t d a => execFabs t d a s
  | .fsqrt t d a => execFsqrt t d a s
  | .fclass t d a => execFclass t d a s
  | .fdiv t d a b => execFdiv t d a b s
  | .fcmp t r d a b => execFcmp t r d a b s
  | .fcvt c d a => execFcvt c d a s
  | .bfx signed d a pos len => execBfx signed d a pos len s
  | .bfi d a pos len => execBfi d a pos len s
  | .vadd t d a b => execVadd t d a b s
  | .vsub t d a b => execVsub t d a b s
  | .vmul t d a b => execVmul t d a b s
  | .vfma t d a b => execVfma t d a b s
  | .vmin t d a b => execVmin t d a b s
  | .vmax t d a b => execVmax t d a b s
  | .vand d a b => execVand d a b s
  | .vor d a b => execVor d a b s
  | .vxor d a b => execVxor d a b s
  | .vmov d a => execVmov d a s
  | .vshl d a b => execVshl d a b s
  | .vshrN32 d a b => execVshrN32 d a b s
  | .vshrI32 d a b => execVshrI32 d a b s
  | .vabs t d a => execVabs t d a s
  | .vneg t d a => execVneg t d a s
  | .vexp2 d a => execVexp2 d a s
  | .vlog2 d a => execVlog2 d a s
  | .vrcp d a => execVrcp d a s
  | .vrsq d a => execVrsq d a s
  | .vcvt c d a => execVcvt c d a s
  | .vcmp t r d a b => execVcmp t r d a b s
  | .vsel d a b m => execVsel d a b m s
  | .vred t op d a => execVred t op d a s
  | .vscan t op d a => execVscan t op d a s
  | .vperm d a b => execVperm d a b s
  | .vbcast d a => execVbcast d a s
  | .vext t d a lane => execVext t d a lane s
  | .vins d a lane => execVins d a lane s
  | .vsort t desc d a b => execVsort t desc d a b s
  | .viota d a => execViota d a s
  | .vquant c d a => execVquant c d a s
  | .vdeq c d a => execVdeq c d a s
  | .rand d a b => execRand d a b s
  | .randV d a b => execRandV d a b s
  | .fmt lit => execFmt lit s
  | .dtldMem d a n => execDtldMem d a n s
  | .dtldPreset d p n => execDtldPreset d p n s
  | .beq d a off => execBeq d a off s
  | .bne d a off => execBne d a off s
  | .blt d a off => execBlt d a off s
  | .bge d a off => execBge d a off s
  | .bltn d a off => execBltn d a off s
  | .bgen d a off => execBgen d a off s
  | .bz a off => execBz a off s
  | .bnz a off => execBnz a off s
  | .jal link off => execJal link off s
  | .jalr link a imm => execJalr link a imm s
  | .jmpf link idx => execJmpf link idx s
  | .nop => execNop s
  | .ldI8 t base off => execLdI8 t base off s
  | .ldN8 t base off => execLdN8 t base off s
  | .ldI16 t base off => execLdI16 t base off s
  | .ldN16 t base off => execLdN16 t base off s
  | .ldI32 t base off => execLdI32 t base off s
  | .ldN32 t base off => execLdN32 t base off s
  | .ldI64 t base off => execLdI64 t base off s
  | .stI8 t base off => execStI8 t base off s
  | .stI16 t base off => execStI16 t base off s
  | .stI32 t base off => execStI32 t base off s
  | .stI64 t base off => execStI64 t base off s
  | .ldv t base off => execLdv t base off s
  | .stv t base off => execStv t base off s
  | .ldaI64 t base off => execLdaI64 t base off s
  | .stlI64 t base off => execStlI64 t base off s
  | .ldmx d a b => execLdmx d a b s
  | .stmx d a b => execStmx d a b s
  | .pfl a off => execPfl a off s
  | .pflW a off => execPflW a off s
  | .aadd t m d a b => execAadd t m d a b s
  | .aand t m d a b => execAand t m d a b s
  | .aor t m d a b => execAor t m d a b s
  | .axor t m d a b => execAxor t m d a b s
  | .amin t m d a b => execAmin t m d a b s
  | .amax t m d a b => execAmax t m d a b s
  | .aswp t m d a b => execAswp t m d a b s
  | .acas t m d a b => execAcas t m d a b s
  | .afadd t m d a b => execAfadd t m d a b s
  | .drain => execDrain s
  | .ifence => execIfence s
  | .fence u => execFence u s
  | .csrr d r => execCsrr d r s
  | .csrw d r a => execCsrw d r a s
  | .csrs d r a => execCsrs d r a s
  | .csrc d r a => execCsrc d r a s
  | .trap code => execTrap code s
  | .bkpt => execBkpt s
  | .eret => execEret s
  | .idle => execIdle s
  | .tsave d a b => execTsave d a b s
  | .tload d a b => execTload d a b s
  | .yield => execYield s
  | .exit => execExit s
  | .launch d a b => execLaunch d a b s
  | .cntrd l d a => execCntrd l d a s
  | .cntwait l d a => execCntwait l d a s
  | .cancel l d a => execCancel l d a s
  | .tid d sel => execTid d sel s
  | .ofetch n a => execOfetch n a s
  | .ostat d n => execOstat d n s
  | .send a b n slot => execSend a b n slot s
  | .wmsg => execWmsg s
  | .pmsg d => execPmsg d s
  | .mstat d => execMstat d s
  | .wback d a b => execWback d a b s
  | .linv d a b => execLinv d a b s
  | .discard d a b => execDiscard d a b s
  | .lclr d a b => execLclr d a b s
  | .pgharv d a => execPgharv d a s
  | .pgharvClr d a => execPgharvClr d a s
  | .pginvPage d a => execPginvPage d a s
  | .pginvCtx d => execPginvCtx d s
  | .pginvRevive d a => execPginvRevive d a s
  | .pgwake d a => execPgwake d a s
  | .pgwakeFatal d a c => execPgwakeFatal d a c s
  | .pgqry d a => execPgqry d a s
  | .ldfe d a off => execLdfe d a off s
  | .ldf d a off => execLdf d a off s
  | .stfe a b off => execStfe a b off s
  | .stf a b off => execStf a b off s
  | .feclr d a off => execFeclr d a off s
  | .festat d a off => execFestat d a off s
  | .binit d a b => execBinit d a b s
  | .barv d a => execBarv d a s
  | .bexp d a b => execBexp d a b s
  | .bwait d a b => execBwait d a b s
  | .btest d a b => execBtest d a b s
  | .bcpl d a => execBcpl d a s
  | .xwpt d n => execXwpt d n s
  | .xsubs d a b ch => execXsubs d a b ch s
  | .xunsub d a => execXunsub d a s
  | .sbind x a off => execSbind x a off s
  | .sunb x => execSunb x s
  | .scfgCount d x b => execScfgCount d x b s
  | .scfgSkip d x b => execScfgSkip d x b s
  | .sstat d x => execSstat d x s
  | .mshape acc u => execMshape acc u s
  | .mskr m a => execMskr m a s
  | .mskc m a => execMskc m a s
  | .rcfg ring base off => execRcfg ring base off s
  | .rstat d ring => execRstat d ring s
  | .rpopHead d ring b => execRpopHead d ring b s
  | .rpopTail d ring b => execRpopTail d ring b s
  | .tldt ring a b => execTldt ring a b s
  | .mma form acc qa qb keepb => execMma form acc qa qb keepb s
  | .mmaz form acc qa qb keepb => execMmaz form acc qa qb keepb s
  | .accmv d acc b => execAccmv d acc b s
  | .accz acc => execAccz acc s
  | .accld acc u a => execAccld acc u a s
  | .accst acc a => execAccst acc a s
  | .cbind d a => execCbind d a s
  | .cedit d a h => execCedit d a h s
  | .cunb d h => execCunb d h s
  | .cst d a h off => execCst d a h off s
  | .cbatch d => execCbatch d s
  | .cseal d a => execCseal d a s
  | .cld win a h off => execCld win a h off s
  | .cwr win a h off => execCwr win a h off s
  | .cfin => execCfin s
  | .cviewNow d => execCviewNow d s
  | .cviewFence d => execCviewFence d s
  | .cvend => execCvend s
  | .cstat d h sel => execCstat d h sel s
  | .hnew d a b => execHnew d a b s
  | .hnewKv d a b => execHnewKv d a b s
  | .hweak d a => execHweak d a s
  | .hdup d a => execHdup d a s
  | .hdrop a => execHdrop a s
  | .hup d a => execHup d a s
  | .hldw d p a n => execHldw d p a n s
  | .hpri a b => execHpri a b s
  | .hinfo d a sel => execHinfo d a sel s
  | .pfxfind d a => execPfxfind d a s
  | .pfxins d a => execPfxins d a s
  | .pfxdel d a => execPfxdel d a s
  | .taparm d a h => execTaparm d a h s
  | .tapoff d h => execTapoff d h s
  | .taprel d a h => execTaprel d a h s
  | .tapkill d a h => execTapkill d a h s
  | .taprd d a h sel => execTaprd d a h sel s
  | .cmbmax t d a b => execCmbmax t d a b s
  | .cmbsum t d a b => execCmbsum t d a b s
  | .cmbrecv d u a => execCmbrecv d u a s
  | _ => .refused .illFormed

end Sys2Proof.Machine
end

