-- ==== Sys2Proof/Machine/Flight.lean ====
section
/-!
DEFINITION. Accesses in flight (R108, R111, R118, R186, R193 to R199): their translation, the requests, fills and grants between a core and
a home slice, fabric accesses, and the replies that let a waiting bundle retire (R22, R157, R161, R253).
-/
namespace Sys2Proof.Machine

/-! The list of accesses. -/

/-- The access of a number. -/
def State.flight (s : State) (id : Nat) : Option Flight := s.flights.find? (·.id == id)

/-- Change an access. -/
def State.modFlight (s : State) (id : Nat) (f : Flight → Flight) : State :=
  { s with flights := s.flights.map (fun g => if g.id = id then f g else g) }

/-- An access is over. -/
def State.dropFlight (s : State) (id : Nat) : State := { s with flights := s.flights.filter (·.id != id) }

/-- Let a function act on the access of a number. -/
def withFlight (id : Nat) (f : Flight → State → State) (s : State) : State :=
  match s.flight id with
  | some g => f g s
  | none => s

/-- What an access needs of its page (R107, R186). -/
def Flight.rights (f : Flight) : Rights :=
  match f.op with
  | .load => forLoad
  | .store _ => forStore
  | .atomic _ _ _ _ => forAtomic

/-- The place of a translated access. -/
def Flight.place (f : Flight) : Place := { key := f.key, home := f.home, glob := !f.isFabric, e := f.entry, pb := f.pb }

/-- The scale part of a translated STMX: its address, bytes and place (R115). -/
def Flight.scale (f : Flight) : Option (Word × List Byte × Place) :=
  match f.also, f.second with
  | some a, some q => some (a.1, a.2, { key := q.1, home := q.2.1, glob := true, e := q.2.2.1, pb := q.2.2.2 })
  | _, _ => none

/-- An access reaches a new stage by a message, which takes the next number (R196). -/
def filled (s : State) (f : Flight) (st : Stage) : State := s.tick.2.modFlight f.id (fun g => { g with stage := st, stamp := s.tick.1 })

/-- A store in flight is over without a failure (R111). -/
def uncount (f : Flight) (s : State) : State := if f.isStore then acknowledge s f.core f.slot f.uid none else s

/-! At the walk slice (R186). -/

/-- A page fault at an address is recorded, and drops the bundle that waits for the access, unless its thread was cancelled (R152, R161, R186); one of the
pager or monitor moves the context to faulted, and its bundle is issued again once the context runs (R129). -/
def dropAccess (f : Flight) (va : Word) (p : PFault) (s : State) : State :=
  let l := s.slot f.core f.slot
  let live := awaits s f.core f.slot f.uid f.id
  let s := uncount f ((s.dropFlight f.id).modSlot f.core f.slot (if live then uncountHeld f.slot else id))
  let special := s.isPager f.ctx f.core f.slot || s.isMonitor f.ctx f.core f.slot
  let r := if special then (contextFaulted s f.ctx (thid f.core f.slot) (causeWord p.cause 0) va, 0)
    else raiseFault s f.ctx va.toNat 0 f.rights.acc (thid f.core f.slot) p (.thread f.core f.slot f.uid)
  if live = false then settle f.core f.slot r.1
  else if l.cancelled then tryEnd (r.1.modSlot f.core f.slot Slot.awake) f.core f.slot
  else boundary f.core f.slot (r.1.modSlot f.core f.slot (if special then Slot.awake else Slot.drop r.2))

/-- An access does not reach its home slice yet: an earlier request or notice of its core to that slice has not arrived there (R196), or it is a
load that takes its value from the fill of its line, which another load of the core has requested (R193, R198). -/
def outOfTurn (s : State) (f : Flight) : Bool := sentBefore s f.core f.ctx f.addr.toNat f.seq || joined s f

/-- The translation of an access (R186), and of the scale of an STMX, on which a fault drops the whole bundle (R114): a fault with its
address. -/
def locateFlight (s : State) (f : Flight) : Except (Word × PFault) (Place × Option Place) :=
  match translate s f.ctx f.priv f.addr.toNat f.rights, f.also.map (fun a => (a.1, translate s f.ctx f.priv a.1.toNat f.rights)) with
  | .error e, _ => .error (f.addr, e)
  | .ok _, some (va, .error e) => .error (va, e)
  | .ok p, some (_, .ok q) => .ok (p, some q)
  | .ok p, none => .ok (p, none)

/-- A part of an access has no line of host memory to be had (R339). -/
def flightCut (s : State) (f : Flight) : Bool := (f.addr.toNat :: (f.also.map (·.1.toNat)).toList).any (hostCut s f.ctx)

/-- ACCESS_AT_WALK_SLICE (R186): a global access is translated and checked at its walk slice, and its request arrives at the home slice, the
requests of one core in the order in which they were sent (R196). -/
def accessAtWalkSlice (f : Flight) (s : State) : State :=
  if f.stage = .issued ∧ f.isFabric = false ∧ outOfTurn s f = false ∧ flightCut s f = false then
    match locateFlight s f with
    | .ok (p, q) =>
      let t := install s.tick.2 f.ctx f.addr.toNat p
      let t := match f.also, q with
        | some a, some q => install t f.ctx a.1.toNat q
        | _, _ => t
      t.modFlight f.id (fun g =>
        { g with stage := .translated, stamp := s.tick.1, key := p.key, home := p.home, entry := p.e, pb := p.pb
                 second := q.map (fun q => (q.key, q.home, q.e, q.pb)) })
    | .error e => dropAccess f e.1 e.2 s
  else s

/-- ACCESS_AT_WALK_SLICE (R186). -/
def execAccessAtWalkSlice (id : Nat) (s : State) : Host.Outcome State Fault Refusal := event true (withFlight id accessAtWalkSlice) s

/-! At the home slice. -/

/-- The home acts on the request now: no registration of its lines waits for acknowledgements, and no request for them has come before
(R115, R195). -/
def served (s : State) (f : Flight) : Bool :=
  f.lines.all (fun l => !lineHeld s f.ctx l) && !s.flights.any (fun g =>
    !g.isFabric && g.ctx == f.ctx && f.lines.contains g.line && g.stage == .translated && decide (g.stamp < f.stamp))

/-- Another core holds a word of the access registered (R197). -/
def elsewhere (s : State) (f : Flight) : Bool := elsewhereReg s f.core f.ctx f.addr.toNat f.len

/-- An earlier store of its thread to its home slice, which the slice has accepted, is not performed yet (R111, R120). -/
def Flight.storeBefore (f : Flight) (s : State) : Bool :=
  (f.addr.toNat :: (f.also.map (·.1.toNat)).toList).any (fun a => Machine.storeBefore s f.core f.slot f.uid f.ctx a f.seq)

/-- The place of the line of a translated access. -/
def Flight.linePlace (f : Flight) : Place := { f.place with key := f.key - f.addr.toNat % 128 }

/-- The poisoned words of the line of an access (R199). -/
def lineBad (s : State) (f : Flight) : List Nat :=
  if f.place.dead || s.poison.isEmpty then [] else (List.range 16).filter (fun i => s.isPoison (f.linePlace.key + 8 * i))

/-- The home sends a fill: the bytes of its load are fixed, and with `grant` the whole line is, with its poison marks, for the core becomes a
reader of it and its other loads of the line take their values from the fill (R193, R194, R198, R199). -/
def sendFill (s : State) (f : Flight) (grant : Bool) : State :=
  (filled s f (.filling (loadAt s f.place f.len))).modFlight f.id (fun g =>
    { g with once := g.once || !grant, fill := if grant then loadAt s f.linePlace 128 else [], bad := if grant then lineBad s f else [] })

/-- READ_REQUEST (R194, R117, R199): the value of a load is fixed at the home, and the core becomes a reader of a line that may be shared;
an atomic is performed. A load of words registered elsewhere waits for FORWARDED_LOAD (R197). -/
def readRequest (f : Flight) (s : State) : State :=
  if f.stage ≠ .translated ∨ f.isStore = true ∨ served s f = false ∨ (f.op ≠ .load ∧ f.storeBefore s = true) then s
  else
    match poisonedAt s f.place f.addr f.len with
    | some a => filled (traceReads s f.core f.ctx f.addr f.len) f (.refused cPOISON a.toNat)
    | none =>
      match f.op with
      | .load =>
        if elsewhere s f then s
        else
          let s := traceMsg s f.ctx f.line 6 f.core (wordMask f.addr.toNat f.len)
          if notShared s f.ctx f.line f.place then sendFill s f false
          else sendFill (s.setDir f.ctx f.line ((s.dirOf f.ctx f.line).addReader f.core)) f true
      | .atomic op ty b exp =>
        let old := s.bytes f.key f.len
        let s := touchHome s f.core f.ctx f.addr.toNat f.len f.place
        filled (storeAt s f.key (toBytes f.len (atomResult op ty (ofBytes old) b.toNat exp.toNat))) f (.arrived old)
      | .store _ => s

/-- READ_REQUEST (R194). -/
def execReadRequest (id : Nat) (s : State) : Host.Outcome State Fault Refusal := event true (withFlight id readRequest) s

/-- FORWARDED_LOAD (R197): the home collects words that another core holds registered; no copy is installed. -/
def forwardedLoad (f : Flight) (s : State) : State :=
  if f.stage = .translated ∧ f.op = .load ∧ served s f = true ∧ elsewhere s f = true then
    match poisonedAt s f.place f.addr f.len with
    | some a => filled (traceReads s f.core f.ctx f.addr f.len) f (.refused cPOISON a.toNat)
    | none => filled (traceMsg s f.ctx f.line 7 f.core (wordMask f.addr.toNat f.len)) f (.arrived (loadAt s f.place f.len))
  else s

/-- FORWARDED_LOAD (R197). -/
def execForwardedLoad (id : Nat) (s : State) : Host.Outcome State Fault Refusal := event true (withFlight id forwardedLoad) s

/-- A message that left a home slice, or a core that a fabric access went to, for the core of an access before the one that the access waits
for has not been delivered (R196, R331): of a home slice a fill, a grant, a value, a refusal or an invalidation, of a core its answer to an
access or an access of its own. DEDUCED (log 67, unsafe). -/
def undelivered (s : State) (f : Flight) : Bool :=
  if f.isFabric then pathBefore s (fabCore f.addr) f.core f.stamp else onTheWay s f.core (some f.home) f.stamp

/-- What a fill gives another load of its line: its bytes of the fill's data, or the report of a word that was poisoned when the fill was
sent (R198, R199). -/
def fromFill (f g : Flight) : Stage :=
  match f.bad.find? (fun i => decide (g.addr.toNat % 128 < 8 * i + 8) && decide (8 * i < g.addr.toNat % 128 + g.len)) with
  | some i => .refused cPOISON (g.addr.toNat / 128 * 128 + 8 * i)
  | none => .arrived ((f.fill.drop (g.addr.toNat % 128)).take g.len)

/-- FILL_ARRIVE (R193, R198): the fill serves its load, and the loads of the core that wait for it; the line is installed SHARED, or not at
all when an invalidation came first. -/
def fillArrive (f : Flight) (s : State) : State :=
  match f.stage with
  | .filling v =>
    if undelivered s f then s
    else
      let s := traceMsg s f.ctx f.line 10 f.core 0
      let s := if f.once || holdsLine s f.core f.ctx f.line then s else addLine s f.core ⟨f.ctx, f.line, .shared, 0, f.core, 0⟩
      { s with flights := s.flights.map (fun g =>
          if g.id = f.id then { g with stage := .arrived v }
          else if g.joins = some f.id ∧ g.stage = .issued ∧ f.fill ≠ [] then
            { g with stage := fromFill f g, home := f.home, stamp := f.stamp }
          else g) }
  | _ => s

/-- FILL_ARRIVE (R198). -/
def execFillArrive (id : Nat) (s : State) : Host.Outcome State Fault Refusal := event true (withFlight id fillArrive) s

/-- Words of a store that its core does not hold registered. -/
def unregistered (s : State) (f : Flight) : Bool :=
  ((f.addr, f.len) :: (f.also.map (fun a => (a.1, a.2.length))).toList).any (fun p =>
    wordMask p.1.toNat p.2 &&& regMask s f.core f.ctx (p.1.toNat / 128) != wordMask p.1.toNat p.2)

/-- REGISTRATION_REQUEST (R197 steps 1 and 2): the written bit is set, and invalidations are sent to the line's readers (R195). -/
def registrationRequest (f : Flight) (s : State) : State :=
  if f.stage = .translated ∧ f.isStore = true ∧ served s f = true ∧ unregistered s f = true then
    let s := traceMsg (setWritten s f.home f.ctx f.addr.toNat) f.ctx f.line 1 f.core (wordMask f.addr.toNat f.len)
    filled (traceInvalidations s f.ctx f.line f.core) f (.invalidating ((s.dirOf f.ctx f.line).readers f.core) [])
  else s

/-- REGISTRATION_REQUEST (R197). -/
def execRegistrationRequest (id : Nat) (s : State) : Host.Outcome State Fault Refusal :=
  event true (withFlight id registrationRequest) s

/-- The registration whose invalidation of a line a core awaits, or whose acknowledgement it owes. -/
def awaited (s : State) (c x line : Nat) (acked : Bool) : Option Flight :=
  s.flights.find? (fun f => f.ctx == x && f.line == line && (match f.stage with
    | .invalidating toGo back => if acked then back.any (·.1 == c) else toGo.contains c
    | _ => false))

/-- A grant, a value or an invalidation that the home of an invalidation sent a core before it has not been delivered (R196).
DEDUCED (log 67, unsafe). -/
def overrun (s : State) (f : Flight) (c : Nat) : Bool :=
  onTheWay { s with flights := s.flights.filter (fun g => match g.stage with | .filling _ => false | _ => true) } c (some f.home) f.stamp

/-- INVALIDATION (R193, R195, R198): the core, which wakes, drops the line and its victims; a fill that it has requested serves its loads
once. It does not overtake an earlier grant, value or invalidation, and its acknowledgement is the core's next message to the home (R196). -/
def invalidation (c x line : Nat) (s : State) : State :=
  match awaited s c x line false with
  | some f =>
    if overrun s f c then s
    else
      (invalidated (s.tick.2.wake c) c x line).modFlight f.id (fun g =>
        match g.stage with
        | .invalidating toGo back => { g with stage := .invalidating (delN toGo c) (back ++ [(c, s.tick.1)]) }
        | _ => g)
  | none => s

/-- INVALIDATION (R195). DESIGN CHOICE (log 53, unsafe). -/
def execInvalidation (core ctx line : Nat) (s : State) : Host.Outcome State Fault Refusal :=
  event (decide (core < coreCount)) (invalidation core ctx line) s

/-- The number of the acknowledgement that a core owes a registration. -/
def ackNumber (f : Flight) (c : Nat) : Nat :=
  match f.stage with
  | .invalidating _ back => ((back.find? (·.1 == c)).map (·.2)).getD 0
  | _ => 0

/-- INVALIDATION_ACK (R195): whether or not the core held the line; behind the core's earlier requests, notices and acknowledgements to that
home slice (R196). -/
def invalidationAck (c x line : Nat) (s : State) : State :=
  match awaited s c x line true with
  | some f =>
    if sentBefore s c x (128 * line) (ackNumber f c) then s
    else
      (traceMsg s x line 4 c 0).modFlight f.id (fun g =>
        match g.stage with
        | .invalidating toGo back => { g with stage := .invalidating toGo (back.filter (·.1 != c)) }
        | _ => g)
  | none => s

/-- INVALIDATION_ACK (R195). -/
def execInvalidationAck (core ctx line : Nat) (s : State) : Host.Outcome State Fault Refusal :=
  event (decide (core < coreCount)) (invalidationAck core ctx line) s

/-- The scale of an STMX is performed with its block, in one event (R115); its word is registered as a store's is. -/
def storeScale (f : Flight) (s : State) : State :=
  match f.scale with
  | some q => storeAt (touchStore s f.core f.ctx q.1.toNat q.2.1.length q.2.2) q.2.2.key q.2.1
  | none => s

/-- The invalidations of the scale's line of an STMX cannot go at once (R115, R196). -/
def scaleBehind (s : State) (f : Flight) : Bool := (f.also.map (fun a => readersBehind s f.core f.ctx a.1.toNat a.2.length)).getD false

/-- REGISTRATION_GRANT (R197 steps 3 to 6): every acknowledgement has come; words are recalled from other registrants, the requester is
recorded, and its store is performed, after those that its thread sent to the slice before it (R120), an STMX whole (R115); a word of tier 2
is written at its home slice (R339). DESIGN CHOICE (log 53, unsafe). -/
def registrationGrant (f : Flight) (s : State) : State :=
  match f.stage, f.op with
  | .invalidating [] [], .store bs =>
    if f.storeBefore s || scaleBehind s f then s
    else
    let s := filled s f .granted
    storeScale f (if eTier f.entry = 2 then storeAt (touchHome s f.core f.ctx f.addr.toNat f.len f.place) f.key bs
      else storeAt (registerWords (clearReaders s f.ctx f.line) f.core f.ctx f.addr.toNat f.len f.place) f.key bs)
  | _, _ => s

/-- REGISTRATION_GRANT (R197). -/
def execRegistrationGrant (id : Nat) (s : State) : Host.Outcome State Fault Refusal := event true (withFlight id registrationGrant) s

/-- The home slice has translated, checked and accepted a store that is not performed yet: its thread goes on, and the store counts in `unack`
until its grant (R111). -/
def acceptStore (f : Flight) (s : State) : State :=
  if awaits s f.core f.slot f.uid f.id then replyTo execThread f.core f.slot f.uid f.id [] s else s

/-- GLOBAL_STORE_ACCEPT (R111, R197): the home slice accepts the store and its bundle retires, before the store is performed or with its
grant, which reaches the core; or the core holds the words registered and performs the store in its own array. A performed store leaves
`unack`. DESIGN CHOICE (log 53, unsafe). -/
def globalStoreAccept (f : Flight) (s : State) : State :=
  match f.stage, f.op with
  | .granted, .store _ =>
    if undelivered s f then s else replyTo execThread f.core f.slot f.uid f.id [] (uncount f (s.dropFlight f.id))
  | .invalidating _ _, .store _ => acceptStore f s
  | .translated, .store bs =>
    if unregistered s f then acceptStore f s
    else if f.storeBefore s then s
    else replyTo execThread f.core f.slot f.uid f.id []
      (storeScale f (storeAt (backInvalidate (uncount f (s.dropFlight f.id)) f.ctx f.line f.key) f.key bs))
  | _, _ => s

/-- GLOBAL_STORE_ACCEPT (R111). -/
def execGlobalStoreAccept (id : Nat) (s : State) : Host.Outcome State Fault Refusal := event true (withFlight id globalStoreAccept) s

/-! Fabric accesses (R108, R109). -/

/-- An earlier packet of the core to a target of this access is still on its way (R331). -/
def overtakes (s : State) (f : Flight) : Bool := f.targets.any (fun t => pathBefore s f.core t f.seq)

/-- The first part of a fabric access that its target does not take (R108). Of an STMX the block comes before the scale, so the scale's
address is the one reported (R109) only where the scale alone is refused. DESIGN CHOICE (log 73, unsafe). -/
def refusedPart (s : State) (f : Flight) : Option Word :=
  ((f.addr, f.len) :: (f.also.map (fun a => (a.1, a.2.length))).toList).findSome? (fun p =>
    if targetTakes s f.ctx p.1 p.2 then none else some p.1)

/-- The key of a fabric address (R108). -/
def fabKey (va : Word) : Nat := spadKey (fabCore va) (wbits va 19 0)

/-- FABRIC_ACCESS_ARRIVE (R108, R109, R115): the target core performs the access in its array, or refuses it; an STMX is performed whole
or not at all. -/
def fabricAccessArrive (f : Flight) (s : State) : State :=
  if f.stage = .issued ∧ f.isFabric = true ∧ overtakes s f = false then
    let key := fabKey f.addr
    let p : Place := { key := key, home := 512 + fabCore f.addr, glob := false }
    match refusedPart s f with
    | some va =>
      match f.op with
      | .store _ => filled (s.modFlight f.id (fun g => { g with addr := va })) f (.acked true)
      | _ => filled s f (.refused f.rights.cause f.addr.toNat)
    | none =>
      match f.op with
      | .store bs => filled (match f.also with | some a => storeAt (storeAt s key bs) (fabKey a.1) a.2 | none => storeAt s key bs) f (.acked false)
      | .load =>
        (match poisonedAt s p f.addr f.len with
        | some a => filled s f (.refused cPOISON a.toNat)
        | none => filled s f (.arrived (s.bytes key f.len)))
      | .atomic op ty b exp =>
        (match poisonedAt s p f.addr f.len with
        | some a => filled s f (.refused cPOISON a.toNat)
        | none =>
          filled (storeAt s key (toBytes f.len (atomResult op ty (s.num key f.len) b.toNat exp.toNat))) f
            (.arrived (s.bytes key f.len)))
  else s

/-- FABRIC_ACCESS_ARRIVE (R108). -/
def execFabricAccessArrive (id : Nat) (s : State) : Host.Outcome State Fault Refusal := event true (withFlight id fabricAccessArrive) s

/-- FABRIC_STORE_ACK (R109, R111): the acknowledgement of a posted store, or its failure, reaches the issuer. -/
def fabricStoreAck (f : Flight) (s : State) : State :=
  match f.stage with
  | .acked failed =>
    if undelivered s f then s
    else
    settle f.core f.slot (acknowledge (s.dropFlight f.id) f.core f.slot f.uid (if failed then some (f.seq, f.addr) else none))
  | _ => s

/-- FABRIC_STORE_ACK (R111). -/
def execFabricStoreAck (id : Nat) (s : State) : Host.Outcome State Fault Refusal := event true (withFlight id fabricStoreAck) s

/-! Acknowledgements of messages and contributions. -/

/-- MESSAGE_ACCEPT (R167): the acknowledgement reaches the sender, behind the target's earlier packets to it (R331). -/
def messageAcknowledged (c : Nat) (s : State) : State :=
  match (s.core c).station with
  | m :: _ =>
    if m.counted then (if pathBusy s c m.srcCore then s else settle m.srcCore m.srcSlot (messageAccept c s)) else messageAccept c s
  | [] => s

/-- MESSAGE_ACCEPT (R167). -/
def execMessageAccept (core : Nat) (s : State) : Host.Outcome State Fault Refusal :=
  event (decide (core < coreCount)) (messageAcknowledged core) s

/-- COMBINE_ARRIVE (R336): the acknowledgements reach the contributors, behind the owner's earlier packets to them (R331). -/
def combineAcknowledged (id : Nat) (s : State) : State :=
  match (s.cores.flatMap (fun c => c.2.packets)).find? (·.id == id) with
  | some p => if p.from_.any (fun f => pathBusy s p.owner f.1) then s else p.from_.foldl (fun t f => settle f.1 f.2.1 t) (combineArrive id s)
  | none => s

/-- COMBINE_ARRIVE (R336). DESIGN CHOICE (log 26, unsafe). -/
def execCombineArrive (id : Nat) (s : State) : Host.Outcome State Fault Refusal := event true (combineAcknowledged id) s

/-! Replies. -/

/-- REPLY_ARRIVE (R22, R157, R161): the value reaches the core, and both results of the bundle are written; a refused access makes its
bundle trap (R107, R109, R199). -/
def replyArrive (f : Flight) (s : State) : State :=
  match f.stage with
  | .arrived v => if undelivered s f then s else replyTo execThread f.core f.slot f.uid f.id v (s.dropFlight f.id)
  | .refused cause va => if undelivered s f then s else refuseTo f.core f.slot f.uid f.id cause (wd va) (s.dropFlight f.id)
  | _ => s

/-- REPLY_ARRIVE (R161). -/
def execReplyArrive (id : Nat) (s : State) : Host.Outcome State Fault Refusal := event true (withFlight id replyArrive) s

/-- BUNDLE_REISSUE (R161): a bundle that a page fault dropped is issued again, at the thread's next turn after the wake. -/
def execBundleReissue (core slot : Nat) (s : State) : Host.Outcome State Fault Refusal :=
  event (slotOk core slot) (fun s => if (s.slot core slot).woken then turn execThread core slot s else s) s

/-- MMA_RETIRE (R253): after the form's cycles the accumulator is written, the rings are popped, and the bundle retires, once the reply of
its C-slot has come too and the thread's stores are performed, for the pop is a release (R250). An operation whose bundle has been dropped or
has trapped leaves the unit with nothing taken (R254). -/
def mmaRetire (c : Nat) (s : State) : State :=
  match (s.core c).mma with
  | some r =>
    let waits := (s.slot c r.slot).wait = some (.reply 0)
    if (s.core c).cyc < r.doneAt then s
    else if mmaKept (s.core c) then (if waits ∧ (s.slot c r.slot).unack = 0 then resume execThread c r.slot s else s)
    else if mmaOf (s.core c) r.slot then
      let u := s.modSlot c r.slot (fun l => { l with mop := l.mop.map (fun o => { o with done := true }) })
      if waits then resume execThread c r.slot u else settle c r.slot u
    else settle c r.slot (s.modCore c (fun k => { k with mma := none }))
  | none => s

/-- MMA_RETIRE (R253). -/
def execMmaRetire (core : Nat) (s : State) : Host.Outcome State Fault Refusal := event (decide (core < coreCount)) (mmaRetire core) s

end Sys2Proof.Machine
end

