-- ==== Sys2Proof/Machine/Manage.lean ====
section
/-!
DEFINITION. Management (R17, R18, R346, R348 to R355): the configuration record, block clocks, the reset ladder, background work,
retirement, telemetry, identity and firmware images.
-/
namespace Sys2Proof.Machine

/-! The configuration record (R346). -/

/-- Frames of the tier of a pair of watermarks: tier 0 of dies 0 to 7, then tier 1. -/
def markFrames (i : Nat) : Nat := if i < 8 then (tierFrames 0 i).2 else (tierFrames 1 0).2

/-- A record within the limits of R346: 128 block ceilings, the hub allowance, and a low and a high watermark for tier 0 of
each die and for tier 1. -/
def recordOk (r : List Nat) : Bool :=
  decide (r.length = 147) && (r.take 129).all (fun v => decide (v < 2 ^ 16)) && (r.drop 129).all (fun v => decide (v < 2 ^ 32))
    && decide ((r.take 129).foldl (· + ·) 0 ≤ 32000) && decide (2500 ≤ r.getD 128 0)
    && (List.range 9).all (fun i => decide (r.getD (129 + 2 * i) 0 < r.getD (130 + 2 * i) 0) && decide (r.getD (130 + 2 * i) 0 ≤ markFrames i))

/-- Numbers as a sparse array from index 0. -/
def numbered (l : List Nat) : SMap Nat := (List.range l.length).map (fun i => (i, l.getD i 0))

/-- CONFIG_RECORD_WRITE (R346): a record that breaks a limit leaves the previous one in force. -/
def configWrite (r : List Nat) (s : State) : State :=
  if recordOk r then s.modManage (fun m => { m with
    ceilings := numbered (r.take 128), hub := r.getD 128 0
    low := numbered ((List.range 9).map (fun i => r.getD (129 + 2 * i) 0))
    high := numbered ((List.range 9).map (fun i => r.getD (130 + 2 * i) 0))
    below := [], configs := m.configs + 1 })
  else s

/-- CONFIG_RECORD_WRITE (R346). DESIGN CHOICE (log 8, unsafe; log 44, safe). -/
def execConfigRecordWrite (record : List Nat) (s : State) : Host.Outcome State Fault Refusal := event true (configWrite record) s

/-- The record in force. -/
def configRecord (m : Manage) : List Nat :=
  (List.range 128).map (fun i => lookD m.ceilings i 0) ++ [m.hub]
    ++ (List.range 9).flatMap (fun i => [lookD m.low i 0, lookD m.high i (markFrames i)])

/-- The clock of a block, in steps of 100 MHz; it runs at the lowest before its first choice. DESIGN CHOICE (log 44, safe). -/
def blockClock (s : State) (b : Nat) : Nat := lookD s.manage.clocks b 12

/-- The highest clock up to one that it asks for at which a block stays within its ceiling, by its sensors at a moment; the lowest clock where
there is none (R17, R18). DESIGN CHOICE (log 44, safe). -/
def clockWithin (b ceiling moment : Nat) : Nat → Nat
  | 0 => 12
  | n + 1 => if Config.blockPower b (12 + (n + 1)) moment ≤ ceiling then 12 + (n + 1) else clockWithin b ceiling moment n

/-- BLOCK_CLOCK_STEP (R17, R18, R346): the block takes its ceiling and chooses a clock, in steps of 100 MHz, from its sensors: the one it asks
for, or a lower one where that would take it above the ceiling. -/
def blockClockStep (b clock : Nat) (s : State) : State :=
  if 12 ≤ clock ∧ clock ≤ 36 then
    let q := s.tick
    let ceiling := lookD s.manage.ceilings b 0
    q.2.modManage (fun m => { m with clocks := put m.clocks b (clockWithin b ceiling q.1 (clock - 12)), taken := put m.taken b ceiling })
  else s

/-- BLOCK_CLOCK_STEP (R17). DESIGN CHOICE (log 44, safe). -/
def execBlockClockStep (block clock : Nat) (s : State) : Host.Outcome State Fault Refusal :=
  event (decide (block < 128)) (blockClockStep block clock) s

/-! The reset ladder (R348). -/

/-- The block of a core, and the block of a slice, in the package (R13). -/
def coreBlock (c : Nat) : Nat := c / 1024 * 16 + 4 * (c % 1024 / 256) + c % 32 / 8
def sliceBlock (h : Nat) : Nat := h / 64 * 16 + h % 64 / 4

/-- The cores of a block (R13). -/
def blockCores (b : Nat) : List Nat :=
  (List.range 64).map (fun i => b / 16 * 1024 + 32 * (8 * (b % 16 / 4) + i / 8) + 8 * (b % 4) + i % 8)

/-- The cores and the blocks that a reset covers. -/
def ResetKind.cores : ResetKind → List Nat
  | .core c | .retire c _ => [c]
  | .block b => blockCores b
  | .die d => (List.range 1024).map (1024 * d + ·)

def ResetKind.blocks : ResetKind → List Nat
  | .core _ | .retire _ _ => []
  | .block b => [b]
  | .die d => (List.range 16).map (16 * d + ·)

/-- A core loses its copies of lines: registered words are written back, and a clean line is noticed (R193, R348). -/
def loseLines (s : State) (c : Nat) : State :=
  ((s.core c).lines).foldl (fun t l =>
    if l.st = .registered then endRegistration t c l.ctx l.line
    else (t.modCore c (fun k => { k with lines := k.lines.filter (· != l) })).setDir l.ctx l.line ((t.dirOf l.ctx l.line).notice l.owner)) s

/-- Held segments are fetched again, all others are empty (R162, R348). -/
def refetch (m : SMap Seg) : SMap Seg :=
  m.filterMap (fun p =>
    match p.2.holder with
    | none => none
    | some _ => some (p.1, if p.2.st = .fetching then p.2 else { p.2 with st := .fetching, token := none, byUid := 0 }))

/-- The reset of a core's array and code store (R348): scratchpad, tags, rings, cached lines and code are lost, and the queues of the emptied
words are served (R204); `cyc` counts from 0 (R131); the decode tables hold their presets (R62), and the segments are fetched again. -/
def resetCore (before : State) (c : Nat) : State :=
  let s := loseLines before c
  let lo := spadKey c 0
  let hi := lo + 2 ^ 20
  let s : State := { s with
    mem := s.mem.filter (fun p => !(decide (lo ≤ p.1) && decide (p.1 < hi)) && !(decide (codeKey c 0 ≤ p.1) && decide (p.1 < codeKey (c + 1) 0)))
    full := s.full.filter (fun w => !(decide (lo / 8 ≤ w) && decide (w < hi / 8)))
    poison := s.poison.filter (fun w => !(decide (lo / 8 ≤ w) && decide (w < hi / 8))) }
  serveChanged before c (s.modCore c (fun k => { k with
        cyc := 0, frac := 0, busy := false, turns := [], slots := k.slots.map (fun p => (p.1, { p.2 with yielded := none }))
        rings := [], mma := none, segs := refetch k.segs, table0 := .preset .e4m3, table1 := .preset .e5m2, newTable := [] }))

/-- A thread that a reset stopped is restored (R142, R348): it starts once the segment of its pc has come again. -/
def restoreSlot (s : State) (c t : Nat) : State :=
  let s := restart s c t
  if (s.slot c t).phase = .ready ∧ (s.seg c ((s.slot c t).pc.toNat / 4096)).st = .fetching then
    s.modSlot c t (fun l => { l with phase := .starting })
  else s

/-- The home slice of a line, by its context's tables. -/
def lineHome (s : State) (x line : Nat) : Nat :=
  match walk s x (128 * line) with
  | .leaf _ _ e => homeSlice (walkSlice x (128 * line)) e
  | _ => walkSlice x (128 * line)

/-- The reset of a block's slices (R348): cached translations go, registered words and dirty lines are written back, which memory accepts
(R201), and directory entries are cleared with the copies they name. -/
def resetSlices (s : State) (b : Nat) : State :=
  let mine := s.dirs.filter (fun d => sliceBlock (lineHome s (d.1 / 2 ^ 50) (d.1 % 2 ^ 50)) == b)
  let s := mine.foldl (fun t d =>
    let x := d.1 / 2 ^ 50
    let line := d.1 % 2 ^ 50
    let t := d.2.regs.foldl (fun t r => endRegistration t r.1 x line) t
    invalidateReaders t x line 8192) s
  { s with
    tlbs := s.tlbs.filter (fun t => sliceBlock t.slice != b)
    dirs := s.dirs.filter (fun d => !mine.any (·.1 == d.1))
    unwritten := s.unwritten.filter (fun w => sliceBlock (lineHome s (w.1 / 2 ^ 54) (w.1 % 2 ^ 54 / 16)) != b) }

/-- Live threads on the cores that a reset covers, those that a suspension has stopped among them; slot 63 has none that a program knows. -/
def liveOn (s : State) (cs : List Nat) : List (Nat × Nat) :=
  (s.cores.filter (fun p => cs.contains p.1)).flatMap (fun p =>
    p.2.slots.filterMap (fun t => if t.1 != 63 && t.2.phase != .free then some (p.1, t.1) else none))

/-- The threads that a reset needs stopped: those on its cores and those of the contexts that it suspends (R348). -/
def ResetRun.threads (s : State) (r : ResetRun) : List (Nat × Nat) := (liveOn s r.kind.cores ++ r.ctxs.flatMap (slotsOf s)).eraseDups

/-- A reset pre-empts each of its threads that runs or starts to run (R142, R348): the run with what it has stopped, and the state. -/
def gatherReset (s : State) (r : ResetRun) : ResetRun × State :=
  let ts := (r.threads s).filter (fun p => (s.slot p.1 p.2).phase != .stopped && !(s.slot p.1 p.2).stopping)
  ({ r with slots := (r.slots ++ ts).eraseDups }, ts.foldl (fun t p => stopSlot p.1 p.2 t) s)

/-- A reset begins (R348): a block or a die suspends every context. -/
def beginReset (s : State) (kind : ResetKind) : ResetRun × State :=
  let xs := if kind.blocks.isEmpty then [] else
    (s.ctxs.filter (fun p => p.2.st == .runnable || p.2.st == .running)).map (·.1)
  (⟨kind, [], xs⟩, xs.foldl (fun t x => t.modCtx x (fun k => { k with st := .suspended })) s)

/-- Every thread of a reset has stopped, or has not started. -/
def resetReady (s : State) (r : ResetRun) : Bool :=
  (r.threads s).all (fun p => let l := s.slot p.1 p.2; l.phase == .stopped || l.phase == .starting)

/-! Retirement (R350, R351). -/

/-- Mark the words of a line that a mask names as poisoned (R199). -/
def poisonWords (s : State) (x line mask : Nat) : State :=
  match walk s x (128 * line) with
  | .leaf _ pb e =>
    let key := memKey (eTier e) (eFrame e * 4096 + 128 * line % 2 ^ pb)
    ((List.range 16).filter mask.testBit).foldl (fun t i => t.setPoison (key + 8 * i) true) s
  | _ => s

/-- The core is fenced (R199, R350): every word registered by it is poisoned at its home. -/
def fence (s : State) (c : Nat) : State :=
  s.dirs.foldl (fun t d =>
    match look d.2.regs c with
    | some mask => endRegistration (poisonWords t (d.1 / 2 ^ 50) (d.1 % 2 ^ 50) mask) c (d.1 / 2 ^ 50) (d.1 % 2 ^ 50)
    | none => t) s

/-- A thread ends by a retirement, as if cancelled; the monitor learns of it (R138, R350, R351). -/
def loseThread (s : State) (c t : Nat) : State :=
  if (s.slot c t).phase = .free then s
  else
    let s := toMonitor s (s.ctxOf c t) [reportWord 0x44 cPOISON 0 (thid c t), 0, wd (s.slot c t).launch]
    tryEnd (s.modSlot c t (fun l => { l with cancelled := true })) c t

/-- The saved threads of a core whose index becomes absent end (R351). -/
def loseSaved (s : State) (c : Nat) : State :=
  s.ctxs.foldl (fun t p => (p.2.saved.filter (·.core == c)).foldl (fun u v =>
    endSaved (toMonitor u p.1 [reportWord 0x44 cPOISON 0 (thid v.core v.slot), 0, wd v.launch]) p.1 v) t) s

/-- Every word of a core's scratchpad is poisoned: what was stranded on a retired core is reported as lost to whoever reads it (R2). -/
def poisonSpad (s : State) (c : Nat) : State :=
  let lo := spadKey c 0 / 8
  let n := spadBytes (s.core c) / 8
  { s with poison := s.poison.filter (fun w => decide (w < lo)) ++ (List.range n).map (lo + ·) ++ s.poison.filter (fun w => decide (lo + n ≤ w)) }

/-- What slot 63 and the message queue of a core held is gone with the core (R351): items of queued messages fail (R274), and the threads that
the requests in hand belonged to have no transfer any more (R148). DESIGN CHOICE (log 50, unsafe). -/
def abandonCore (s : State) (c : Nat) : State :=
  let k := s.core c
  let users := k.chans.filterMap (fun h => h.2.who) ++ k.writer.toList
  let s := s.setCore c { k with queue := [], kept := [], chans := [], matches_ := [], mbox := [], claim := none, writer := none }
  let s := k.queue.foldl (fun t m => match itemOf m.kind with | some i => failItem t m.ctx i 0 (thid c 62) | none => t) s
  users.foldl (fun t w => settleItem (settleMember t w.2.2.1 c w.2.1) w.2.2.1 c w.2.1) s

/-- The last steps of a retirement (R350): a spare takes over the index, and what the retirement stopped goes on, but the threads whose image
cannot be read end; with no spare left the index becomes absent, and every thread there ends (R351). -/
def finishRetire (s : State) (c : Nat) (lost : List Nat) (ts : List (Nat × Nat)) : State :=
  let die := c / 1024
  let live := liveOn s [c]
  let s := poisonSpad (resetCore (fence s c) c) c
  if lookD s.manage.sparesUsed die 0 < 32 then
    let s := (s.modCore c (fun k => { k with spare := true, errors := [] })).modManage (fun m =>
      { m with sparesUsed := put m.sparesUsed die (lookD m.sparesUsed die 0 + 1) })
    telemetry 4 (live.foldl (fun t p =>
      if lost.contains p.2 then loseThread t p.1 p.2 else if ts.contains p then restoreSlot t p.1 p.2 else t) s)
  else
    let s := (s.modCore c (fun k => { k with absent := true })).modManage (fun m => { m with absentLog := m.absentLog ++ [c] })
    telemetry 4 (loseSaved (live.foldl (fun t p => loseThread t p.1 p.2) (abandonCore s c)) c)

/-- A reset ends: what it covers is reset, and what it stopped goes on; a thread that was stopped before stays so. -/
def finishReset (s : State) (r : ResetRun) : State :=
  match r.kind with
  | .retire c lost => finishRetire s c lost r.slots
  | kind =>
    let s := kind.cores.foldl (fun t c => if (look t.cores c).isSome && !(t.core c).absent then resetCore t c else t) s
    let s := kind.blocks.foldl resetSlices s
    let s := r.ctxs.foldl (fun t x => if (t.ctx x).st = .suspended then t.modCtx x (fun k => { k with st := .runnable }) else t) s
    r.slots.foldl (fun t p => restoreSlot t p.1 p.2) s

/-- The reset of a kind goes on as far as it can: it begins when none of its kind is on the way, and ends once its threads have
stopped. -/
def advanceReset (kind : ResetKind) (s : State) : State :=
  let b := match s.manage.resets.find? (·.kind == kind) with
    | some r => (r, s.modManage (fun m => { m with resets := dropFirst (· == r) m.resets }))
    | none => beginReset s kind
  let g := gatherReset b.2 b.1
  if resetReady g.2 g.1 then finishReset g.2 g.1 else g.2.modManage (fun m => { m with resets := m.resets ++ [g.1] })

/-- ENGINE_RESET (R348, R355): at its idle point an engine loses no state; a reset of the Daward controller activates its pending
image, and no record's `seq` stays odd over it. -/
def engineReset (e : Engine) (s : State) : State :=
  match e with
  | .daward =>
    if s.manage.daward.pending then
      telemetryEnd 6 (telemetry 6 (((List.range 8).foldl (fun t n => telemetryEnd n t) s).modManage (fun m => { m with daward := m.daward.activate 1 })))
    else s
  | _ => s

/-- ENGINE_RESET (R348). -/
def execEngineReset (e : Engine) (s : State) : Host.Outcome State Fault Refusal := event true (engineReset e) s

/-- CORE_RESET (R348). DESIGN CHOICE (log 48, unsafe). -/
def execCoreReset (core : Nat) (s : State) : Host.Outcome State Fault Refusal :=
  event (decide (core < coreCount)) (fun s => if (s.core core).absent then s else advanceReset (.core core) s) s

/-- BLOCK_RESET (R348). DESIGN CHOICE (log 49, unsafe). -/
def execBlockReset (block : Nat) (s : State) : Host.Outcome State Fault Refusal :=
  event (decide (block < 128)) (advanceReset (.block block)) s

/-- DIE_RESET (R348): the die's stacked DRAM keeps its contents. DESIGN CHOICE (log 49, unsafe). -/
def execDieReset (die : Nat) (s : State) : Host.Outcome State Fault Refusal :=
  event (decide (die < 8)) (advanceReset (.die die)) s

/-- What of a core outlasts a package reset. DESIGN CHOICE (log 49, unsafe). -/
def Core.afterPackage (c : Nat) (k : Core) : Core := { Core.initial c with absent := k.absent, spare := k.spare, errors := k.errors }

/-- PACKAGE_RESET (R348, R173): every context ends, with an event record of kind 2 for each, and every die is reset; memory of the
tiers stays. The entry of a context that was being built completes as cancelled, and with no wave open and no entry in hand a pending image of
the sequencers and of the command cores is active (R355); the frames that come back count for the watermarks (R297). -/
def packageReset (s : State) : State :=
  let s := s.ctxs.foldl (fun t p => if p.2.st = .free then t else hostEvent t p.1 2 0 0 0) s
  let s := s.manage.adminQueue.entries.foldl (fun t e => adminFinish t e.seq (eKind e.words) 8) s
  let t : State :=
    { mem := s.mem.filter (fun c => decide (c.1 < 2 ^ 63))
      full := s.full.filter (fun w => decide (w < 2 ^ 60))
      poison := s.poison.filter (fun w => decide (w < 2 ^ 60))
      cores := s.cores.map (fun p => (p.1, p.2.afterPackage p.1))
      manage := { s.manage with running := [], resets := [], lastQueue := [] }
      env := s.env }
  (List.range 8).foldl (fun t d => activateSequencer d t) (activateCommand (noteFree t))

/-- PACKAGE_RESET (R348). DESIGN CHOICE (log 49, unsafe). -/
def execPackageReset (s : State) : Host.Outcome State Fault Refusal := event true packageReset s

/-- The key of a byte lies in far memory. -/
def farKey (k : Nat) : Bool := decide (2 ^ 48 ≤ k) && decide (k < 2 ^ 49)

/-- MODULE_RESET (R348, R351, R202): as a package reset; far memory is lost, every tag is empty, absent indices return, and the Daward
controller starts anew with the configuration record it holds. -/
def moduleReset (s : State) : State :=
  let s := packageReset s
  let m := s.manage
  { s with
    mem := s.mem.filter (fun c => !farKey c.1)
    full := []
    poison := s.poison.filter (fun w => !farKey (8 * w))
    cores := []
    manage := { ceilings := m.ceilings, taken := m.ceilings, hub := m.hub, low := m.low, high := m.high, configs := m.configs
                admin := m.admin, vectors := m.vectors, transfer := m.transfer, sequencer := m.sequencer, command := m.command
                daward := if m.daward.pending then m.daward.activate 1 else m.daward, hostRead := m.hostRead } }

/-- MODULE_RESET (R348). DESIGN CHOICE (log 49, unsafe). -/
def execModuleReset (s : State) : Host.Outcome State Fault Refusal := event true moduleReset s

/-! Background work and errors (R349, R350). -/

/-- BURNISHING (R349): the patrol scrub passes a word; one that it cannot correct is poisoned. -/
def burnish (key : Nat) (ok : Bool) (s : State) : State :=
  let s := s.modManage (fun m => { m with burnished := m.burnished + 1 })
  if ok then s else uncorrectable key s

/-- BURNISHING (R349). -/
def execBurnishing (key : Nat) (ok : Bool) (s : State) : Host.Outcome State Fault Refusal := event true (burnish key ok) s

/-- CALIBRATION (R349): the loop's twin carries its traffic meanwhile; nothing that an agent can read changes. -/
def execCalibration (die loop : Nat) (s : State) : Host.Outcome State Fault Refusal :=
  event (decide (die < 8) && decide (loop < 136)) id s

/-- REFRESH (R349). -/
def execRefresh (s : State) : Host.Outcome State Fault Refusal := event true id s

/-- The instants of one hour. -/
def hour : Nat := 360000000000 * Config.instants

/-- CORRECTED_ERROR (R349, R350): corrected in place, and counted; a core that passes 16 of them in one hour is retired.
DESIGN CHOICE (log 50, unsafe). -/
def correctedError (c : Nat) (s : State) : State :=
  let es := (s.core c).errors.filter (fun t => decide (s.manage.now < t + hour)) ++ [s.manage.now]
  let s := (s.modCore c (fun k => { k with errors := es })).modManage (fun m => { m with corrected := m.corrected + 1 })
  if 16 < es.length ∧ (s.core c).absent = false then advanceReset (.retire c []) s else s

/-- CORRECTED_ERROR (R349, R350). DESIGN CHOICE (log 50, unsafe). -/
def execCorrectedError (core : Nat) (s : State) : Host.Outcome State Fault Refusal := event (decide (core < coreCount)) (correctedError core) s

/-- CORE_RETIREMENT (R350, R351). DESIGN CHOICE (log 50, unsafe). -/
def execCoreRetirement (core : Nat) (lost : List Nat) (s : State) : Host.Outcome State Fault Refusal :=
  event (decide (core < coreCount)) (fun s => if (s.core core).absent then s else advanceReset (.retire core lost) s) s

/-- TELEMETRY_SAMPLE (R352): record types are 1 to 7; an update that is on the way ends. DESIGN CHOICE (log 46, safe). -/
def telemetrySample (type : Nat) (s : State) : State :=
  if 1 ≤ type ∧ type ≤ 7 then (if (s.manage.record type).1 % 2 = 1 then telemetryEnd type s else telemetry type s) else s

/-- TELEMETRY_SAMPLE (R352). DESIGN CHOICE (log 46, safe). -/
def execTelemetrySample (type : Nat) (s : State) : Host.Outcome State Fault Refusal := event true (telemetrySample type) s

/-! Identity (R353). -/

/-- The version of an image in its active bank (R354). -/
def Firmware.version (n : Nat) (f : Firmware) : Nat := f.active.getD (Config.factoryVersion n)

/-- The image of a measurement index. -/
def measured (m : Manage) (index : Nat) : Option Firmware :=
  match index with
  | 1 => some m.daward | 2 => some m.command | 3 => some m.transfer | 4 => some m.sequencer | _ => none

/-- The responder answers a request of a kind. -/
def respond (kind : Nat) (words : List Word) (s : State) : State :=
  s.modManage (fun m => { m with spdm := kind, answer := words, answers := m.answers + 1 })

/-- An answer whose content the spec does not give. -/
def answerOf (kind : Nat) (args : List Nat) : List Word := (List.range (Config.answerWords kind)).map (Config.identity kind args)

/-- GET_VERSION (R353). -/
def execGetVersion (s : State) : Host.Outcome State Fault Refusal := event true (respond 1 (answerOf 1 [])) s

/-- GET_CAPABILITIES (R353). -/
def execGetCapabilities (s : State) : Host.Outcome State Fault Refusal := event true (respond 2 (answerOf 2 [])) s

/-- NEGOTIATE_ALGORITHMS (R353). -/
def execNegotiateAlgorithms (algs : Nat) (s : State) : Host.Outcome State Fault Refusal :=
  event true (fun s => respond 3 (answerOf 3 [algs]) (s.modManage (fun m => { m with algs := some algs }))) s

/-- GET_DIGESTS (R353). -/
def execGetDigests (s : State) : Host.Outcome State Fault Refusal := event true (respond 4 (answerOf 4 [])) s

/-- GET_CERTIFICATE (R353). DESIGN CHOICE (log 47, unsafe). -/
def execGetCertificate (slot : Nat) (s : State) : Host.Outcome State Fault Refusal := event true (respond 5 (answerOf 5 [slot])) s

/-- CHALLENGE (R353): the signature covers the nonce and may differ each time. DESIGN CHOICE (log 47, unsafe). -/
def execChallenge (slot nonce : Nat) (s : State) : Host.Outcome State Fault Refusal :=
  event true (fun s => respond 6 (answerOf 6 [slot, nonce, s.manage.answers]) s) s

/-- The words of a SHA-256 measurement (R353): of an image by its active version, of the configuration record by its content. -/
def measurementOf (m : Manage) (index : Nat) : List Word :=
  match measured m index with
  | some f => (List.range 4).map (Config.measurement index (f.version index))
  | none => if index = 5 then (List.range 4).map (Config.recordDigest (configRecord m)) else answerOf 7 [index]

/-- GET_MEASUREMENTS (R353). DESIGN CHOICE (log 47, unsafe). -/
def execGetMeasurements (index : Nat) (s : State) : Host.Outcome State Fault Refusal :=
  event true (fun s => respond 7 (measurementOf s.manage index) s) s

/-! Firmware images (R354, R355). -/

/-- The measurement index of an image (R353). -/
def imageIndex : Image → Nat
  | .daward => 1 | .command => 2 | .transfer => 3 | .sequencer => 4

def Manage.image (m : Manage) : Image → Firmware
  | .daward => m.daward | .command => m.command | .transfer => m.transfer | .sequencer => m.sequencer

def Manage.setImage (m : Manage) (i : Image) (f : Firmware) : Manage :=
  match i with
  | .daward => { m with daward := f } | .command => { m with command := f }
  | .transfer => { m with transfer := f } | .sequencer => { m with sequencer := f }

/-- An activation is pending (R354): for the transfer microcode, while a request taken on an older version runs (R355). -/
def activationPending (s : State) (i : Image) : Bool :=
  (s.manage.image i).pending
    || i == .transfer && s.cores.any (fun p => p.2.chans.any (fun h => h.2.who.isSome && h.2.ver != s.manage.transfer.active))

/-- FIRMWARE_UPDATE (R354): status 0 accepted, 1 refused, 2 BUSY. -/
def firmwareUpdate (i : Image) (version : Nat) (signed : Bool) (s : State) : State :=
  let f := s.manage.image i
  if activationPending s i then s.modManage (fun m => { m with pldmStatus := 2 })
  else if signed && decide (f.version (imageIndex i) ≤ version) then
    telemetry 6 (s.modManage (fun m => { (m.setImage i { f with inactive := some version }) with pldmStatus := 0 }))
  else s.modManage (fun m => { m with pldmStatus := 1 })

/-- FIRMWARE_UPDATE (R354). DESIGN CHOICE (log 45, unsafe). -/
def execFirmwareUpdate (img : Image) (version : Nat) (signed : Bool) (s : State) : Host.Outcome State Fault Refusal :=
  event true (firmwareUpdate img version signed) s

/-- The engines of an image are at their idle point (R355): a channel that takes its next request does so on the new microcode; a command core
that builds a context has an entry in hand; of the sequencers none has an open wave. -/
def atIdlePoint (s : State) : Image → Bool
  | .transfer => true
  | .command => s.manage.adminQueue.entries.isEmpty
  | .sequencer => (List.range 8).all (seqIdle s)
  | .daward => false

/-- IMAGE_ACTIVATION (R355): at the idle point at once, else it stays pending; of the eight sequencers each that has no open wave runs the new
microcode at once. -/
def imageActivation (i : Image) (s : State) : State :=
  let f := s.manage.image i
  if f.inactive.isNone then s
  else if atIdlePoint s i then telemetry 6 (s.modManage (fun m => m.setImage i (f.activate (imageIndex i))))
  else s.modManage (fun m => { m.setImage i { f with pending := true } with
    seqDone := if i = .sequencer then (List.range 8).filter (seqIdle s) else m.seqDone })

/-- IMAGE_ACTIVATION (R355). DESIGN CHOICE (log 45, unsafe). -/
def execImageActivation (img : Image) (s : State) : Host.Outcome State Fault Refusal := event true (imageActivation img) s

end Sys2Proof.Machine
end

