-- ==== Sys2Proof/Machine/Debug.lean ====
section
/-!
DEFINITION. The commands of the debugger (R217, R220, R291, R326, R345). What a command prints goes to the Daward controller's `printed`
words; a command that only prints changes nothing else.
-/
namespace Sys2Proof.Machine

/-- A command prints words. -/
def printWords (f : State → List Word) (s : State) : State := s.modManage (fun m => { m with printed := f s })

/-! Stops (R217). -/

/-- BREAKPOINT_STOP (R217): a breakpoint stands for a context's thread in a slot of a core, before or after the thread starts; the thread is
stopped where the bundle at the code address is its next, and at every later issue of it, but the first after it leaves this stop. -/
def breakpointStop (x c t addr : Nat) (s : State) : State :=
  let s := s.modManage (fun m => { m with breaks := if m.breaks.contains (x, c, t, addr) then m.breaks else m.breaks ++ [(x, c, t, addr)] })
  let l := s.slot c t
  if l.phase = .ready ∧ l.held = none ∧ l.pc.toNat = addr ∧ atBreakpoint s c t = true then debugStop c t s else s

/-- BREAKPOINT_STOP (R217). DESIGN CHOICE (log 54, safe). -/
def execBreakpointStop (thread point : Nat × Nat) (s : State) : Host.Outcome State Fault Refusal :=
  event (slotOk thread.1 thread.2) (breakpointStop point.1 thread.1 thread.2 point.2) s

/-- The stop is withdrawn: a withdrawn wait is entered afresh, and the breakpoint at the pc is passed once. -/
def leaveStop (c t : Nat) (s : State) : State :=
  let s := restart s c t
  let stands := fun (l : Slot) => s.manage.breaks.contains (s.ctxOf c t, c, t, l.pc.toNat)
  s.modSlot c t (fun l => { l with rudb := false, passBrk := if stands l then some l.pc.toNat else none })

/-- A stopped thread goes on. -/
def contThread (c t : Nat) (s : State) : State := if (s.slot c t).rudb then leaveStop c t s else s

/-- CONT (R217). DESIGN CHOICE (log 54, safe). -/
def execCont (core slot : Nat) (s : State) : Host.Outcome State Fault Refusal :=
  event (slotOk core slot) (contThread core slot) s

/-- STEP (R217): one bundle of a stopped thread issues, and the thread stops again when the bundle has retired. -/
def stepThread (c t : Nat) (s : State) : State :=
  if (s.slot c t).rudb && (s.slot c t).phase == .stopped then
    turn execThread c t ((leaveStop c t s).modSlot c t (fun l => { l with oneStep := true }))
  else s

/-- STEP (R217). DESIGN CHOICE (log 54, safe). -/
def execStep (core slot : Nat) (s : State) : Host.Outcome State Fault Refusal := event (slotOk core slot) (stepThread core slot) s

/-! Lines (R217, R220). -/

/-- The 68 bits of a directory entry (R194): its body, and mode and count. -/
def dirWords (d : Dir) : List Word :=
  if d.coarse then [wd d.groups, 8]
  else [wd ((List.range d.ptrs.length).foldl (fun n i => n + d.ptrs.getD i 0 * 2 ^ (13 * i)) 0), wd d.ptrs.length]

/-- A registration record: `v:1 core:13 mask:16` (R197). -/
def recordWord (r : Nat × Nat) : Word := wd (2 ^ 29 + r.1 % 2 ^ 13 * 2 ^ 16 + r.2 % 2 ^ 16)

/-- DIR (R217): a directory entry and the line's registration records. -/
def execDir (ctx va : Nat) (s : State) : Host.Outcome State Fault Refusal :=
  event true (printWords fun s =>
    let d := s.dirOf ctx (va / 128)
    dirWords d ++ d.regs.map recordWord) s

/-- TRACE (R217): every message for one line at its home slice is recorded from now on. -/
def execTrace (slice ctx va : Nat) (s : State) : Host.Outcome State Fault Refusal :=
  event true (fun s => s.modManage (fun m =>
    { m with traces := if m.traces.contains (slice, ctx, va / 128) then m.traces else m.traces ++ [(slice, ctx, va / 128)] })) s

/-- FE (R220, R345): the value and the tag of the word at an address, read at its home as FESTAT reads it. -/
def execFe (ctx va : Nat) (s : State) : Host.Outcome State Fault Refusal :=
  event true (printWords fun s =>
    match locate s ctx true (wd (va / 8 * 8)) 8 forLoad with
    | .ok p => [wd (ofBytes (loadAt s p 8)), if s.isFull p.key && !p.dead then 1 else 0]
    | .error _ => []) s

/-- What rudb's `mem` prints (R217, R291, R326): `count` rows of `n` values of `width` bytes, 8 or with w32 and f32 4, from addresses `stride`
apart, each value read at its home as FE reads one. The table of operations has no row for `mem`, so it is a function of the state.
DESIGN CHOICE (log 54, safe). -/
def memRows (s : State) (ctx va width n count stride : Nat) : List (List Word) :=
  (List.range count).map (fun j => (List.range n).filterMap (fun i =>
    let a := va + stride * j + width * i
    match locate s ctx true (wd a) width forLoad with
    | .ok p => some (wd (ofBytes (loadAt s p width)))
    | .error _ => none))

/-- The runs of equal values of a row, as `mem … f32` prints them: a value and how often it stands there (R326).
DESIGN CHOICE (log 54, safe). -/
def memRuns : List Word → List (Word × Nat)
  | [] => []
  | v :: t =>
    match memRuns t with
    | (w, n) :: r => if v = w then (w, n + 1) :: r else (v, 1) :: (w, n) :: r
    | [] => [(v, 1)]

/-- A waiter: its thread and its kind, 0 LDFE, 1 LDF, 2 STFE, 3 BWAIT, 4 BCPL. -/
def waiterWord (w : Waiter) : Word :=
  wd ((match w.op with | .ldfe => 0 | .ldf => 1 | .stfe _ => 2 | .bwait _ => 3 | .bcpl _ => 4) * 2 ^ 32 + thid w.core w.slot)

/-- WAITERS (R220, R345): the waiter queue of an address's line at a slice, or at a target core for a fabric address, and its notes, the
oldest first; a note whose RETRY is on its way has been cleared (R205). -/
def execWaiters (place : Nat × Nat) (va : Nat) (s : State) : Host.Outcome State Fault Refusal :=
  event true (printWords fun s =>
    let h := if (wd va).getLsbD 63 then 512 + place.1 else place.1
    let line := lineId place.2 (wd va) (fabKey (wd va))
    (s.waiters.filter (fun w => w.line == line && w.home == h && !w.parked)).map waiterWord
      ++ (s.notes.filter (fun n => n.line == line && n.home == h && !n.sent)).map (fun n => wd (2 ^ 63 + n.core))) s

/-! Sheets and views (R291). -/

/-- A registered view: its thread, its generation, its count of issued bundles (R276); a saved thread keeps its own. -/
def viewWords (s : State) (x : Nat) (v : Nat × Nat) : List Word :=
  match s.cores.find? (fun p => (slotOfUid p.2 v.1).isSome) with
  | some p =>
    let t := (slotOfUid p.2 v.1).getD 0
    [wd (thid p.1 t), wd v.2, wd (p.2.slot t).viewCount]
  | none =>
    match (s.ctx x).saved.find? (·.uid == v.1) with
    | some q => [wd (thid q.core q.slot), wd v.2, wd q.viewCount]
    | none => [wd (2 ^ 63), wd v.2, 0]

/-- The sheet of a context: the committed generation; of every bound cell its number and CSTAT selectors 0 to 2; of every open wave its
generation, its roots and its work items by rank. -/
def sheetWords (s : State) (ctx : Nat) : List Word :=
  let k := s.ctx ctx
  let ranked := fun (w : Wave) => (w.items.map (fun i => ((k.cell i.1).rank * 2 ^ 20 + i.1, i.2))).foldl
    (fun (m : SMap ItemState) i => put m i.1 i.2) []
  wd k.committed :: (k.cells.filter (·.2.bound)).flatMap (fun p => [wd p.1, statOf s k p.1 0, statOf s k p.1 1, statOf s k p.1 2])
    ++ k.waves.flatMap (fun w => wd w.gen :: w.roots.map wd
      ++ (ranked w).map (fun i => wd (i.1 + (match i.2 with | .waiting => 0 | .dispatched => 1 | .finished => 2) * 2 ^ 60)))

/-- What the next work item of a cell waits for (R264, R271): its generation, how many of its precedents have not finished, and, while its
older buffer may not be written, that buffer's stamp and the views below the newer one's. -/
def itemWaitWords (s : State) (ctx n : Nat) : List Word :=
  let k := s.ctx ctx
  let c := k.cell n
  match k.waves.find? (fun w => (workOf k w).contains n && !readyIn k w n) with
  | none => []
  | some w =>
    let undone := (c.bind.precs.filter (fun p => !p.lag && !doneIn w p.cell)).length
    [wd w.gen, wd undone]
      ++ (if (c.pendingOf w.gen).isSome || canWrite k.views c then []
          else wd (c.buf c.older).stamp :: (k.views.filter (fun v => decide (v.2 < (c.buf (!c.older)).stamp))).flatMap (viewWords s ctx))

/-- The descriptor of a cell (R260 to R262): CSTAT selectors 0 to 2, its rank, its formula's launch and entry, its precedents with their lag
in bit 63, its hold mask, and any wait of its next work item. -/
def cellWords (s : State) (ctx n : Nat) : List Word :=
  let k := s.ctx ctx
  let c := k.cell n
  if c.bound then
    [statOf s k n 0, statOf s k n 1, statOf s k n 2, wd c.rank, wd c.bind.launch, wd c.bind.entry]
      ++ c.bind.precs.map (fun p => wd ((if p.lag then 2 ^ 63 else 0) + p.cell)) ++ c.hold.map wd ++ itemWaitWords s ctx n
  else []

/-- SHEET (R291): `sheet`, or `sheet n` for one cell. DESIGN CHOICE (log 54, safe). -/
def execSheet (what : Nat × Option Nat) (s : State) : Host.Outcome State Fault Refusal :=
  event true (printWords fun s => match what.2 with | none => sheetWords s what.1 | some n => cellWords s what.1 n) s

/-- VIEWS (R291). -/
def execViews (ctx : Nat) (s : State) : Host.Outcome State Fault Refusal :=
  event true (printWords fun s => (s.ctx ctx).views.flatMap (viewWords s ctx)) s

/-! Objects and taps (R326). -/

/-- REMELT_SWEEP (R326): the engine sweeps a tier as if its free count had fallen below its low watermark, and stops after `n`
destructions; the stopped threads of the `cont` list go on as the sweep starts. -/
def remeltSweep (tier die n : Nat) (conts : List (Nat × Nat)) (s : State) : State :=
  if tier ≤ 1 ∧ die < 8 ∧ sweeping s tier die = false then
    conts.foldl (fun t p => if slotOk p.1 p.2 then contThread p.1 p.2 t else t)
      (startSweep (s.modManage (fun m => { m with printed := [] })) tier die (some n))
  else s

/-- REMELT_SWEEP (R326). -/
def execRemeltSweep (place : Nat × Nat) (n : Nat) (conts : List (Nat × Nat)) (s : State) : Host.Outcome State Fault Refusal :=
  event true (remeltSweep place.1 place.2 n conts) s

/-- The place of a handle's record (R294): the package number of a slice for an object; for a cell the sheet home, which the spec names as a
die (R259), in bit 16 on. DESIGN CHOICE (log 54, safe). -/
def handleHome (k : Ctx) (ctx : Nat) (h : Word) : Nat := if hKind h = 1 then 2 ^ 16 + k.home else recordHome ctx (hObj h)

/-- OBJ (R326): HINFO selectors 0 to 2 of a handle, and the place of its record (R294). -/
def execObj (ctx handle : Nat) (s : State) : Host.Outcome State Fault Refusal :=
  event true (printWords fun s =>
    let k := s.ctx ctx
    if (handleFails k [0, 1, 2] (wd handle)).isNone then (List.range 3).map (infoOf s k (wd handle)) ++ [wd (handleHome k ctx (wd handle))] else []) s

/-- TAP (R326): TAPRD selector 0 of a cell, and selector 1 for each sequence in the map. -/
def execTap (ctx handle : Nat) (s : State) : Host.Outcome State Fault Refusal :=
  event true (printWords fun s =>
    let k := s.ctx ctx
    match cellOf k (wd handle) with
    | none => []
    | some n =>
      let c := k.cell n
      tapWord c 0 0 :: ((armedTap c).map (fun t => t.seqs.map (tapWord c 1))).getD []) s

/-! Registers and reductions (R345). -/

/-- A lane as the debugger prints it (R345): signed for i32, else its 32 bits. DESIGN CHOICE (log 54, safe). -/
def printLane (fmt : PrintFmt) (l : Lane) : Word := if fmt = .i32 then l.signExtend 64 else l.setWidth 64

/-- VREG (R345): lanes l0 to l1 of a vector register. -/
def execVreg (core slot : Nat) (v : LaneRange) (s : State) : Host.Outcome State Fault Refusal :=
  event (slotOk core slot && decide (v.v < 16) && decide (v.l0 ≤ v.l1) && decide (v.l1 < 16)) (printWords fun s =>
    let base := (winOf slot (s.slot core slot)).1
    (List.range (v.l1 + 1 - v.l0)).map (fun i =>
      let l := v.l0 + i
      printLane v.fmt ((lookD (s.core core).regs (base + 8 * v.v + l / 2) 0).extractLsb' (32 * (l % 2)) 32))) s

/-- COMB (R345): the combining table of a core's station: kind, mixed flag, tag and count; contributions received; value.
DESIGN CHOICE (log 54, safe). -/
def execComb (core : Nat) (s : State) : Host.Outcome State Fault Refusal :=
  event (decide (core < coreCount)) (printWords fun s => (s.core core).table.flatMap (fun e =>
    [wd ((if e.max then 2 ^ 63 else 0) + (if e.mixed then 2 ^ 62 else 0) + e.ty.code * 2 ^ 32 + e.cnt * 2 ^ 16 + e.tag), wd e.n, e.value])) s

end Sys2Proof.Machine
end

