-- ==== Sys2Proof/Machine/Expiry.lean ====
section
/-!
DEFINITION. The expiries of bounded waits (R20, R25, R150, R206, R222, R249, R253, R337): the rows of the table that end a wait at its
limit.
-/
namespace Sys2Proof.Machine

/-- A slot waits for a condition that its bundle tests again; one that is pre-empted or cancelled waits for nothing more but for what its
bundle must finish (R142, R152, R188, R254). -/
def retries (l : Slot) : Bool :=
  l.phase == .waiting && (!(l.stopping || l.cancelled) || retiresYet l || l.leaf.isSome) && (match l.wait with | some (.retry _) => true | _ => false)

/-- A wait whose limit has run out is tried a last time: its matrix operation starts, or its bundle tests its condition. -/
def lastTry (c t : Nat) (s : State) : State :=
  if (match (s.slot c t).mop with | some o => !o.started | none => false) then mmaStart c t s
  else if retries (s.slot c t) then resume execThread c t s
  else s

/-- An expiry of the limits that a row of the table covers: it does not occur before the count has reached the limit, and a bundle that no
longer waits for what the limit bounds goes on. -/
def expire (kind : Limit → Bool) (c t : Nat) (s : State) : State :=
  if limitReached s c t && kind (s.slot c t).limit then
    let u := lastTry c t s
    if kind (u.slot c t).limit then settle c t (expireLimit s c t (s.slot c t).limit) else u
  else s

/-- WAITLIMIT_EXPIRY (R25): the limit of a synchronised read. -/
def execWaitlimitExpiry (core slot : Nat) (s : State) : Host.Outcome State Fault Refusal :=
  event (slotOk core slot) (expire (fun l => match l with | .sync _ => true | _ => false) core slot) s

/-- MAILBOX_WAIT_LIMIT (R222): cause WAITLIMIT, info 2. -/
def execMailboxWaitLimit (core slot : Nat) (s : State) : Host.Outcome State Fault Refusal :=
  event (slotOk core slot) (expire (fun l => match l with | .trap _ i _ => i == 2 | _ => false) core slot) s

/-- MEMORY_WAIT_LIMIT (R206): cause WAITLIMIT, info 0 for a word and 3 for a barrier; BCPL returns (R214). -/
def execMemoryWaitLimit (core slot : Nat) (s : State) : Host.Outcome State Fault Refusal :=
  event (slotOk core slot) (fun s =>
    match (s.slot core slot).wait with
    | some (.home _ _) => expire (fun _ => true) core slot s
    | _ => s) s

/-- RING_WAIT_LIMIT (R249, R253): cause RING, info 1. -/
def execRingWaitLimit (core slot : Nat) (s : State) : Host.Outcome State Fault Refusal :=
  event (slotOk core slot) (expire (fun l => match l with | .tile _ _ => true | .trap code _ _ => code == cRING | _ => false) core slot) s

/-- CNTWAIT_LIMIT (R150): the wait ends and the record is returned. -/
def execCntwaitLimit (core slot : Nat) (s : State) : Host.Outcome State Fault Refusal :=
  event (slotOk core slot) (expire (fun l => l == .returns 0) core slot) s

/-- CMBRECV_LIMIT (R337): the wait ends and the instruction returns. -/
def execCmbrecvLimit (core slot : Nat) (s : State) : Host.Outcome State Fault Refusal :=
  event (slotOk core slot) (expire (fun l => l == .returns 2) core slot) s

/-! Checks of R42 that come before a bundle issues, as rows of the table: each acts at the slot's turn, in the order of R42. -/

/-- The bundle at the slot's turn passes steps 1 to 3 of R42 and stops at step 4. -/
def viewStops (s : State) (c t : Nat) : Bool :=
  let l := s.slot c t
  viewExpires l && !nextIsCvend s c t && !overLimit s c t && decide (l.pc.toNat < 0x8000)
    && (s.seg c (l.pc.toNat / 4096)).st == .landed
    && (match decodeBundle (s.code c l.pc) with
      | .ok b => !(bundleInstrs b).any (illegalNow (startIssue c t (s.code c l.pc) none s))
      | .error _ => false)

/-- VIEW_EXPIRED (R276, R42 step 4). -/
def execViewExpired (core slot : Nat) (s : State) : Host.Outcome State Fault Refusal :=
  event (slotOk core slot) (fun s => if viewStops s core slot then turn execThread core slot s else s) s

/-- MSGLIMIT (R168, R42 step 1): the next bundle of the handler traps before it issues. -/
def execMsglimit (core : Nat) (s : State) : Host.Outcome State Fault Refusal :=
  event (decide (core < coreCount)) (fun s => if overLimit s core 62 then turn execThread core 62 s else s) s

end Sys2Proof.Machine
end

