-- ==== Sys2Proof/Machine/Dispatch.lean ====
section
/-!
DEFINITION. One arm per constructor of `Instr`: a direct call of the instruction's meaning.
-/
namespace Sys2Proof.Machine

def exec (i : Instr) (s : State) : Host.Outcome State Fault Refusal :=
  match i with
  | .add d a b => Sys2Proof.Machine.execAdd d a b s
  | .sub d a b => Sys2Proof.Machine.execSub d a b s
  | .and d a b => Sys2Proof.Machine.execAnd d a b s
  | .or d a b => Sys2Proof.Machine.execOr d a b s
  | .xor d a b => Sys2Proof.Machine.execXor d a b s
  | .andn d a b => Sys2Proof.Machine.execAndn d a b s
  | .shl d a b => Sys2Proof.Machine.execShl d a b s
  | .shr d a b => Sys2Proof.Machine.execShr d a b s
  | .sra d a b => Sys2Proof.Machine.execSra d a b s
  | .rot d a b => Sys2Proof.Machine.execRot d a b s
  | .min d a b => Sys2Proof.Machine.execMin d a b s
  | .max d a b => Sys2Proof.Machine.execMax d a b s
  | .minn d a b => Sys2Proof.Machine.execMinn d a b s
  | .maxn d a b => Sys2Proof.Machine.execMaxn d a b s
  | .slt d a b => Sys2Proof.Machine.execSlt d a b s
  | .sltn d a b => Sys2Proof.Machine.execSltn d a b s
  | .seq d a b => Sys2Proof.Machine.execSeq d a b s
  | .sel d a b => Sys2Proof.Machine.execSel d a b s
  | .mul d a b => Sys2Proof.Machine.execMul d a b s
  | .mulh d a b => Sys2Proof.Machine.execMulh d a b s
  | .mulhn d a b => Sys2Proof.Machine.execMulhn d a b s
  | .popc d a => Sys2Proof.Machine.execPopc d a s
  | .clz d a => Sys2Proof.Machine.execClz d a s
  | .mov d a => Sys2Proof.Machine.execMov d a s
  | .div d a b => Sys2Proof.Machine.execDiv d a b s
  | .divn d a b => Sys2Proof.Machine.execDivn d a b s
  | .rem d a b => Sys2Proof.Machine.execRem d a b s
  | .remn d a b => Sys2Proof.Machine.execRemn d a b s
  | .addsh d a b u => Sys2Proof.Machine.execAddsh d a b u s
  | .addImm d a imm => Sys2Proof.Machine.execAddImm d a imm s
  | .andImm d a imm => Sys2Proof.Machine.execAndImm d a imm s
  | .orImm d a imm => Sys2Proof.Machine.execOrImm d a imm s
  | .xorImm d a imm => Sys2Proof.Machine.execXorImm d a imm s
  | .mulImm d a imm => Sys2Proof.Machine.execMulImm d a imm s
  | .shlImm d a amt => Sys2Proof.Machine.execShlImm d a amt s
  | .shrImm d a amt => Sys2Proof.Machine.execShrImm d a amt s
  | .sraImm d a amt => Sys2Proof.Machine.execSraImm d a amt s
  | .rotImm d a amt => Sys2Proof.Machine.execRotImm d a amt s
  | .sltImm d a v => Sys2Proof.Machine.execSltImm d a v s
  | .sltnImm d a v => Sys2Proof.Machine.execSltnImm d a v s
  | .seqImm d a v => Sys2Proof.Machine.execSeqImm d a v s
  | .movImm d imm => Sys2Proof.Machine.execMovImm d imm s
  | .li d hi lit => Sys2Proof.Machine.execLi d hi lit s
  | .liN d hi lit => Sys2Proof.Machine.execLiN d hi lit s
  | .liHi d hi => Sys2Proof.Machine.execLiHi d hi s
  | .fadd t d a b => Sys2Proof.Machine.execFadd t d a b s
  | .fsub t d a b => Sys2Proof.Machine.execFsub t d a b s
  | .fmul t d a b => Sys2Proof.Machine.execFmul t d a b s
  | .ffma t d a b => Sys2Proof.Machine.execFfma t d a b s
  | .fmin t d a b => Sys2Proof.Machine.execFmin t d a b s
  | .fmax t d a b => Sys2Proof.Machine.execFmax t d a b s
  | .fneg t d a => Sys2Proof.Machine.execFneg t d a s
  | .fabs t d a => Sys2Proof.Machine.execFabs t d a s
  | .fsqrt t d a => Sys2Proof.Machine.execFsqrt t d a s
  | .fclass t d a => Sys2Proof.Machine.execFclass t d a s
  | .fdiv t d a b => Sys2Proof.Machine.execFdiv t d a b s
  | .fcmp t r d a b => Sys2Proof.Machine.execFcmp t r d a b s
  | .fcvt c d a => Sys2Proof.Machine.execFcvt c d a s
  | .bfx signed d a pos len => Sys2Proof.Machine.execBfx signed d a pos len s
  | .bfi d a pos len => Sys2Proof.Machine.execBfi d a pos len s
  | .vadd t d a b => Sys2Proof.Machine.execVadd t d a b s
  | .vsub t d a b => Sys2Proof.Machine.execVsub t d a b s
  | .vmul t d a b => Sys2Proof.Machine.execVmul t d a b s
  | .vfma t d a b => Sys2Proof.Machine.execVfma t d a b s
  | .vmin t d a b => Sys2Proof.Machine.execVmin t d a b s
  | .vmax t d a b => Sys2Proof.Machine.execVmax t d a b s
  | .vand d a b => Sys2Proof.Machine.execVand d a b s
  | .vor d a b => Sys2Proof.Machine.execVor d a b s
  | .vxor d a b => Sys2Proof.Machine.execVxor d a b s
  | .vmov d a => Sys2Proof.Machine.execVmov d a s
  | .vshl d a b => Sys2Proof.Machine.execVshl d a b s
  | .vshrN32 d a b => Sys2Proof.Machine.execVshrN32 d a b s
  | .vshrI32 d a b => Sys2Proof.Machine.execVshrI32 d a b s
  | .vabs t d a => Sys2Proof.Machine.execVabs t d a s
  | .vneg t d a => Sys2Proof.Machine.execVneg t d a s
  | .vexp2 d a => Sys2Proof.Machine.execVexp2 d a s
  | .vlog2 d a => Sys2Proof.Machine.execVlog2 d a s
  | .vrcp d a => Sys2Proof.Machine.execVrcp d a s
  | .vrsq d a => Sys2Proof.Machine.execVrsq d a s
  | .vcvt c d a => Sys2Proof.Machine.execVcvt c d a s
  | .vcmp t r d a b => Sys2Proof.Machine.execVcmp t r d a b s
  | .vsel d a b m => Sys2Proof.Machine.execVsel d a b m s
  | .vred t op d a => Sys2Proof.Machine.execVred t op d a s
  | .vscan t op d a => Sys2Proof.Machine.execVscan t op d a s
  | .vperm d a b => Sys2Proof.Machine.execVperm d a b s
  | .vbcast d a => Sys2Proof.Machine.execVbcast d a s
  | .vext t d a lane => Sys2Proof.Machine.execVext t d a lane s
  | .vins d a lane => Sys2Proof.Machine.execVins d a lane s
  | .vsort t desc d a b => Sys2Proof.Machine.execVsort t desc d a b s
  | .viota d a => Sys2Proof.Machine.execViota d a s
  | .vquant c d a => Sys2Proof.Machine.execVquant c d a s
  | .vdeq c d a => Sys2Proof.Machine.execVdeq c d a s
  | .rand d a b => Sys2Proof.Machine.execRand d a b s
  | .randV d a b => Sys2Proof.Machine.execRandV d a b s
  | .fmt lit => Sys2Proof.Machine.execFmt lit s
  | .dtldMem d a n => Sys2Proof.Machine.execDtldMem d a n s
  | .dtldPreset d p n => Sys2Proof.Machine.execDtldPreset d p n s
  | .beq d a off => Sys2Proof.Machine.execBeq d a off s
  | .bne d a off => Sys2Proof.Machine.execBne d a off s
  | .blt d a off => Sys2Proof.Machine.execBlt d a off s
  | .bge d a off => Sys2Proof.Machine.execBge d a off s
  | .bltn d a off => Sys2Proof.Machine.execBltn d a off s
  | .bgen d a off => Sys2Proof.Machine.execBgen d a off s
  | .bz a off => Sys2Proof.Machine.execBz a off s
  | .bnz a off => Sys2Proof.Machine.execBnz a off s
  | .jal link off => Sys2Proof.Machine.execJal link off s
  | .jalr link a imm => Sys2Proof.Machine.execJalr link a imm s
  | .jmpf link idx => Sys2Proof.Machine.execJmpf link idx s
  | .nop => Sys2Proof.Machine.execNop s
  | .ldI8 t base off => Sys2Proof.Machine.execLdI8 t base off s
  | .ldN8 t base off => Sys2Proof.Machine.execLdN8 t base off s
  | .ldI16 t base off => Sys2Proof.Machine.execLdI16 t base off s
  | .ldN16 t base off => Sys2Proof.Machine.execLdN16 t base off s
  | .ldI32 t base off => Sys2Proof.Machine.execLdI32 t base off s
  | .ldN32 t base off => Sys2Proof.Machine.execLdN32 t base off s
  | .ldI64 t base off => Sys2Proof.Machine.execLdI64 t base off s
  | .stI8 t base off => Sys2Proof.Machine.execStI8 t base off s
  | .stI16 t base off => Sys2Proof.Machine.execStI16 t base off s
  | .stI32 t base off => Sys2Proof.Machine.execStI32 t base off s
  | .stI64 t base off => Sys2Proof.Machine.execStI64 t base off s
  | .ldv t base off => Sys2Proof.Machine.execLdv t base off s
  | .stv t base off => Sys2Proof.Machine.execStv t base off s
  | .ldaI64 t base off => Sys2Proof.Machine.execLdaI64 t base off s
  | .stlI64 t base off => Sys2Proof.Machine.execStlI64 t base off s
  | .ldmx d a b => Sys2Proof.Machine.execLdmx d a b s
  | .stmx d a b => Sys2Proof.Machine.execStmx d a b s
  | .pfl a off => Sys2Proof.Machine.execPfl a off s
  | .pflW a off => Sys2Proof.Machine.execPflW a off s
  | .aadd t m d a b => Sys2Proof.Machine.execAadd t m d a b s
  | .aand t m d a b => Sys2Proof.Machine.execAand t m d a b s
  | .aor t m d a b => Sys2Proof.Machine.execAor t m d a b s
  | .axor t m d a b => Sys2Proof.Machine.execAxor t m d a b s
  | .amin t m d a b => Sys2Proof.Machine.execAmin t m d a b s
  | .amax t m d a b => Sys2Proof.Machine.execAmax t m d a b s
  | .aswp t m d a b => Sys2Proof.Machine.execAswp t m d a b s
  | .acas t m d a b => Sys2Proof.Machine.execAcas t m d a b s
  | .afadd t m d a b => Sys2Proof.Machine.execAfadd t m d a b s
  | .drain => Sys2Proof.Machine.execDrain s
  | .ifence => Sys2Proof.Machine.execIfence s
  | .fence u => Sys2Proof.Machine.execFence u s
  | .csrr d r => Sys2Proof.Machine.execCsrr d r s
  | .csrw d r a => Sys2Proof.Machine.execCsrw d r a s
  | .csrs d r a => Sys2Proof.Machine.execCsrs d r a s
  | .csrc d r a => Sys2Proof.Machine.execCsrc d r a s
  | .trap code => Sys2Proof.Machine.execTrap code s
  | .bkpt => Sys2Proof.Machine.execBkpt s
  | .eret => Sys2Proof.Machine.execEret s
  | .idle => Sys2Proof.Machine.execIdle s
  | .tsave d a b => Sys2Proof.Machine.execTsave d a b s
  | .tload d a b => Sys2Proof.Machine.execTload d a b s
  | .yield => Sys2Proof.Machine.execYield s
  | .exit => Sys2Proof.Machine.execExit s
  | .launch d a b => Sys2Proof.Machine.execLaunch d a b s
  | .cntrd l d a => Sys2Proof.Machine.execCntrd l d a s
  | .cntwait l d a => Sys2Proof.Machine.execCntwait l d a s
  | .cancel l d a => Sys2Proof.Machine.execCancel l d a s
  | .tid d sel => Sys2Proof.Machine.execTid d sel s
  | .ofetch n a => Sys2Proof.Machine.execOfetch n a s
  | .ostat d n => Sys2Proof.Machine.execOstat d n s
  | .send a b n slot => Sys2Proof.Machine.execSend a b n slot s
  | .wmsg => Sys2Proof.Machine.execWmsg s
  | .pmsg d => Sys2Proof.Machine.execPmsg d s
  | .mstat d => Sys2Proof.Machine.execMstat d s
  | .wback d a b => Sys2Proof.Machine.execWback d a b s
  | .linv d a b => Sys2Proof.Machine.execLinv d a b s
  | .discard d a b => Sys2Proof.Machine.execDiscard d a b s
  | .lclr d a b => Sys2Proof.Machine.execLclr d a b s
  | .pgharv d a => Sys2Proof.Machine.execPgharv d a s
  | .pgharvClr d a => Sys2Proof.Machine.execPgharvClr d a s
  | .pginvPage d a => Sys2Proof.Machine.execPginvPage d a s
  | .pginvCtx d => Sys2Proof.Machine.execPginvCtx d s
  | .pginvRevive d a => Sys2Proof.Machine.execPginvRevive d a s
  | .pgwake d a => Sys2Proof.Machine.execPgwake d a s
  | .pgwakeFatal d a c => Sys2Proof.Machine.execPgwakeFatal d a c s
  | .pgqry d a => Sys2Proof.Machine.execPgqry d a s
  | .ldfe d a off => Sys2Proof.Machine.execLdfe d a off s
  | .ldf d a off => Sys2Proof.Machine.execLdf d a off s
  | .stfe a b off => Sys2Proof.Machine.execStfe a b off s
  | .stf a b off => Sys2Proof.Machine.execStf a b off s
  | .feclr d a off => Sys2Proof.Machine.execFeclr d a off s
  | .festat d a off => Sys2Proof.Machine.execFestat d a off s
  | .binit d a b => Sys2Proof.Machine.execBinit d a b s
  | .barv d a => Sys2Proof.Machine.execBarv d a s
  | .bexp d a b => Sys2Proof.Machine.execBexp d a b s
  | .bwait d a b => Sys2Proof.Machine.execBwait d a b s
  | .btest d a b => Sys2Proof.Machine.execBtest d a b s
  | .bcpl d a => Sys2Proof.Machine.execBcpl d a s
  | .xwpt d n => Sys2Proof.Machine.execXwpt d n s
  | .xsubs d a b ch => Sys2Proof.Machine.execXsubs d a b ch s
  | .xunsub d a => Sys2Proof.Machine.execXunsub d a s
  | .sbind x a off => Sys2Proof.Machine.execSbind x a off s
  | .sunb x => Sys2Proof.Machine.execSunb x s
  | .scfgCount d x b => Sys2Proof.Machine.execScfgCount d x b s
  | .scfgSkip d x b => Sys2Proof.Machine.execScfgSkip d x b s
  | .sstat d x => Sys2Proof.Machine.execSstat d x s
  | .mshape acc u => Sys2Proof.Machine.execMshape acc u s
  | .mskr m a => Sys2Proof.Machine.execMskr m a s
  | .mskc m a => Sys2Proof.Machine.execMskc m a s
  | .rcfg ring base off => Sys2Proof.Machine.execRcfg ring base off s
  | .rstat d ring => Sys2Proof.Machine.execRstat d ring s
  | .rpopHead d ring b => Sys2Proof.Machine.execRpopHead d ring b s
  | .rpopTail d ring b => Sys2Proof.Machine.execRpopTail d ring b s
  | .tldt ring a b => Sys2Proof.Machine.execTldt ring a b s
  | .mma form acc qa qb keepb => Sys2Proof.Machine.execMma form acc qa qb keepb s
  | .mmaz form acc qa qb keepb => Sys2Proof.Machine.execMmaz form acc qa qb keepb s
  | .accmv d acc b => Sys2Proof.Machine.execAccmv d acc b s
  | .accz acc => Sys2Proof.Machine.execAccz acc s
  | .accld acc u a => Sys2Proof.Machine.execAccld acc u a s
  | .accst acc a => Sys2Proof.Machine.execAccst acc a s
  | .cbind d a => Sys2Proof.Machine.execCbind d a s
  | .cedit d a h => Sys2Proof.Machine.execCedit d a h s
  | .cunb d h => Sys2Proof.Machine.execCunb d h s
  | .cst d a h off => Sys2Proof.Machine.execCst d a h off s
  | .cbatch d => Sys2Proof.Machine.execCbatch d s
  | .cseal d a => Sys2Proof.Machine.execCseal d a s
  | .cld win a h off => Sys2Proof.Machine.execCld win a h off s
  | .cwr win a h off => Sys2Proof.Machine.execCwr win a h off s
  | .cfin => Sys2Proof.Machine.execCfin s
  | .cviewNow d => Sys2Proof.Machine.execCviewNow d s
  | .cviewFence d => Sys2Proof.Machine.execCviewFence d s
  | .cvend => Sys2Proof.Machine.execCvend s
  | .cstat d h sel => Sys2Proof.Machine.execCstat d h sel s
  | .hnew d a b => Sys2Proof.Machine.execHnew d a b s
  | .hnewKv d a b => Sys2Proof.Machine.execHnewKv d a b s
  | .hweak d a => Sys2Proof.Machine.execHweak d a s
  | .hdup d a => Sys2Proof.Machine.execHdup d a s
  | .hdrop a => Sys2Proof.Machine.execHdrop a s
  | .hup d a => Sys2Proof.Machine.execHup d a s
  | .hldw d p a n => Sys2Proof.Machine.execHldw d p a n s
  | .hpri a b => Sys2Proof.Machine.execHpri a b s
  | .hinfo d a sel => Sys2Proof.Machine.execHinfo d a sel s
  | .pfxfind d a => Sys2Proof.Machine.execPfxfind d a s
  | .pfxins d a => Sys2Proof.Machine.execPfxins d a s
  | .pfxdel d a => Sys2Proof.Machine.execPfxdel d a s
  | .taparm d a h => Sys2Proof.Machine.execTaparm d a h s
  | .tapoff d h => Sys2Proof.Machine.execTapoff d h s
  | .taprel d a h => Sys2Proof.Machine.execTaprel d a h s
  | .tapkill d a h => Sys2Proof.Machine.execTapkill d a h s
  | .taprd d a h sel => Sys2Proof.Machine.execTaprd d a h sel s
  | .cmbmax t d a b => Sys2Proof.Machine.execCmbmax t d a b s
  | .cmbsum t d a b => Sys2Proof.Machine.execCmbsum t d a b s
  | .cmbrecv d u a => Sys2Proof.Machine.execCmbrecv d u a s
  | .tableReplacement core n => Sys2Proof.Machine.execTableReplacement core n s
  | .stRegisterWrite v => Sys2Proof.Machine.execStRegisterWrite v s
  | .windowWrite lim v => Sys2Proof.Machine.execWindowWrite lim v s
  | .ssplitWrite v => Sys2Proof.Machine.execSsplitWrite v s
  | .vgroupWrite v => Sys2Proof.Machine.execVgroupWrite v s
  | .mailboxWrite k v => Sys2Proof.Machine.execMailboxWrite k v s
  | .mailboxWaitLimit core slot => Sys2Proof.Machine.execMailboxWaitLimit core slot s
  | .preemptionRequest core slot => Sys2Proof.Machine.execPreemptionRequest core slot s
  | .cntwaitLimit core slot => Sys2Proof.Machine.execCntwaitLimit core slot s
  | .threadStart core slot => Sys2Proof.Machine.execThreadStart core slot s
  | .replyArrive id => Sys2Proof.Machine.execReplyArrive id s
  | .bundleReissue core slot => Sys2Proof.Machine.execBundleReissue core slot s
  | .waitlimitExpiry core slot => Sys2Proof.Machine.execWaitlimitExpiry core slot s
  | .streamElementDeliver core slot reg => Sys2Proof.Machine.execStreamElementDeliver core slot reg s
  | .segmentLand core seg => Sys2Proof.Machine.execSegmentLand core seg s
  | .segmentFail core seg => Sys2Proof.Machine.execSegmentFail core seg s
  | .messageAccept core => Sys2Proof.Machine.execMessageAccept core s
  | .handlerStart core => Sys2Proof.Machine.execHandlerStart core s
  | .msglimit core => Sys2Proof.Machine.execMsglimit core s
  | .coreGate core => Sys2Proof.Machine.execCoreGate core s
  | .blockClockStep block clock => Sys2Proof.Machine.execBlockClockStep block clock s
  | .tailLineSnoop ctx q tail => Sys2Proof.Machine.execTailLineSnoop ctx q tail s
  | .entryTake ctx q => Sys2Proof.Machine.execEntryTake ctx q s
  | .launchEntry ctx q => Sys2Proof.Machine.execLaunchEntry ctx q s
  | .sealEntry ctx q => Sys2Proof.Machine.execSealEntry ctx q s
  | .fenceEntry ctx q => Sys2Proof.Machine.execFenceEntry ctx q s
  | .signalEntry ctx q => Sys2Proof.Machine.execSignalEntry ctx q s
  | .create record => Sys2Proof.Machine.execCreate record s
  | .suspend ctx => Sys2Proof.Machine.execSuspend ctx s
  | .resume ctx => Sys2Proof.Machine.execResume ctx s
  | .destroy ctx => Sys2Proof.Machine.execDestroy ctx s
  | .contextFree ctx => Sys2Proof.Machine.execContextFree ctx s
  | .accessAtWalkSlice id => Sys2Proof.Machine.execAccessAtWalkSlice id s
  | .globalStoreAccept id => Sys2Proof.Machine.execGlobalStoreAccept id s
  | .fabricAccessArrive id => Sys2Proof.Machine.execFabricAccessArrive id s
  | .fabricStoreAck id => Sys2Proof.Machine.execFabricStoreAck id s
  | .readRequest id => Sys2Proof.Machine.execReadRequest id s
  | .fillArrive id => Sys2Proof.Machine.execFillArrive id s
  | .evictionNotice core ctx line => Sys2Proof.Machine.execEvictionNotice core ctx line s
  | .registrationRequest id => Sys2Proof.Machine.execRegistrationRequest id s
  | .invalidation core ctx line => Sys2Proof.Machine.execInvalidation core ctx line s
  | .invalidationAck core ctx line => Sys2Proof.Machine.execInvalidationAck core ctx line s
  | .registrationGrant id => Sys2Proof.Machine.execRegistrationGrant id s
  | .recall core ctx line mask => Sys2Proof.Machine.execRecall core ctx line mask s
  | .forwardedLoad id => Sys2Proof.Machine.execForwardedLoad id s
  | .uncorrectableError key => Sys2Proof.Machine.execUncorrectableError key s
  | .deadRangeDiscard ctx addr len => Sys2Proof.Machine.execDeadRangeDiscard ctx addr len s
  | .memoryWaitLimit core slot => Sys2Proof.Machine.execMemoryWaitLimit core slot s
  | .withdraw core slot => Sys2Proof.Machine.execWithdraw core slot s
  | .retry core line => Sys2Proof.Machine.execRetry core line s
  | .parkedRetryTimeout core slot => Sys2Proof.Machine.execParkedRetryTimeout core slot s
  | .transferCopy core => Sys2Proof.Machine.execTransferCopy core s
  | .transferMulticast core => Sys2Proof.Machine.execTransferMulticast core s
  | .transferSave core => Sys2Proof.Machine.execTransferSave core s
  | .transferRestore core => Sys2Proof.Machine.execTransferRestore core s
  | .transferPiece core ch => Sys2Proof.Machine.execTransferPiece core ch s
  | .transferFinish core ch => Sys2Proof.Machine.execTransferFinish core ch s
  | .multicastPieceArrive core id => Sys2Proof.Machine.execMulticastPieceArrive core id s
  | .mmaStart core slot => Sys2Proof.Machine.execMmaStart core slot s
  | .mmaRetire core => Sys2Proof.Machine.execMmaRetire core s
  | .ringWaitLimit core slot => Sys2Proof.Machine.execRingWaitLimit core slot s
  | .viewExpired core slot => Sys2Proof.Machine.execViewExpired core slot s
  | .workItemDispatch ctx => Sys2Proof.Machine.execWorkItemDispatch ctx s
  | .repairDispatch ctx cell stamp => Sys2Proof.Machine.execRepairDispatch ctx cell stamp s
  | .waveCommit ctx => Sys2Proof.Machine.execWaveCommit ctx s
  | .sweep tier die => Sys2Proof.Machine.execSweep tier die s
  | .objectDestruction ctx obj => Sys2Proof.Machine.execObjectDestruction ctx obj s
  | .cellBufferDestruction ctx cell stamp => Sys2Proof.Machine.execCellBufferDestruction ctx cell stamp s
  | .cmbrecvLimit core slot => Sys2Proof.Machine.execCmbrecvLimit core slot s
  | .combineMerge p q => Sys2Proof.Machine.execCombineMerge p q s
  | .combineArrive id => Sys2Proof.Machine.execCombineArrive id s
  | .loopBypass die loop => Sys2Proof.Machine.execLoopBypass die loop s
  | .hostMemWrite tier pa data => Sys2Proof.Machine.execHostMemWrite tier pa data s
  | .hostMemRead tier pa len => Sys2Proof.Machine.execHostMemRead tier pa len s
  | .cxlLinkTraining flit256 => Sys2Proof.Machine.execCxlLinkTraining flit256 s
  | .packageLinkTraining port => Sys2Proof.Machine.execPackageLinkTraining port s
  | .configRecordWrite record => Sys2Proof.Machine.execConfigRecordWrite record s
  | .engineReset e => Sys2Proof.Machine.execEngineReset e s
  | .coreReset core => Sys2Proof.Machine.execCoreReset core s
  | .blockReset block => Sys2Proof.Machine.execBlockReset block s
  | .dieReset die => Sys2Proof.Machine.execDieReset die s
  | .packageReset => Sys2Proof.Machine.execPackageReset s
  | .moduleReset => Sys2Proof.Machine.execModuleReset s
  | .burnishing key ok => Sys2Proof.Machine.execBurnishing key ok s
  | .calibration die loop => Sys2Proof.Machine.execCalibration die loop s
  | .coreRetirement core lost => Sys2Proof.Machine.execCoreRetirement core lost s
  | .telemetrySample type => Sys2Proof.Machine.execTelemetrySample type s
  | .getVersion => Sys2Proof.Machine.execGetVersion s
  | .getCapabilities => Sys2Proof.Machine.execGetCapabilities s
  | .negotiateAlgorithms algs => Sys2Proof.Machine.execNegotiateAlgorithms algs s
  | .getDigests => Sys2Proof.Machine.execGetDigests s
  | .getCertificate slot => Sys2Proof.Machine.execGetCertificate slot s
  | .challenge slot nonce => Sys2Proof.Machine.execChallenge slot nonce s
  | .getMeasurements index => Sys2Proof.Machine.execGetMeasurements index s
  | .firmwareUpdate img version signed => Sys2Proof.Machine.execFirmwareUpdate img version signed s
  | .imageActivation img => Sys2Proof.Machine.execImageActivation img s
  | .breakpointStop thread point => Sys2Proof.Machine.execBreakpointStop thread point s
  | .cont core slot => Sys2Proof.Machine.execCont core slot s
  | .step core slot => Sys2Proof.Machine.execStep core slot s
  | .dir ctx va => Sys2Proof.Machine.execDir ctx va s
  | .trace slice ctx va => Sys2Proof.Machine.execTrace slice ctx va s
  | .fe ctx va => Sys2Proof.Machine.execFe ctx va s
  | .waiters place va => Sys2Proof.Machine.execWaiters place va s
  | .sheet what => Sys2Proof.Machine.execSheet what s
  | .views ctx => Sys2Proof.Machine.execViews ctx s
  | .remeltSweep place n conts => Sys2Proof.Machine.execRemeltSweep place n conts s
  | .obj ctx handle => Sys2Proof.Machine.execObj ctx handle s
  | .tap ctx handle => Sys2Proof.Machine.execTap ctx handle s
  | .vreg core slot v => Sys2Proof.Machine.execVreg core slot v s
  | .comb core => Sys2Proof.Machine.execComb core s
  | .queueResetRequest ctx q => Sys2Proof.Machine.execQueueResetRequest ctx q s
  | .correctedError core => Sys2Proof.Machine.execCorrectedError core s
  | .hostSnoop pa => Sys2Proof.Machine.execHostSnoop pa s
  | .refresh => Sys2Proof.Machine.execRefresh s

end Sys2Proof.Machine
end

