-- ==== Sys2Proof/Machine/Schedule.lean ====
section
/-!
DEFINITION. The order of the machine's steps: which events may happen now, whose turn it is, and what a wait's limit or a lull does. The
spec leaves the order of the agents open (R120, R331); `env.agenda` makes any choice, and with an empty agenda the order here holds.
-/
namespace Sys2Proof.Machine

/-! Events that may happen. -/

/-- What an event does. -/
abbrev Effect := State → Host.Outcome State Fault Refusal


/-- The live slots of all cores that satisfy a test. -/
def slotsWhere (s : State) (p : Slot → Bool) : List (Nat × Nat) :=
  s.cores.flatMap (fun k => k.2.slots.filterMap (fun t => if p t.2 then some (k.1, t.1) else none))

/-- Events of messages, segments and starts (R162 to R168). -/
def kernelEvents (s : State) : List Effect :=
  s.cores.flatMap (fun k =>
    (if k.2.station.isEmpty then [] else [execMessageAccept k.1])
    ++ (if k.2.queue.any startsHandler then [execHandlerStart k.1] else [])
    ++ (k.2.segs.filter (·.2.st == .fetching)).flatMap (fun g => [execSegmentLand k.1 g.1, execSegmentFail k.1 g.1]))
  ++ (slotsWhere s (·.phase == .starting)).map (fun p => execThreadStart p.1 p.2)

/-- Events of the transfer threads, streams and tables (R75, R222 to R237). -/
def transferEvents (s : State) : List Effect :=
  s.cores.flatMap (fun k =>
    (if !k.2.newTable.isEmpty then [execTableReplacement k.1 0, execTableReplacement k.1 1] else [])
    ++ (if (look k.2.mbox 3).isSome then [execTransferCopy k.1, execTransferMulticast k.1] else [])
    ++ (if k.2.chans.any (·.2.who.isSome) || (look k.2.mbox 3).isSome then [execTransferSave k.1, execTransferRestore k.1] else [])
    ++ (k.2.chans.filter (·.2.who.isSome)).flatMap (fun h => [execTransferFinish k.1 h.1, execTransferPiece k.1 h.1])
    ++ k.2.slots.flatMap (fun t => t.2.streams.map (fun m => execStreamElementDeliver k.1 t.1 m.reg)))
  ++ s.pieces.flatMap (fun p => (p.todo.take 1).map (fun c => execMulticastPieceArrive c p.id))

/-- Events of homes and reductions (R205, R336). -/
def homeEvents (s : State) : List Effect :=
  (s.notes.filter (·.sent)).map (fun n => execRetry n.core n.line)
  ++ (s.waiters.filter (·.parked)).map (fun w => execParkedRetryTimeout w.core w.slot)
  ++ s.cores.flatMap (fun k => k.2.packets.map (fun p => execCombineArrive p.id))

/-- Events of the administration queue, and of sheets, queues and contexts (R128, R174 to R177, R271 to R277, R347). -/
def contextEvents (s : State) : List Effect :=
  execEntryTake adminCtx 0 :: s.ctxs.flatMap (fun p =>
    (if p.2.waves.isEmpty then [] else [execWaveCommit p.1, execWorkItemDispatch p.1])
    ++ (p.2.repairs.filter (fun r => !r.dispatched)).map (fun r => execRepairDispatch p.1 r.cell r.stamp)
    ++ p.2.queues.flatMap (fun q =>
      if q.2.taken < q.2.tail || !q.2.entries.isEmpty then
        [execEntryTake p.1 q.1, execLaunchEntry p.1 q.1, execSealEntry p.1 q.1, execFenceEntry p.1 q.1, execSignalEntry p.1 q.1]
      else [])
    ++ (if p.2.st = .dying then [execContextFree p.1] else []))

/-- Events of the remelt engine (R294, R297, R298): ranges to be taken back, destructions on the way, and sweeps that a low watermark
asks for; and telemetry updates on their way (R352). -/
def engineEvents (s : State) : List Effect :=
  (fun (u : State) => (.next (takeBackAll u) : Host.Outcome State Fault Refusal)) :: s.manage.running.filterMap (fun r => r.chosen.map (fun c =>
    match c with
    | .obj x i => execObjectDestruction x i
    | .buf x n stamp => execCellBufferDestruction x n stamp))
  ++ s.manage.low.map (fun m => if m.1 < 8 then execSweep 0 m.1 else execSweep 1 0)
  ++ s.manage.telemetry.map (fun r => fun (u : State) => (.next (telemetryEnd r.1 u) : Host.Outcome State Fault Refusal))

/-- Resets that wait for their threads to stop (R348, R350). -/
def resetEvents (s : State) : List Effect :=
  s.manage.resets.map (fun r =>
    match r.kind with
    | .core c => execCoreReset c
    | .block b => execBlockReset b
    | .die d => execDieReset d
    | .retire c lost => execCoreRetirement c lost)

/-- The next event of an access in flight, and of what its registration waits for. In this order a store is accepted with its grant (R197); an
acceptance before it (R111) is a choice of the agenda. -/
def flightEvents (s : State) : List Effect :=
  s.flights.flatMap (fun f =>
    match f.stage with
    | .issued => if f.isFabric then [execFabricAccessArrive f.id] else [execAccessAtWalkSlice f.id]
    | .translated => [execRegistrationRequest f.id, execReadRequest f.id, execForwardedLoad f.id] ++ (if unregistered s f then [] else [execGlobalStoreAccept f.id])
    | .invalidating toGo back => (toGo.map (fun c => execInvalidation c f.ctx f.line)) ++ (back.map (fun c => execInvalidationAck c.1 f.ctx f.line))
        ++ [execRegistrationGrant f.id]
    | .granted => [execGlobalStoreAccept f.id]
    | .filling _ => [execFillArrive f.id]
    | .arrived _ | .refused _ _ => [execReplyArrive f.id]
    | .acked _ => [execFabricStoreAck f.id])
  ++ s.notices.map (fun n => execEvictionNotice n.core n.ctx n.line)
  ++ s.cores.flatMap (fun k => (match k.2.mma with | some r => if r.doneAt ≤ k.2.cyc then [execMmaRetire k.1] else [] | none => [])
    ++ k.2.slots.filterMap (fun t =>
      match t.2.mop with
      | some o => if o.started then none else some (execMmaStart k.1 t.1)
      | none => none))

/-- Limits of waits that have run out (R20, R206). -/
def limitEvents (s : State) : List Effect :=
  (slotsWhere s (fun l => l.phase == .waiting)).flatMap (fun p =>
    if limitReached s p.1 p.2 then
      [execWaitlimitExpiry p.1 p.2, execMailboxWaitLimit p.1 p.2, execMemoryWaitLimit p.1 p.2, execRingWaitLimit p.1 p.2, execCntwaitLimit p.1 p.2,
        execCmbrecvLimit p.1 p.2]
    else [])

/-- Events that may happen now. DESIGN CHOICE (log 11, unsafe). -/
def events (s : State) : List Effect :=
  kernelEvents s ++ transferEvents s ++ homeEvents s ++ contextEvents s ++ engineEvents s ++ resetEvents s ++ flightEvents s ++ limitEvents s
    ++ s.cores.map (fun k => execCoreGate k.1)

/-- The state after an event that changes something. -/
def happens (s : State) (f : Effect) : Option State :=
  match f s with
  | .next t => if t = s then none else some t
  | _ => none

/-! Waiting bundles. -/

/-- Slots whose bundle may go on: those that a reply or a service has made ready first, then those that test a condition, the longest
wait first. -/
def heldSlots (s : State) : List (Nat × Nat) :=
  let waiting := (slotsWhere s retries).map (fun p => ((s.slot p.1 p.2).waitSeq, p))
  slotsWhere s (fun l => l.phase == .ready && l.held.isSome)
    ++ (waiting.foldl (fun (m : SMap (Nat × Nat)) w => put m w.1 w.2) []).map (·.2)

/-- The state after a held bundle goes on; none when its condition does not hold yet and its test asks nothing of the sheet (R277). -/
def goesOn (s : State) (p : Nat × Nat) : Option State :=
  let t := resume exec p.1 p.2 s
  if retries (t.slot p.1 p.2) && retries (s.slot p.1 p.2) && t.ctxs == s.ctxs && (t.slot p.1 p.2).reply == (s.slot p.1 p.2).reply
      && (t.slot p.1 p.2).part == (s.slot p.1 p.2).part && (t.core p.1).claim == (s.core p.1).claim then none
  else some t

/-! The barrel (R157). -/

/-- The cores in turn after the one that issued last. -/
def coreOrder (s : State) : List Nat :=
  let cs := s.cores.map (·.1)
  cs.filter (fun c => decide (s.env.lastCore < c)) ++ cs.filter (fun c => decide (c ≤ s.env.lastCore))

/-- The core and the slot of the next issue in the cycle that the cores stand at. -/
def nextIssue (s : State) : Option (Nat × Nat) :=
  (coreOrder s).findSome? (fun c => (nextSlot s c).bind (fun p => if p.2 ≤ (s.core c).cyc then some (c, p.1) else none))

/-- One issue of the barrel. -/
def issueAt (s : State) (p : Nat × Nat) : State :=
  turn exec p.1 p.2 { s with env := { s.env with lastCore := p.1 } }

/-! The cycles. -/

/-- The least of some numbers. -/
def leastOf : List Nat → Option Nat
  | [] => none
  | a :: r => some (r.foldl min a)

/-- The cycles of a core at which a limit, a parked retry or the matrix unit acts, and at which a slot can issue. -/
def deadlines (s : State) (c : Nat) : List Nat :=
  let k := s.core c
  let limits := k.slots.filterMap (fun p =>
    if p.2.phase == .waiting && wbits p.2.waitlim 31 0 != 0 && p.2.limit != .unbounded then
      some (p.2.waitFrom + wbits p.2.waitlim 31 0)
    else none)
  let parked := s.waiters.filterMap (fun w => if w.parked && w.core == c then w.retryAt else none)
  limits ++ parked ++ (k.mma.map (·.doneAt)).toList ++ ((nextSlot s c).map (·.2)).toList

/-- The instants of one cycle of a core (R17, R20). -/
def period (s : State) (c : Nat) : Nat := Config.instants / blockClock s (coreBlock c)

/-- The instants until something happens on a core whose clock runs (R20, R21). DESIGN CHOICE (log 12, unsafe). -/
def slack (s : State) (c : Nat) : Option Nat :=
  if (s.core c).gated then none
  else leastOf ((((deadlines s c).map (· - (s.core c).cyc)).filter (fun n => decide (0 < n))).map (· * period s c - (s.core c).frac))

/-- Instants pass on a core: its cycles pass at its own clock, and a gated core counts none (R20, R21). -/
def Core.pass (p n : Nat) (k : Core) : Core :=
  if k.gated then k
  else
    let m := k.frac + n
    { k with cyc := k.cyc + m / p, frac := m % p, busy := k.busy && decide (m < p) }

/-- Nothing more happens in this cycle: time passes on every core, at the clock of its block, up to the next cycle of one that matters
(R17, R20). DESIGN CHOICE (log 12, unsafe). -/
def lull (s : State) : State :=
  match leastOf (s.cores.filterMap (fun p => slack s p.1)) with
  | some n =>
    { s with
      cores := s.cores.map (fun p => (p.1, p.2.pass (period s p.1) n))
      manage := { s.manage with now := s.manage.now + n } }
  | none => s

/-- The machine's own choice of what happens next. DESIGN CHOICE (log 11, unsafe). -/
def proceed (s : State) : State :=
  match (heldSlots s).findSome? (goesOn s) with
  | some t => t
  | none =>
    match (events s).findSome? (happens s) with
    | some t => t
    | none =>
      match nextIssue s with
      | some p => issueAt s p
      | none => lull s

/-- A choice of the agenda is made (R120, R157). An instruction of a bundle is no event of its own.
DESIGN CHOICE (log 11, unsafe; log 55, safe). -/
def moveBy (m : Move) (s : State) : Host.Outcome State Fault Refusal :=
  match m with
  | .issue c t => .next (turn exec c t s)
  | .event i => if isRulis i then .refused .illFormed else exec i s
  | .prompt b => .next { s with env := { s.env with prompt := b } }
  | .tlb b => .next { s with env := { s.env with tlbHit := b } }
  | .overflow h x page => .next (overflow h x page s)
  | .accept x line =>
    .next (accepted s x line (2 ^ 16 - 1 - (s.dirOf x line).regs.foldl (fun m r => m + r.2) 0))

/-! Placing an instruction. -/

/-- The thread that `placed` gives the first slot of the first core: one that a launch has just started (R131, R166), with a window of 128
registers and every accumulator. DEDUCED (log 10, safe). -/
def freshThread : Slot :=
  { phase := .ready, ctx := 1, wlim := 128, accs := [0, 1, 2, 3, 4, 5, 6, 7], uid := 1, launch := 1 }

/-- The next step issues the bundle at the pc of slot 0 of core 0. A thread that is not ready gives place to a fresh one; its context
runs, and its segment has landed. DEDUCED (log 10, safe). -/
def placed (s : State) (bundle : Nat) : State :=
  let l := s.slot 0 0
  let l := if l.phase = .ready ∧ l.held = none ∧ l.pc.toNat < 0x8000 then l else freshThread
  let s := (s.setSlot 0 0 { l with stopping := false, cancelled := false, viewlim := 0, yielded := none }).modCore 0 (fun k =>
    { k with lastSlot := 63, turns := del k.turns 0 })
  let s := (s.modCtx l.ctx (fun k => { k with st := .running })).modManage (fun m => { m with breaks := [] })
  let n := l.pc.toNat / 4096
  let s := s.setSeg 0 n { s.seg 0 n with st := .landed, holder := some (l.ctx, l.launch) }
  { s.setNum (codeKey 0 (l.pc.toNat % 2 ^ 15 / 8 * 8)) 8 bundle with env := { s.env with agenda := .issue 0 0 :: s.env.agenda } }

end Sys2Proof.Machine
end

