-- ==== Sys2Proof/Machine/Step.lean ====
section
/-!
DEFINITION. One step of the module.
-/
namespace Sys2Proof.Machine

/-- One step: the next choice of the agenda, or the machine's own. DESIGN CHOICE (log 11, unsafe). -/
def step (s : State) : Host.Outcome State Fault Refusal :=
  match s.env.agenda with
  | m :: rest => moveBy m { s with env := { s.env with agenda := rest } }
  | [] => .next (proceed s)

/-- The instruction of `nbits` bits `w`, stored where `step` fetches its next bundle. DEDUCED (log 10, safe). -/
def State.withFetchWord (s : State) (nbits w : Nat) : State := placed s (tableBundle (tableBits nbits w))

end Sys2Proof.Machine
end

