-- ==== Sys2Proof/Safety.lean ====
section
/-!
DEFINITION. The terms in which claims are stated: when a bundle passes the checks of R42, what the state shows of a register, and
what an instruction leaves unchanged; the invariants of a state, and what counts as a safe run.
-/
namespace Sys2Proof.Machine

/-! When an instruction runs. -/

/-- Steps 3 and 5 to 8 of R42 hold for the bundle that holds `i` alone: a legal encoding (R41), a right to it (R130, R134), register
fields inside the window (R32) and an accumulator that the thread has (R238), formats that serve it (R40, R104), no empty register
among those it names with `!` (R25), and a decode table whose replacement is not held (R77). -/
structure Clear (s : State) (i : Instr) : Prop where
  legal : illegalNow s i = false
  allowed : privFails s i = false
  regsIn : ∀ f ∈ regFields i, ∀ r ∈ f.regs, r < s.size
  accIn : ∀ n, accField i = some n → n < s.cur.accs.length
  served : prefixFails s i = false
  full : ∀ r ∈ syncRegs i, isEmpty s r = false
  steady : tableHeld s i = false

/-- A well-formed instruction of a ready thread whose bundle has passed steps 1 to 8 of R42, or passes them now. -/
structure Runs (s : State) (i : Instr) : Prop where
  wf : i.wf = true
  ready : s.cur.phase = .ready
  checked : s.iss.passed = true ∨ Clear s i

/-- The state after an instruction whose effect leads from `s` to `t`: a lone bundle retires (R25, R104); the bundle of a pair
retires after its second slot. -/
def finish (s : State) (i : Instr) (t : State) : State := if s.iss.pair then t else retire t [i]

/-! What a step adds around the instruction that it issues. -/

/-- The thread's turn has come, its bundle is fetched and counted: the state in which the bundle's instructions run (R42, R157, R276). -/
def beginTurn (s : State) (c t : Nat) : State :=
  let n := turnAt (s.core c) t
  let u := if (s.ctx (s.ctxOf c t)).st = .runnable then s.modCtx (s.ctxOf c t) (fun k => { k with st := .running }) else s
  let v := u.modCore c (fun k => { k with cyc := n, busy := true, lastSlot := t, issued := k.issued + 1, gated := false, turns := put k.turns t (n + 8) })
  startIssue c t (s.code c (s.slot c t).pc) none (v.modSlot c t (fun l =>
    countBundle true (s.slot c t).st.te (s.slot c t).st.vw t { l with passBrk := none, woken := false, yielded := none }))

/-- The end of a turn: a bundle that has gone on to its end moves the pc (R82) and single steps (R139); one that waits before its checks have
passed, or is dropped, is not counted; then the boundary of R142, R152 and R217. -/
def endTurn (s u : State) (c t : Nat) : State :=
  boundary c t (match u.iss.out with
    | .running => retired (s.slot c t).st.te u
    | .waiting =>
      if (match (u.slot c t).held with | some h => h.latch.isNone | none => true) = true then
        u.modSlot c t (countBundle false (s.slot c t).st.te (s.slot c t).st.vw t)
      else u
    | .dropped => u.modSlot c t (countBundle false (s.slot c t).st.te (s.slot c t).st.vw t)
    | _ => u)

/-- A thread may take its turn now, and nothing stands before its bundle: the checks of R42 up to the decoding, and R217, R276. -/
structure MayTurn (s : State) (c t : Nat) (b : Bundle) : Prop where
  may : mayIssue s c t = true
  next : itsTurn s c t = true
  free : atBreakpoint s c t = false
  limit : overLimit s c t = false
  inStore : (s.slot c t).pc.toNat < 0x8000
  landed : (s.seg c ((s.slot c t).pc.toNat / 4096)).st = .landed
  decoded : decodeBundle (s.code c (s.slot c t).pc) = .ok b
  viewOpen : viewExpires (s.slot c t) = false

/-! What a state shows. -/

/-- An entry of a core's register file (R159). -/
def State.entry (s : State) (c e : Nat) : Word := lookD (s.core c).regs e 0

/-- The full/empty bit of an entry: true when empty (R25). -/
def State.emptyAt (s : State) (c e : Nat) : Bool := (s.core c).empty.contains e

/-- The state without its cores. -/
def State.outside (s : State) : State := { s with cores := [] }

/-- A core without its register file, full/empty bits and slots. -/
def Core.bare (k : Core) : Core := { k with regs := [], empty := [], slots := [] }

/-- The entries that writes of window registers set, in order: a write to x0 is discarded (R22). -/
def writtenEntries (base : Nat) (ws : List (Nat × Word)) : List (Nat × Word) :=
  (ws.filter (fun w => w.1 != 0)).map (fun w => (base + w.1, w.2))

/-- The register writes of a vector value (R78). -/
def vecWrites (k : Nat) (v : List Lane) : List (Nat × Word) := (List.range 8).map (fun j => (8 * k + j, lanePair v j))

/-- What the retirement of a lone bundle does to the thread's slot: a consumer clears the pending prefix (R104). -/
def retiredSlot (s : State) (i : Instr) (l : Slot) : Slot :=
  if s.iss.pair || (consumer i).isNone then l else { l with st := { l.st with pp := false } }

/-- The registers after an instruction that writes `ws` to its window: the entries of `ws` hold their values and are full, the
registers named with `!` and not written are empty once the lone bundle retires (R25), and every other entry of every core is as
it was. -/
structure RegsAfter (s t : State) (i : Instr) (ws : List (Nat × Word)) : Prop where
  value : ∀ c e, t.entry c e =
    if c = s.iss.core then (look (writtenEntries s.base ws) e).getD (s.entry c e) else s.entry c e
  empties : ∀ c e, t.emptyAt c e = true ↔
    (c = s.iss.core ∧ s.iss.pair = false ∧ ∃ r ∈ syncRegs i, r ∉ i.writes ∧ e = s.base + r)
      ∨ (s.emptyAt c e = true ∧ ¬ (c = s.iss.core ∧ (look (writtenEntries s.base ws) e).isSome))

/-- All that an instruction changes, and that it changes nothing else: `ws` its register writes, `f` its change of the thread's slot,
`g` its change of the issuing core beside registers and slots, `o` its change of everything outside the cores. -/
structure Changes (s t : State) (i : Instr) (ws : List (Nat × Word)) (f : Slot → Slot) (g : Core → Core) (o : State → State) : Prop where
  regs : RegsAfter s t i ws
  mine : t.cur = retiredSlot s i (f s.cur)
  slots : ∀ c u, ¬ (c = s.iss.core ∧ u = s.iss.slot) → t.slot c u = s.slot c u
  cores : ∀ c, (t.core c).bare = if c = s.iss.core then (g (s.core c)).bare else (s.core c).bare
  outside : t.outside = (o s).outside

/-- Where `i` runs, it completes with this effect. -/
def Does (s : State) (i : Instr) (ws : List (Nat × Word)) (f : Slot → Slot) (g : Core → Core) (o : State → State) : Prop :=
  Runs s i → ∃ t, exec i s = .next t ∧ Changes s t i ws f g o

/-- Where `i` runs, it completes, writes `ws` to the window and changes nothing else (R79). -/
def Gives (s : State) (i : Instr) (ws : List (Nat × Word)) : Prop := Does s i ws id id id

/-- Where `i` runs, its bundle traps with this cause, info and value, and performs nothing (R42, R43, R135). -/
def Traps (s : State) (i : Instr) (code info : Nat) (tval : Word) : Prop :=
  Runs s i → exec i s = .next ((takeTrap s s.iss.core s.iss.slot code info tval s.cur.pc).ended .trapped)

/-- Where `i` runs, it completes, and `t` is the state before its retirement. -/
def Ends (s : State) (i : Instr) (t : State) : Prop := Runs s i → exec i s = .next (finish s i t)

/-- Where `i` runs, its thread waits and nothing of it is performed (R20, R43): `t` is the state that its wait starts from. -/
def Waits (s : State) (i : Instr) (w : Wait) (t : State) : Prop := Runs s i → exec i s = .next (park t true w)

/-- Where `i` runs and a store of the thread was refused at its target, with none still on its way, `i` takes the deferred report (R109): it
traps with cause WRITE and the address of the earliest failed store, nothing of it is performed, and the report is over. -/
def Reports (s : State) (i : Instr) : Prop := ∀ f, s.cur.unack = 0 → s.cur.failed = some f → Runs s i →
  exec i s = .next ((takeTrap (s.modCur fun l => { l with failed := none }) s.iss.core s.iss.slot cWRITE 0 f.2 s.cur.pc).ended .trapped)

/-- An event of the table happens, and `t` is the state after it. -/
def Happens (s : State) (i : Instr) (t : State) : Prop := exec i s = .next t

/-- An access of `n` bytes is performed within its bundle: no reply has come for it; accesses are prompt, or the address is in the core's own
scratchpad, or the core's own array serves it (R111, R192, R197); and no earlier access stands before it (R118, R120, R195, R196). -/
def AtOnce (s : State) (va : Word) (n : Nat) (g : Rights) : Prop :=
  s.cur.reply = none
    ∧ (s.env.prompt = true ∨ ownSpad s va = true
      ∨ (g.a = false ∧ issueOk va = true ∧ va.getLsbD 63 = false ∧ servedHere s s.iss.core s.myCtx va.toNat n (!g.w) = true))
    ∧ heldBack s va n g = false

/-- A store of `n` bytes to another core's scratchpad leaves its bundle at once and travels (R111): accesses are not prompt, and nothing of the
thread stands before it. -/
def Posts (s : State) (va : Word) (n : Nat) : Prop :=
  s.cur.reply = none ∧ s.env.prompt = false ∧ va.getLsbD 63 = true ∧ ownSpad s va = false ∧ issueOk va = true
    ∧ storeInFlight s s.iss.core s.iss.slot s.cur.uid va.toNat n = false ∧ s.cur.unack < 65535

/-- A load has brought a global line to the core (R186, R193, R197). -/
def lineBrought (s : State) (va : Word) (n : Nat) (p : Place) : State :=
  if p.glob then touchLoad (install s s.myCtx va.toNat p) s.iss.core s.myCtx va.toNat n p else s

/-- A store has registered the words that it writes with the core (R186, R193, R197). -/
def lineOwned (s : State) (va : Word) (n : Nat) (p : Place) : State :=
  if p.glob then touchStore (install s s.myCtx va.toNat p) s.iss.core s.myCtx va.toNat n p else s

/-- A write at the home has recalled and invalidated every copy of its words (R117, R195). -/
def homeTaken (s : State) (va : Word) (n : Nat) (p : Place) : State :=
  if p.glob then touchHome (install s s.myCtx va.toNat p) s.iss.core s.myCtx va.toNat n p else s

/-- The thread has no store without an acknowledgement and no deferred report (R109, R121). -/
def Drained (s : State) : Prop := s.cur.unack = 0 ∧ s.cur.failed = none

/-- A flight but for whether its fill serves once only (R198). -/
def Flight.plain (f : Flight) : Flight := { f with once := true }

/-- Two states that differ at most in the caches' lines, the directories, the records of who holds what (R192 to R198) and the count of the
model's numbers: no register, no thread, no byte of memory and no context differs. -/
structure CachesOnly (s t : State) : Prop where
  cores : ∀ c, { t.core c with lines := [] } = { s.core c with lines := [] }
  mem : t.mem = s.mem
  full : t.full = s.full
  poison : t.poison = s.poison
  ctxs : t.ctxs = s.ctxs
  flights : t.flights.map Flight.plain = s.flights.map Flight.plain
  waiters : t.waiters = s.waiters
  faults : t.faults = s.faults
  env : { t.env with fresh := 0 } = { s.env with fresh := 0 }
  iss : t.iss = s.iss

/-- Two states that differ at most in the caches and in what the bundle of a thread keeps of its loads (R249, R257). -/
def SameButLoads (s t : State) : Prop :=
  t.mem = s.mem ∧ t.ctxs = s.ctxs ∧ t.iss = s.iss ∧ { t.env with fresh := 0 } = { s.env with fresh := 0 }
    ∧ (∀ c, { t.core c with lines := [], slots := [] } = { s.core c with lines := [], slots := [] })
    ∧ ∀ c n, { t.slot c n with reply := none, part := [] } = { s.slot c n with reply := none, part := [] }

/-- The next bundle of the thread in issue is the one at an address (R82). -/
def continueAt (s : State) (tgt : Word) : State := s.modIss (fun k => { k with npc := tgt })

/-- An address of the code store in the segment of the bundle in issue (R80, R162). -/
def inSegment (s : State) (tgt : Word) : Prop := tgt.toNat < 2 ^ 15 ∧ tgt.toNat / 4096 = s.cur.pc.toNat / 4096

/-- The exact real value of a source of a scalar float instruction (R55, R78). -/
def fval (t : FTy) (v : Word) : FVal := (ftyFmt t).dec (fsrc t v)

/-- The exact real value of an f32 lane (R55). -/
def lval (v : Lane) : FVal := b32.dec v.toNat

/-- The result of a scalar float operation: the exact value rounded to nearest, ties to even (R56, R60). -/
def frounded (t : FTy) (v : FVal) : Word := wd ((ftyFmt t).rne v)

/-- The result of an f32 lane operation. -/
def lrounded (v : FVal) : Lane := BitVec.ofNat 32 (b32.rne v)

/-- A cell is reached from another along edges (R270). -/
inductive Reaches (es : List (Nat × Nat)) : Nat → Nat → Prop where
  | self (n : Nat) : Reaches es n n
  | along (a b n : Nat) : Reaches es a b → (b, n) ∈ es → Reaches es a n

/-! Invariants and runs. -/

/-- The memory has its canonical form (the model's own). -/
def State.memOk (s : State) : Prop := Memory.wf s.mem = true

/-- A step that goes on: neither a fault nor a refusal. -/
def goesOnFrom (s : State) : Prop := ∃ t, step s = .next t

/-- A run of `n` steps meets no fault and no refusal. -/
def safeRun : Nat → State → Prop
  | 0, _ => True
  | n + 1, s => ∃ t, step s = .next t ∧ safeRun n t

end Sys2Proof.Machine
end

