-- ==== Sys2Proof/Certificates/Slice0/Obligations.lean ====
section
/-!
DEFINITION. The statements for the provers. Where a statement rests on a choice of the model, its docstring names the log entry.
-/
open Sys2Proof Sys2Proof.Machine

/-! Registers: integer, float and vector instructions. -/

/-- R84, R85 and the frame of R79: the register forms. -/
def Obligations.IntegerRegisterForms : Prop := ∀ (s : State) (d : Nat) (a b : Src) (n : Nat),
  Gives s (.add d a b) [(d, rx s a.r + rx s b.r)]
  ∧ Gives s (.sub d a b) [(d, rx s a.r - rx s b.r)]
  ∧ Gives s (.and d a b) [(d, rx s a.r &&& rx s b.r)]
  ∧ Gives s (.or d a b) [(d, rx s a.r ||| rx s b.r)]
  ∧ Gives s (.xor d a b) [(d, rx s a.r ^^^ rx s b.r)]
  ∧ Gives s (.andn d a b) [(d, rx s a.r &&& ~~~ rx s b.r)]
  ∧ Gives s (.shl d a b) [(d, rx s a.r <<< ((rx s b.r).toNat % 64))]
  ∧ Gives s (.shr d a b) [(d, rx s a.r >>> ((rx s b.r).toNat % 64))]
  ∧ Gives s (.sra d a b) [(d, (rx s a.r).sshiftRight ((rx s b.r).toNat % 64))]
  ∧ Gives s (.rot d a b) [(d, (rx s a.r).rotateLeft ((rx s b.r).toNat % 64))]
  ∧ Gives s (.min d a b) [(d, if (rx s a.r).sle (rx s b.r) then rx s a.r else rx s b.r)]
  ∧ Gives s (.max d a b) [(d, if (rx s a.r).sle (rx s b.r) then rx s b.r else rx s a.r)]
  ∧ Gives s (.minn d a b) [(d, if (rx s a.r).ule (rx s b.r) then rx s a.r else rx s b.r)]
  ∧ Gives s (.maxn d a b) [(d, if (rx s a.r).ule (rx s b.r) then rx s b.r else rx s a.r)]
  ∧ Gives s (.slt d a b) [(d, if (rx s a.r).toInt < (rx s b.r).toInt then 1 else 0)]
  ∧ Gives s (.sltn d a b) [(d, if (rx s a.r).toNat < (rx s b.r).toNat then 1 else 0)]
  ∧ Gives s (.seq d a b) [(d, if rx s a.r = rx s b.r then 1 else 0)]
  ∧ Gives s (.sel d a b) [(d, if rx s d ≠ 0 then rx s a.r else rx s b.r)]
  ∧ Gives s (.mul d a b) [(d, rx s a.r * rx s b.r)]
  ∧ Gives s (.mulh d a b) [(d, ((rx s a.r).signExtend 128 * (rx s b.r).signExtend 128).extractLsb' 64 64)]
  ∧ Gives s (.mulhn d a b) [(d, ((rx s a.r).setWidth 128 * (rx s b.r).setWidth 128).extractLsb' 64 64)]
  ∧ Gives s (.popc d a) [(d, BitVec.ofNat 64 ((List.range 64).filter (fun i => (rx s a.r).getLsbD i)).length)]
  ∧ Gives s (.clz d a) [(d, (rx s a.r).clz)]
  ∧ Gives s (.mov d a) [(d, rx s a.r)]
  ∧ Gives s (.div d a b) [(d, if rx s b.r = 0 then BitVec.allOnes 64 else (rx s a.r).sdiv (rx s b.r))]
  ∧ Gives s (.divn d a b) [(d, if rx s b.r = 0 then BitVec.allOnes 64 else rx s a.r / rx s b.r)]
  ∧ Gives s (.rem d a b) [(d, (rx s a.r).srem (rx s b.r))]
  ∧ Gives s (.remn d a b) [(d, rx s a.r % rx s b.r)]
  ∧ Gives s (.addsh d a b n) [(d, rx s a.r + rx s b.r * BitVec.ofNat 64 (2 ^ n))]

/-- R86, R87 and R39: the immediate forms.
R88: a bit field is extracted, and inserted with every other bit of the destination unchanged; R105: RAND. -/
def Obligations.ImmediatesAndFields : Prop :=
  (∀ (s : State) (d : Nat) (a : Src) (v : Int) (n hi lit : Nat),
  Gives s (.addImm d a v) [(d, rx s a.r + BitVec.ofInt 64 v)]
  ∧ Gives s (.andImm d a v) [(d, rx s a.r &&& BitVec.ofInt 64 v)]
  ∧ Gives s (.orImm d a v) [(d, rx s a.r ||| BitVec.ofInt 64 v)]
  ∧ Gives s (.xorImm d a v) [(d, rx s a.r ^^^ BitVec.ofInt 64 v)]
  ∧ Gives s (.mulImm d a v) [(d, rx s a.r * BitVec.ofInt 64 v)]
  ∧ Gives s (.shlImm d a n) [(d, rx s a.r <<< n)]
  ∧ Gives s (.shrImm d a n) [(d, rx s a.r >>> n)]
  ∧ Gives s (.sraImm d a n) [(d, (rx s a.r).sshiftRight n)]
  ∧ Gives s (.rotImm d a n) [(d, (rx s a.r).rotateLeft n)]
  ∧ Gives s (.sltImm d a v) [(d, if (rx s a.r).toInt < v then 1 else 0)]
  ∧ Gives s (.sltnImm d a n) [(d, if (rx s a.r).toNat < n then 1 else 0)]
  ∧ Gives s (.seqImm d a v) [(d, if (rx s a.r).toInt = v then 1 else 0)]
  ∧ Gives s (.movImm d v) [(d, BitVec.ofInt 64 v)]
  ∧ Gives s (.li d hi lit) [(d, (BitVec.ofNat 16 hi ++ BitVec.ofNat 32 lit).signExtend 64)]
  ∧ Gives s (.liN d hi lit) [(d, (BitVec.ofNat 16 hi ++ BitVec.ofNat 32 lit).setWidth 64)]
  ∧ Gives s (.liHi d hi) [(d, BitVec.ofNat 16 hi ++ (rx s d).setWidth 48)])
  ∧ (∀ (s : State) (d : Nat) (a b : Src) (pos len : Nat),
  Gives s (.bfx true d a pos len) [(d, ((rx s a.r).extractLsb' pos len).signExtend 64)]
  ∧ Gives s (.bfx false d a pos len) [(d, ((rx s a.r).extractLsb' pos len).setWidth 64)]
  ∧ (∃ v : Word, Gives s (.bfi d a pos len) [(d, v)]
      ∧ (Runs s (.bfi d a pos len) → ∀ j, j < 64 →
          v.getLsbD j = if pos ≤ j ∧ j < pos + len then (rx s a.r).getLsbD (j - pos) else (rx s d).getLsbD j))
  ∧ Gives s (.rand d a b) [(d, randWord (rx s a.r) (rx s b.r))]
  ∧ Gives s (.randV d a b) (vecWrites d ((List.range 16).map fun i =>
      (randWord (rx s a.r) (rx s b.r + BitVec.ofNat 64 i)).extractLsb' 32 32)))

/-- R89 to R91 with R56: the scalar float instructions give the exact result rounded once, and the canonical NaN where an operand is one.
R92, R99, R101, R102 with R52 and R40: a conversion takes its formats and modes from its literal or from the pending descriptor, and its
table from the descriptor's dt.
The model's choices here: log 60 (results on infinities and NaNs). -/
def Obligations.ScalarFloat : Prop :=
  (∀ (s : State) (t : FTy) (d : Nat) (a b : Src) (r : Rel),
  Gives s (.fadd t d a b) [(d, frounded t ((fval t (rx s a.r)).add (fval t (rx s b.r))))]
  ∧ Gives s (.fsub t d a b) [(d, frounded t ((fval t (rx s a.r)).add (fval t (rx s b.r)).negate))]
  ∧ Gives s (.fmul t d a b) [(d, frounded t ((fval t (rx s a.r)).mul (fval t (rx s b.r))))]
  ∧ Gives s (.ffma t d a b) [(d, frounded t (((fval t (rx s a.r)).mul (fval t (rx s b.r))).add (fval t (rx s d))))]
  ∧ Gives s (.fdiv t d a b) [(d, frounded t ((fval t (rx s a.r)).div (fval t (rx s b.r))))]
  ∧ Gives s (.fsqrt t d a) [(d, frounded t (fval t (rx s a.r)).sqrt)]
  ∧ Gives s (.fmin t d a b) [(d, wd ((ftyFmt t).min (fsrc t (rx s a.r)) (fsrc t (rx s b.r))))]
  ∧ Gives s (.fmax t d a b) [(d, wd ((ftyFmt t).max (fsrc t (rx s a.r)) (fsrc t (rx s b.r))))]
  ∧ Gives s (.fneg t d a) [(d, wd (fsrc t (rx s a.r) ^^^ (ftyFmt t).signBit))]
  ∧ Gives s (.fabs t d a) [(d, wd (fsrc t (rx s a.r) % (ftyFmt t).signBit))]
  ∧ Gives s (.fclass t d a) [(d, wd (2 ^ (ftyFmt t).classBit (fsrc t (rx s a.r))))]
  ∧ Gives s (.fcmp t r d a b) [(d, if (ftyFmt t).rel r (fsrc t (rx s a.r)) (fsrc t (rx s b.r)) then 1 else 0)])
  ∧ (∀ (s : State) (c : Conv) (d : Nat) (a : Src) (x y : Fmt) (o : Bool) (r : Rnd) (n : Bool),
  (convFmts fcvtPair s.cur.latch c = some (x, y, o, r, n) →
    Gives s (.fcvt c d a) [(d, fmtWord x (convert (if n then s.here.table1 else s.here.table0) x y o r (rx s a.r).toNat))])
  ∧ (convFmts vcvtPair s.cur.latch c = some (x, y, o, r, n) →
    Gives s (.vcvt c d a) (vecWrites d ((List.range 16).map fun i =>
      fmtLane x (convert (if n then s.here.table1 else s.here.table0) x y o r (rlane s a.r i).toNat))))
  ∧ (convFmts vquantPair s.cur.latch c = some (x, y, o, r, n) →
    Gives s (.vquant c d a) (vecWrites d
      (let q := quantise (if n then s.here.table1 else s.here.table0) o r ((rv s a.r ++ rv s (a.r + 1)).map (·.toNat))
       blockImage q.1 q.2)))
  ∧ (convFmts vdeqPair s.cur.latch c = some (x, y, o, r, n) →
    Gives s (.vdeq c d a)
      (vecWrites d ((List.range 16).map (expand (if n then s.here.table1 else s.here.table0) r (rv s a.r)))
        ++ vecWrites (d + 1) ((List.range 16).map fun i =>
          expand (if n then s.here.table1 else s.here.table0) r (rv s a.r) (16 + i)))))

/-- R93 and R94: each of the sixteen lanes by itself.
The model's choices here: log 60 (float results on infinities and NaNs). -/
def Obligations.VectorLanes : Prop := ∀ (s : State) (t : VTy) (d : Nat) (a b : Src),
  let each := fun (f : Nat → Lane) => vecWrites d ((List.range 16).map f)
  let x := rlane s a.r
  let y := rlane s b.r
  Gives s (.vadd .f32 d a b) (each fun i => lrounded ((lval (x i)).add (lval (y i))))
  ∧ Gives s (.vadd .i32 d a b) (each fun i => x i + y i)
  ∧ Gives s (.vsub .f32 d a b) (each fun i => lrounded ((lval (x i)).add (lval (y i)).negate))
  ∧ Gives s (.vsub .i32 d a b) (each fun i => x i - y i)
  ∧ Gives s (.vmul .f32 d a b) (each fun i => lrounded ((lval (x i)).mul (lval (y i))))
  ∧ Gives s (.vmul .i32 d a b) (each fun i => x i * y i)
  ∧ Gives s (.vfma .f32 d a b) (each fun i => lrounded (((lval (x i)).mul (lval (y i))).add (lval (rlane s d i))))
  ∧ Gives s (.vfma .i32 d a b) (each fun i => x i * y i + rlane s d i)
  ∧ Gives s (.vmin t d a b) (each fun i =>
      match t with
      | .f32 => BitVec.ofNat 32 (b32.min (x i).toNat (y i).toNat)
      | .i32 => if (x i).toInt ≤ (y i).toInt then x i else y i
      | .n32 => if (x i).toNat ≤ (y i).toNat then x i else y i)
  ∧ Gives s (.vmax t d a b) (each fun i =>
      match t with
      | .f32 => BitVec.ofNat 32 (b32.max (x i).toNat (y i).toNat)
      | .i32 => if (x i).toInt ≤ (y i).toInt then y i else x i
      | .n32 => if (x i).toNat ≤ (y i).toNat then y i else x i)
  ∧ Gives s (.vand d a b) (each fun i => x i &&& y i)
  ∧ Gives s (.vor d a b) (each fun i => x i ||| y i)
  ∧ Gives s (.vxor d a b) (each fun i => x i ^^^ y i)
  ∧ Gives s (.vmov d a) (each x)
  ∧ Gives s (.vshl d a b) (each fun i => x i <<< ((y i).toNat % 32))
  ∧ Gives s (.vshrN32 d a b) (each fun i => x i >>> ((y i).toNat % 32))
  ∧ Gives s (.vshrI32 d a b) (each fun i => (x i).sshiftRight ((y i).toNat % 32))
  ∧ Gives s (.vabs .f32 d a) (each fun i => BitVec.ofNat 32 ((x i).toNat % b32.signBit))
  ∧ Gives s (.vabs .i32 d a) (each fun i => if (x i).toInt < 0 then -x i else x i)
  ∧ Gives s (.vneg .f32 d a) (each fun i => BitVec.ofNat 32 ((x i).toNat ^^^ b32.signBit))
  ∧ Gives s (.vneg .i32 d a) (each fun i => -x i)
  ∧ Gives s (.vexp2 d a) (each fun i => lrounded (lval (x i)).exp2)
  ∧ Gives s (.vlog2 d a) (each fun i => lrounded (lval (x i)).log2)
  ∧ Gives s (.vrcp d a) (each fun i => lrounded ((FVal.fin false 1 0).div (lval (x i))))
  ∧ Gives s (.vrsq d a) (each fun i => lrounded (lval (x i)).rsqrt)

/-- R95 to R98: comparisons, selections, moves, reductions, scans and the sort. -/
def Obligations.VectorAcrossLanes : Prop := ∀ (s : State) (t : VTy) (d : Nat) (a b : Src) (r : Rel) (m l : Nat) (op : RedOp)
    (sc : ScanOp) (desc : Bool),
  let each := fun (f : Nat → Lane) => vecWrites d ((List.range 16).map f)
  let x := rlane s a.r
  let y := rlane s b.r
  Gives s (.vcmp t r d a b) (each fun i => if vRel t r (x i) (y i) then BitVec.allOnes 32 else 0)
  ∧ Gives s (.vsel d a b m) (each fun i => if rlane s m i ≠ 0 then x i else y i)
  ∧ Gives s (.vred t op d a) [(d, laneWord t
      (let n := redNode t op
       n (n (n (n (x 0) (x 1)) (n (x 2) (x 3))) (n (n (x 4) (x 5)) (n (x 6) (x 7))))
         (n (n (n (x 8) (x 9)) (n (x 10) (x 11))) (n (n (x 12) (x 13)) (n (x 14) (x 15))))))]
  ∧ Gives s (.vscan t sc d a) (vecWrites d (scan t sc (rv s a.r)))
  ∧ Gives s (.vperm d a b) (each fun i => x ((y i).toNat % 16))
  ∧ Gives s (.vbcast d a) (each fun _ => (rx s a.r).setWidth 32)
  ∧ Gives s (.vext t d a l) [(d, if t = .i32 then (x l).signExtend 64 else (x l).setWidth 64)]
  ∧ Gives s (.vins d a l) (each fun i => if i = l then (rx s a.r).setWidth 32 else rlane s d i)
  ∧ Gives s (.vsort t desc d a b)
      (vecWrites d ((vsort t desc (rv s a.r) (rv s b.r)).map (·.1))
        ++ vecWrites (d + 1) ((vsort t desc (rv s a.r) (rv s b.r)).map (·.2)))
  ∧ Gives s (.viota d a) (each fun i => (rx s a.r).setWidth 32 + BitVec.ofNat 32 i)

/-- R98: the sort keeps the pairs of key and payload, no key stands before one that it must follow, and pairs whose keys are equal stand in the
order of their source lanes. -/
def Obligations.VectorSortOrders : Prop := ∀ (t : VTy) (desc : Bool) (a b : List Lane) (k : Lane),
  let pairs := (List.range 16).map fun i => (lane a i, lane b i)
  let ties := fun (p : Lane × Lane) => !keyAfter t desc p.1 k && !keyAfter t desc k p.1
  (vsort t desc a b).Perm pairs
  ∧ (vsort t desc a b).Pairwise (fun p q => keyAfter t desc p.1 q.1 = false)
  ∧ (vsort t desc a b).filter ties = pairs.filter ties

/-! Control flow, the format prefix, decode tables, traps. -/

/-- R80 and R82: a conditional branch that is not taken changes nothing; one that is taken continues at its target when the bundle retires; one
whose target lies outside the bundle's segment traps with cause OVERLAY.
R81 and R165: a jump links the address of the next bundle and continues at its target; a target outside the segment, a JMPF into a segment
that has not landed, and a misaligned target trap. NOP does nothing (R83).
The model's choices here: log 65 (the target of a jump wraps modulo 2^64). -/
def Obligations.Branches : Prop :=
  (∀ (s : State) (d : Nat) (a : Src) (off : Int),
  let tgt := s.cur.pc + BitVec.ofInt 64 (8 * off)
  let branch := fun (i : Instr) (c : Prop) =>
    (¬ c → Gives s i []) ∧ (c → inSegment s tgt → Does s i [] id id (continueAt · tgt))
      ∧ (c → ¬ inSegment s tgt → Traps s i cOVERLAY 0 tgt)
  branch (.beq d a off) (rx s d = rx s a.r)
  ∧ branch (.bne d a off) (rx s d ≠ rx s a.r)
  ∧ branch (.blt d a off) ((rx s d).toInt < (rx s a.r).toInt)
  ∧ branch (.bge d a off) ((rx s a.r).toInt ≤ (rx s d).toInt)
  ∧ branch (.bltn d a off) ((rx s d).toNat < (rx s a.r).toNat)
  ∧ branch (.bgen d a off) ((rx s a.r).toNat ≤ (rx s d).toNat)
  ∧ branch (.bz d off) (rx s d = 0)
  ∧ branch (.bnz d off) (rx s d ≠ 0))
  ∧ (∀ (s : State) (link idx : Nat) (a : Src) (off : Int),
  let next := s.cur.pc + 8
  let near := s.cur.pc + BitVec.ofInt 64 (8 * off)
  let far := rx s a.r + BitVec.ofInt 64 (8 * off)
  let landing := BitVec.ofNat 64 (8 * idx)
  (inSegment s near → Does s (.jal link off) [(link, next)] id id (continueAt · near))
  ∧ (¬ inSegment s near → Traps s (.jal link off) cOVERLAY 0 near)
  ∧ (far.toNat % 8 = 0 → inSegment s far → Does s (.jalr link a off) [(link, next)] id id (continueAt · far))
  ∧ (far.toNat % 8 = 0 → ¬ inSegment s far → Traps s (.jalr link a off) cOVERLAY 0 far)
  ∧ (far.toNat % 8 ≠ 0 → Traps s (.jalr link a off) cALIGN 0 far)
  ∧ ((s.here.seg (idx / 512)).st = .landed → Does s (.jmpf link idx) [(link, next)] id id (continueAt · landing))
  ∧ ((s.here.seg (idx / 512)).st ≠ .landed → Traps s (.jmpf link idx) cOVERLAY 0 landing)
  ∧ Gives s .nop [])

/-- R103, R74 to R77: FMT latches its descriptor and sets the pending prefix; DTLD replaces a table at once when no matrix operation reads it,
and leaves the table as it was, with status 1, when the image is no valid table. A second replacement of a table whose replacement is held
waits.
The model's choices here: log 25 (which running product holds a table back, and that a second replacement waits). -/
def Obligations.PrefixAndTables : Prop := ∀ (s : State) (lit d n : Nat) (a : Src) (p : Preset) (bs : List Byte),
  let free := fun (u : State) => u.cur.reply = none ∧ look u.here.newTable n = none ∧ mmaReads u.here n = false
  let image := Table.image ((List.range 256).map fun i => BitVec.ofNat 32 (ofBytes ((bs.drop (4 * i)).take 4)))
  let read := fun (u : State) => s.cur.reply = none ∧ (rx s a.r).toNat % 64 = 0
    ∧ gatherLoads s 64 ((List.range 16).map fun i => rx s a.r + BitVec.ofNat 64 (64 * i)) = .ok (bs, u)
  Does s (.fmt lit) [] (fun l => { l with latch := BitVec.ofNat 32 lit, st := { l.st with pp := true } }) id id
  ∧ (free s → Does s (.dtldPreset d p n) [(d, 0)] (fun l => { l with part := [], tile := none, leaf := none }) (·.setTable n (.preset p)) id)
  ∧ (s.cur.reply = none → (look s.here.newTable n).isSome = true → Waits s (.dtldPreset d p n) (.retry .unbounded) s)
  ∧ (∀ u, read u → free u → image.valid = true → Ends s (.dtldMem d a n) (wx (gathered (u.modHere (·.setTable n image))) d 0))
  ∧ (∀ u, read u → image.valid = false → u.here.table0 = s.here.table0 ∧ u.here.table1 = s.here.table1
      ∧ Ends s (.dtldMem d a n) (wx (gathered u) d 1))
  ∧ (s.cur.reply = none → (rx s a.r).toNat % 64 ≠ 0 → Traps s (.dtldMem d a n) cALIGN 0 (rx s a.r))

/-- R135: trap entry saves the address, the cause and the value, moves pv to ppv, sets pv and te, and continues at `trapvec`; `pp`, `ss`, `vw`,
the latch, `unack` and everything outside the slot stay.
R137: a trap with te set halts the thread at its bundle; its epc, cause, tval, status and pc keep their values, no register and no byte of
memory changes unless the trap is of the pager or the monitor, and the monitor of the context gets the DOUBLETRAP report.
The model's choices here: log 52 (epc holds 15 bits). -/
def Obligations.TrapEntry : Prop :=
  (∀ (s : State) (c t code info : Nat) (tval epc : Word),
  (s.slot c t).st.te = false →
  let l := s.slot c t
  let u := takeTrap s c t code info tval epc
  let m := u.slot c t
  m.epc = epc &&& 0x7FFF ∧ m.cause = causeWord code info ∧ m.tval = tval ∧ m.pc = l.trapvec
    ∧ m.st = { l.st with ppv := l.st.pv, pv := true, te := true }
    ∧ m.latch = l.latch ∧ m.unack = l.unack ∧ m.trapvec = l.trapvec ∧ m.wbase = l.wbase ∧ m.wlim = l.wlim
    ∧ (∀ d k, ¬ (d = c ∧ k = t) → u.slot d k = s.slot d k)
    ∧ (∀ d e, u.entry d e = s.entry d e ∧ u.emptyAt d e = s.emptyAt d e) ∧ (∀ d, (u.core d).bare = (s.core d).bare)
    ∧ u.outside = s.outside)
  ∧ (∀ (s : State) (c t code info : Nat) (tval epc : Word),
  (s.slot c t).st.te = true →
  let l := s.slot c t
  let x := s.ctxOf c t
  let u := takeTrap s c t code info tval epc
  let m := u.slot c t
  m.phase = .halted ∧ m.epc = l.epc ∧ m.cause = l.cause ∧ m.tval = l.tval ∧ m.st = l.st ∧ m.pc = l.pc
    ∧ (∀ d e, u.entry d e = s.entry d e ∧ u.emptyAt d e = s.emptyAt d e)
    ∧ (s.isPager x c t = false → s.isMonitor x c t = false →
        u.mem = s.mem ∧ u.ctxs = s.ctxs
        ∧ ((s.ctx x).monitorRec ≠ 0 → ∃ q, (u.core (s.ctx x).monitor.1).station = (s.core (s.ctx x).monitor.1).station ++ [q]
            ∧ q.slot = (s.ctx x).monitor.2
            ∧ q.words = [reportWord 0x42 code info (thid c t), tval, BitVec.ofNat 64 (l.pc.toNat % 2 ^ 15)])))

/-- R139 and R140: TRAP and BKPT of a lone bundle enter the handler with the address of the next bundle, and with te set they are double traps;
ERET returns to epc with pv from ppv and te clear; IDLE retires at once when a message or a cancel is there.
The model's choices here: log 52 (epc holds 15 bits). -/
def Obligations.TrapInstructions : Prop := ∀ (s : State) (n : Nat),
  let enter := fun (code : Nat) (tval : Word) (l : Slot) =>
    { l.awake with epc := (l.pc + 8) &&& 0x7FFF, cause := causeWord code 0, tval := tval, pc := l.trapvec, lastCause := code
                   st := { l.st with ppv := l.st.pv, pv := true, te := true } }
  (s.iss.pair = false → s.cur.st.te = false →
    Does s (.trap n) [] (enter cTRAP (BitVec.ofNat 64 n)) id (·.ended .trapped)
    ∧ Does s .bkpt [] (enter cBKPT 0) id (·.ended .trapped))
  ∧ (s.cur.st.te = true → Traps s (.trap n) cTRAP 0 (BitVec.ofNat 64 n) ∧ Traps s .bkpt cBKPT 0 0)
  ∧ Does s .eret [] (fun l => { l with st := { l.st with pv := l.st.ppv, te := false } }) id (continueAt · s.cur.epc)
  ∧ (messageReady s = true ∨ s.cur.cancelled = true → Gives s .idle [])

/-- R42: the checks of a lone bundle are made in order; the first that fails supplies the cause, and nothing of the bundle is performed (R43). At
step 8 the bundle waits while a register that it names with `!` is empty (R25), but traps when a stream bound to one has failed (R236), and
it waits while a table that it reads is held for its replacement (R77); it keeps no latch of its sources then.
The model's choices here: log 57 (which of several registers is named); log 64 (the sources of a waiting bundle are read after the wait). -/
def Obligations.ChecksInOrder : Prop := ∀ (s : State) (i : Instr) (n : Nat) (f : Nat × Nat),
  i.wf = true → isRulis i = true → s.cur.phase = .ready → s.iss.passed = false →
  let traps := fun (code : Nat) (tval : Word) =>
    exec i s = .next ((takeTrap s s.iss.core s.iss.slot code 0 tval s.cur.pc).ended .trapped)
  let bits := BitVec.ofNat 64 s.iss.bundle
  let empties := emptyBangs s [i]
  let passes := illegalNow s i = false ∧ privFails s i = false ∧ windowFails s i = none ∧ prefixFails s i = false
  (illegalNow s i = true → traps cILLEGAL bits)
  ∧ (illegalNow s i = false → s.priv = false → privileged i = true → traps cPRIV bits)
  ∧ (illegalNow s i = false → privFails s i = true → traps cPRIV bits)
  ∧ (illegalNow s i = false → privFails s i = false → windowFails s i = some n → traps cWINDOW (BitVec.ofNat 64 n))
  ∧ (illegalNow s i = false → privFails s i = false → windowFails s i = none → prefixFails s i = true → traps cPREFIX bits)
  ∧ (∀ r, r ∈ empties ↔ r ∈ syncRegs i ∧ isEmpty s r = true)
  ∧ (passes → empties ≠ [] → streamFailure s empties = none → exec i s = .next (park s false (.retry (.sync empties))))
  ∧ (passes → streamFailure s empties = some f →
      exec i s = .next ((takeTrap s s.iss.core s.iss.slot cSTREAM f.1 (wd f.2) s.cur.pc).ended .trapped))
  ∧ (passes → empties = [] → tableHeld s i = true → exec i s = .next (park s false (.retry .unbounded)))

/-! Memory: loads, stores, atomics, fences, control registers. -/

/-- R110, R111, R199: a load of an aligned address that R186 allows, in words without poison, writes the value to its register, the byte of
lowest address lowest; the value of an access in flight comes with its reply; a misaligned address traps.
The model's choices here: log 13 (which accesses complete within their bundle). -/
def Obligations.Loads : Prop := ∀ (s : State) (t : Nat) (base : Src) (off : Int) (p : Place) (bs : List Byte),
  let load := fun (i : Instr) (n : Nat) (write : State → List Byte → State) =>
    let va := rx s base.r + BitVec.ofInt 64 (off * n)
    (AtOnce s va n forLoad → va.toNat % n = 0 → locate s s.myCtx s.priv va n forLoad = .ok p → poisonedAt s p va n = none →
      Ends s i (write (lineBrought s va n p) (loadAt s p n)))
    ∧ (s.cur.reply = some bs → bs.length = n → va.toNat % n = 0 → Ends s i (write (takeReply s) bs))
    ∧ (va.toNat % n ≠ 0 → Traps s i cALIGN 0 va)
  load (.ldI8 t base off) 1 (fun u bs => wx u t ((BitVec.ofNat 8 (ofBytes bs)).signExtend 64))
  ∧ load (.ldN8 t base off) 1 (fun u bs => wx u t ((BitVec.ofNat 8 (ofBytes bs)).setWidth 64))
  ∧ load (.ldI16 t base off) 2 (fun u bs => wx u t ((BitVec.ofNat 16 (ofBytes bs)).signExtend 64))
  ∧ load (.ldN16 t base off) 2 (fun u bs => wx u t ((BitVec.ofNat 16 (ofBytes bs)).setWidth 64))
  ∧ load (.ldI32 t base off) 4 (fun u bs => wx u t ((BitVec.ofNat 32 (ofBytes bs)).signExtend 64))
  ∧ load (.ldN32 t base off) 4 (fun u bs => wx u t ((BitVec.ofNat 32 (ofBytes bs)).setWidth 64))
  ∧ load (.ldI64 t base off) 8 (fun u bs => wx u t (BitVec.ofNat 64 (ofBytes bs)))
  ∧ load (.ldaI64 t base off) 8 (fun u bs => wx u t (BitVec.ofNat 64 (ofBytes bs)))
  ∧ load (.ldv t base off) 64 (fun u bs => wv u t ((List.range 16).map (bytesLane bs)))

/-- R110, R111, R113: a store of an aligned address that R186 allows writes the low bytes of its register, the lowest first; STL first waits
until the thread's stores are acknowledged, and takes the report of one that was refused (R109); a fabric store that its target refuses is
kept for the thread's report (R109); a store to another core's scratchpad retires and counts until it is acknowledged.
R6 and R199: a store sets the bytes from its place on, and no other byte of memory, no full/empty tag and nothing beside memory; of the
poisoned words only those that it covers whole become sound.
The model's choices here: log 13 (which accesses complete within their bundle); log 53 (when a store is performed). -/
def Obligations.Stores : Prop :=
  (∀ (s : State) (t : Nat) (base : Src) (off : Int) (p : Place) (bs : List Byte),
  let store := fun (i : Instr) (n : Nat) (bytes : List Byte) (first : Prop) =>
    let va := rx s base.r + BitVec.ofInt 64 (off * n)
    (AtOnce s va n forStore → first → va.toNat % n = 0 → locate s s.myCtx s.priv va n forStore = .ok p →
      Ends s i (storeAt (lineOwned s va n p) p.key bytes))
    ∧ (AtOnce s va n forStore → first → va.toNat % n = 0 → locate s s.myCtx s.priv va n forStore = .error .far →
      Does s i [] (recordFailure · s.env.fresh va) id id)
    ∧ (Posts s va n → first → va.toNat % n = 0 → Ends s i (post s va bytes))
    ∧ (s.cur.reply = some bs → va.toNat % n = 0 → Does s i [] (fun l => { l with reply := none }) id id)
    ∧ (va.toNat % n ≠ 0 → Traps s i cALIGN 0 va)
  ((rx s base.r + BitVec.ofInt 64 (off * 8)).toNat % 8 = 0 → s.cur.reply = none → Reports s (.stlI64 t base off))
  ∧ store (.stI8 t base off) 1 (toBytes 1 (rx s t).toNat) True
  ∧ store (.stI16 t base off) 2 (toBytes 2 (rx s t).toNat) True
  ∧ store (.stI32 t base off) 4 (toBytes 4 (rx s t).toNat) True
  ∧ store (.stI64 t base off) 8 (toBytes 8 (rx s t).toNat) True
  ∧ store (.stv t base off) 64 ((rv s t).flatMap fun l => toBytes 4 l.toNat) True
  ∧ store (.stlI64 t base off) 8 (toBytes 8 (rx s t).toNat) (Drained s))
  ∧ (∀ (s : State) (key : Nat) (bs : List Byte),
  let u := storeAt s key bs
  (∀ j, j < key ∨ key + bs.length ≤ j → u.byte j = s.byte j)
  ∧ u.bytes key bs.length = bs
  ∧ (∀ w, u.isPoison (8 * w) = true ↔ s.isPoison (8 * w) = true ∧ ¬ (key ≤ 8 * w ∧ 8 * w + 8 ≤ key + bs.length))
  ∧ (∀ i, i ∈ u.hostCopies ↔ i ∈ s.hostCopies ∧ ¬ (key / 128 ≤ i ∧ 128 * i < key + bs.length))
  ∧ u = { s with mem := u.mem, poison := u.poison, hostCopies := u.hostCopies })

/-- R192 to R197: what the caches and the directories do for an access changes no register, no thread and no byte of memory.
The model's choices here: log 15 (which line a full cache gives up). -/
def Obligations.CachesAreTransparent : Prop := ∀ (s : State) (va : Word) (n : Nat) (p : Place),
  CachesOnly s (lineBrought s va n p) ∧ CachesOnly s (lineOwned s va n p) ∧ CachesOnly s (homeTaken s va n p)

/-- The frame of the scalar and vector stores (R79, R110): every byte of memory outside the bytes from the place that the address has is
unchanged, and so is every register, every other thread and every context.
The model's choices here: log 13 (which accesses complete within their bundle). -/
def Obligations.StoreFrame : Prop := ∀ (s : State) (t : Nat) (base : Src) (off : Int) (p : Place),
  let frame := fun (i : Instr) (n : Nat) =>
    let va := rx s base.r + BitVec.ofInt 64 (off * n)
    Runs s i → AtOnce s va n forStore → Drained s → va.toNat % n = 0 → locate s s.myCtx s.priv va n forStore = .ok p →
      ∃ u, exec i s = .next u ∧ (∀ j, j < p.key ∨ p.key + n ≤ j → u.byte j = s.byte j)
        ∧ (∀ c e, u.entry c e = s.entry c e) ∧ (∀ c k, u.slot c k = s.slot c k) ∧ u.full = s.full ∧ u.ctxs = s.ctxs
        ∧ (∀ c, { u.core c with lines := [], empty := [] } = { s.core c with lines := [], empty := [] })
  frame (.stI8 t base off) 1 ∧ frame (.stI16 t base off) 2 ∧ frame (.stI32 t base off) 4 ∧ frame (.stI64 t base off) 8
    ∧ frame (.stv t base off) 64 ∧ frame (.stlI64 t base off) 8

/-- R114 to R116 and R121: the MX block moves, which are performed whole or not at all, the prefetches and the fences. R109: a draining
instruction takes the report of a store that was refused (EXIT, STL and the atomics do so too, in their own statements). A STMX that is not
performed within its bundle travels as one store (R111, R115). A PFL of a line that an ordinary load would not get at once, or of a fabric
address, changes nothing.
The last clause is the model's inference, not R109's list of draining instructions: LAUNCH, CSEAL, PFXINS, PFXDEL and the pager's
instructions are given as releases, or as waiting for the thread's stores (R113 with R155, R156, R188, R268, R282, R308), so they take the
report as DRAIN does (log 75).
The model's choices here: log 13 (what stands before an access, and that a fence at thread scope waits for the thread's stores); log 14 (both
parts of a block move are one step); log 73 (whose address is kept when both parts are refused); log 75 (the report at LAUNCH, CSEAL, PFXINS,
PFXDEL and the instructions of the pager). -/
def Obligations.BlockMovesAndFences : Prop := ∀ (s : State) (d : Nat) (a b : Src) (off : Int) (p q : Place) (c : Scope)
    (bs : List Byte),
  let va := rx s a.r
  let vb := rx s b.r
  let u := lineBrought s va 32 p
  let line := rx s a.r + BitVec.ofInt 64 (off * 128)
  let ready := fun (g : Rights) => va.toNat % 32 = 0 ∧ va.getLsbD 63 = vb.getLsbD 63 ∧ heldBack s va 32 g = false ∧ heldBack s vb 1 g = false
  let codes := ((rv s d).take 8).flatMap fun l => toBytes 4 l.toNat
  let scale := toBytes 1 (rlane s d 8).toNat
  let parts := [(va, codes), (vb, scale)]
  let here := s.cur.reply = none ∧ postedPart s va = false ∧ postedPart s vb = false
    ∧ (va.getLsbD 63 = true ∨ (atOnce s va 32 false = true ∧ atOnce s vb 1 false = true))
  let far := fun (v : Word) (n : Nat) => locate s s.myCtx s.priv v n forStore = .error .far
  (ready forLoad → locate s s.myCtx s.priv va 32 forLoad = .ok p → poisonedAt s p va 32 = none → heldBack u vb 1 forLoad = false →
    locate u u.myCtx u.priv vb 1 forLoad = .ok q → poisonedAt u q vb 1 = none →
    Ends s (.ldmx d a b) (wv (lineBrought u vb 1 q) d
      ((List.range 8).map (bytesLane (loadAt s p 32)) ++ [BitVec.ofNat 32 (ofBytes (loadAt u q 1))] ++ List.replicate 7 0)))
  ∧ (ready forStore → here → locate s s.myCtx s.priv va 32 forStore = .ok p → locate s s.myCtx s.priv vb 1 forStore = .ok q →
    (let w := storeAt (lineOwned s va 32 p) p.key codes
     Ends s (.stmx d a b) (storeAt (lineOwned w vb 1 q) q.key scale)))
  ∧ (ready forStore → here → far va 32 → (far vb 1 ∨ locate s s.myCtx s.priv vb 1 forStore = .ok q) →
    Does s (.stmx d a b) [] (recordFailure · s.env.fresh va) id id)
  ∧ (ready forStore → here → locate s s.myCtx s.priv va 32 forStore = .ok p → far vb 1 →
    Does s (.stmx d a b) [] (recordFailure · s.env.fresh vb) id id)
  ∧ (va.toNat % 32 = 0 → va.getLsbD 63 = vb.getLsbD 63 → s.cur.reply = some bs → Does s (.stmx d a b) [] (fun l => { l with reply := none }) id id)
  ∧ (va.toNat % 32 = 0 → va.getLsbD 63 = vb.getLsbD 63 → s.cur.reply = none → partsStop s parts 1 = none →
    (postedPart s va = true ∨ postedPart s vb = true → Ends s (.stmx d a b) (blockFlight s (va, codes) (vb, scale) true))
    ∧ (va.getLsbD 63 = false → (atOnce s va 32 false = false ∨ atOnce s vb 1 false = false) → s.cur.unack < 65535 →
      Waits s (.stmx d a b) (.reply s.env.fresh) (blockFlight s (va, codes) (vb, scale) false)))
  ∧ (∀ i ∈ [Instr.pfl a off, .pflW a off],
      (∀ e, locate s s.myCtx s.priv line 1 forLoad = .error e → Gives s i [])
      ∧ (locate s s.myCtx s.priv line 1 forLoad = .ok p → p.glob = true →
          poisonedAt s { p with key := p.key - p.key % 128 } 0 128 = none → behind s s.iss.core s.myCtx line 1 forLoad = false →
          Ends s i (if cacheRoom s.here = true then lineBrought s line 1 p else install s s.myCtx line.toNat p))
      ∧ (p.glob = false ∨ behind s s.iss.core s.myCtx line 1 forLoad = true → locate s s.myCtx s.priv line 1 forLoad = .ok p → Gives s i []))
  ∧ (Drained s → Gives s .drain [])
  ∧ (Drained s → (∀ g ∈ s.here.segs, ¬ (g.2.st = .fetching ∧ g.2.byUid = s.cur.uid ∧ g.2.byUid ≠ 0)) → Gives s .ifence [])
  ∧ (Drained s ∨ (c = .thread ∧ s.cur.unack = 0) → Gives s (.fence c) [])
  ∧ (s.cur.unack ≠ 0 → Waits s .drain (.retry .unbounded) s ∧ Waits s (.fence c) (.retry .unbounded) s)
  ∧ Reports s .drain ∧ (c ≠ .thread → Reports s (.fence c))
  ∧ ((∀ g ∈ s.here.segs, ¬ (g.2.st = .fetching ∧ g.2.byUid = s.cur.uid ∧ g.2.byUid ≠ 0)) → Reports s .ifence)
  ∧ (∀ i ∈ [Instr.launch d a b, .cseal d a, .pfxins d a, .pfxdel d a, .pgharv d a, .pgharvClr d a, .pginvPage d a, .pginvCtx d,
      .pginvRevive d a, .pgwake d a, .pgqry d a], Reports s i)

/-- R117, R118: an atomic is one event; its register takes the old value, extended as the type says, and the memory the new one; the value of an
access in flight comes with its reply; a misaligned address traps. R113, R109: a .rel form first waits until the thread's stores are
acknowledged, and takes the report of one that was refused.
The model's choices here: log 13 (which accesses complete within their bundle). -/
def Obligations.Atomics : Prop := ∀ (s : State) (m : AtomMode) (d : Nat) (a b : Src) (p : Place) (bs : List Byte),
  let event := fun (i : Instr) (n : Nat) (now : Nat) (old : Nat → Word) =>
    let va := rx s a.r + BitVec.ofInt 64 (m.off * n)
    (AtOnce s va n forAtomic → va.toNat % n = 0 → (m.rel = true → Drained s) → locate s s.myCtx s.priv va n forAtomic = .ok p →
      poisonedAt s p va n = none → Ends s i (wx (storeAt (homeTaken s va n p) p.key (toBytes n now)) d (old (s.num p.key n))))
    ∧ (s.cur.reply = some bs → bs.length = n → va.toNat % n = 0 → Ends s i (wx (takeReply s) d (old (ofBytes bs))))
    ∧ (s.cur.reply = none → va.toNat % n = 0 → m.rel = true →
      (s.cur.unack ≠ 0 → Waits s i (.retry .unbounded) s) ∧ Reports s i)
    ∧ (va.toNat % n ≠ 0 → Traps s i cALIGN 0 va)
  let both := fun (i : ITy → Instr) (op : (w : Nat) → Bool → BitVec w → BitVec w → BitVec w → BitVec w) =>
    let at_ := fun (w : Nat) (signed : Bool) => op w signed (BitVec.ofNat w (s.num p.key (w / 8))) ((rx s b.r).setWidth w) ((rx s d).setWidth w)
    event (i .i32) 4 (at_ 32 true).toNat (fun v => (BitVec.ofNat 32 v).signExtend 64)
    ∧ event (i .n32) 4 (at_ 32 false).toNat (fun v => (BitVec.ofNat 32 v).setWidth 64)
    ∧ event (i .i64) 8 (at_ 64 true).toNat (BitVec.ofNat 64)
    ∧ event (i .n64) 8 (at_ 64 false).toNat (BitVec.ofNat 64)
  both (.aadd · m d a b) (fun _ _ o v _ => o + v)
  ∧ both (.aand · m d a b) (fun _ _ o v _ => o &&& v)
  ∧ both (.aor · m d a b) (fun _ _ o v _ => o ||| v)
  ∧ both (.axor · m d a b) (fun _ _ o v _ => o ^^^ v)
  ∧ both (.amin · m d a b) (fun _ g o v _ => if g then (if v.slt o then v else o) else (if v.ult o then v else o))
  ∧ both (.amax · m d a b) (fun _ g o v _ => if g then (if o.slt v then v else o) else (if o.ult v then v else o))
  ∧ both (.aswp · m d a b) (fun _ _ _ v _ => v)
  ∧ both (.acas · m d a b) (fun _ _ o v e => if o = e then v else o)
  ∧ event (.afadd .f64 m d a b) 8 (b64.addB (s.num p.key 8) (rx s b.r).toNat) (BitVec.ofNat 64)
  ∧ event (.afadd .f32 m d a b) 4 (b32.addB (s.num p.key 4) ((rx s b.r).toNat % 2 ^ 32)) (BitVec.ofNat 64)

/-- R131 and R134: what CSRR reads. -/
def Obligations.ControlRegisterReads : Prop := ∀ (s : State) (d k : Nat),
  Gives s (.csrr d .st) [(d, s.cur.st.word)] ∧ Gives s (.csrr d .trapvec) [(d, s.cur.trapvec)]
  ∧ Gives s (.csrr d .epc) [(d, s.cur.epc)] ∧ Gives s (.csrr d .cause) [(d, s.cur.cause)]
  ∧ Gives s (.csrr d .tval) [(d, s.cur.tval)] ∧ Gives s (.csrr d .waitlim) [(d, s.cur.waitlim)]
  ∧ Gives s (.csrr d .viewlim) [(d, s.cur.viewlim)] ∧ Gives s (.csrr d .unack) [(d, BitVec.ofNat 64 s.cur.unack)]
  ∧ Gives s (.csrr d .dtsel) [(d, if s.cur.dtsel then 1 else 0)] ∧ Gives s (.csrr d .prio) [(d, BitVec.ofNat 64 s.cur.prio)]
  ∧ Gives s (.csrr d .ssplit) [(d, BitVec.ofNat 64 s.here.spad)] ∧ Gives s (.csrr d .vgroup) [(d, BitVec.ofNat 64 s.here.vgroup)]
  ∧ Gives s (.csrr d .msglim) [(d, BitVec.ofNat 64 s.here.msglim)] ∧ Gives s (.csrr d .cyc) [(d, BitVec.ofNat 64 s.here.cyc)]
  ∧ Gives s (.csrr d .ctxid) [(d, BitVec.ofNat 64 s.myCtx)]
  ∧ Gives s (.csrr d .thid) [(d, BitVec.ofNat 64 (64 * s.iss.core + s.iss.slot))]
  ∧ Gives s (.csrr d .wbase) [(d, BitVec.ofNat 64 (winOf s.iss.slot s.cur).1)]
  ∧ Gives s (.csrr d .wlim) [(d, BitVec.ofNat 64 (winOf s.iss.slot s.cur).2)]
  ∧ Gives s (.csrr d (.mb k)) [(d, 0)]

/-- R132 to R134, R189, R192 and R222: a write of a control register gives the old value and sets the fields that the issuer may write; a new
window takes effect after the bundle.
R132, R133, R189, R192 and R222: the table's rows for the effect of a write of a control register by the thread in issue. R133: a window of
another size than 8 to 128, or that overlaps the window of another live slot, traps with the value written, and nothing of it is performed.
R126, R222: a write of a mailbox waits while the mailbox is full or another thread's claim stands, and the write of mb3 while a store of the
thread is on its way; it takes the report of one that was refused (R109).
The model's choices here: log 28 (when a mailbox is claimed). -/
def Obligations.ControlRegisterWrites : Prop :=
  (∀ (s : State) (d a k : Nat),
  let mine := (s.here.claim = none ∨ s.here.claim = some (s.iss.slot, s.cur.uid)) ∧ s.cur.shadow = []
  let claimed := (s.modHere fun c => { c with claim := some (s.iss.slot, s.cur.uid), mbox := s.here.mbox }).modCur fun l => { l with shadow := [] }
  let write := fun (i : Csr → Instr) (v : Csr → Word) =>
    Does s (i .st) [(d, s.cur.st.word)]
      (fun l => if s.priv then { l with st := { Status.ofWord (v .st) with vw := l.st.vw } } else l) id id
    ∧ Does s (i .trapvec) [(d, s.cur.trapvec)] (fun l => { l with trapvec := v .trapvec &&& 0x7FF8 }) id id
    ∧ Does s (i .epc) [(d, s.cur.epc)] (fun l => { l with epc := v .epc &&& 0x7FFF }) id id
    ∧ Does s (i .cause) [(d, s.cur.cause)] (fun l => { l with cause := v .cause &&& 0xFFFF }) id id
    ∧ Does s (i .tval) [(d, s.cur.tval)] (fun l => { l with tval := v .tval }) id id
    ∧ Does s (i .waitlim) [(d, s.cur.waitlim)] (fun l => { l with waitlim := v .waitlim &&& 0xFFFFFFFF }) id id
    ∧ Does s (i .viewlim) [(d, s.cur.viewlim)] (fun l => { l with viewlim := v .viewlim &&& 0xFFFFFFFF }) id id
    ∧ Does s (i .dtsel) [(d, if s.cur.dtsel then 1 else 0)] (fun l => { l with dtsel := (v .dtsel).getLsbD 0 }) id id
    ∧ Does s (i .prio) [(d, BitVec.ofNat 64 s.cur.prio)] (fun l => { l with prio := (v .prio).toNat % 8 }) id id
    ∧ Does s (i .msglim) [(d, BitVec.ofNat 64 s.here.msglim)] id (fun c => { c with msglim := (v .msglim).toNat % 2 ^ 16 }) id
    ∧ (∀ r ∈ [Csr.unack, .ctxid, .thid, .cyc], Gives s (i r) [(d, csrGet s r)])
    ∧ (s.iss.slot = 62 ∨ s.iss.slot = 63 → Gives s (i .wbase) [(d, csrGet s .wbase)] ∧ Gives s (i .wlim) [(d, csrGet s .wlim)])
    ∧ (let n := (v .wbase).toNat % 2048
       s.iss.slot < 62 → s.iss.pair = false → windowBad s n s.cur.wlim = false →
       Ends s (i .wbase) (moveWindow (wx s d (csrGet s .wbase)) n s.cur.wlim))
    ∧ (let n := (v .wlim).toNat % 2048
       s.iss.slot < 62 → s.iss.pair = false → windowBad s s.cur.wbase n = false →
       Ends s (i .wlim) (moveWindow (wx s d (csrGet s .wlim)) s.cur.wbase n))
    ∧ (s.iss.slot < 62 → windowBad s ((v .wbase).toNat % 2048) s.cur.wlim = true → Traps s (i .wbase) cWINDOW 0 (v .wbase))
    ∧ (s.iss.slot < 62 → windowBad s s.cur.wbase ((v .wlim).toNat % 2048) = true → Traps s (i .wlim) cWINDOW 0 (v .wlim))
    ∧ (let u := wx s d (csrGet s .ssplit)
       let n := (v .ssplit).toNat % 32
       Ends s (i .ssplit) (if scratchHeld s s.iss.core = true ∨ 20 ≤ n then u else resplit u s.iss.core n))
    ∧ Ends s (i .vgroup) (setVgroup (wx s d (csrGet s .vgroup)) s.iss.core ((v .vgroup).toNat % 16))
    ∧ (mine → k < 3 → look s.here.mbox k = none →
       Does s (i (.mb k)) [(d, 0)] id (fun c => { c with claim := some (s.iss.slot, s.cur.uid), mbox := put c.mbox k (v (.mb k)) }) id)
    ∧ (mine → Drained s → look s.here.mbox 3 = none → (∀ j < 3, (look s.here.mbox j).isSome = true) →
       Does s (i (.mb 3)) [(d, 0)] id (fun c => { c with
         claim := some (s.iss.slot, s.cur.uid), mbox := put c.mbox 3 (v (.mb 3)), writer := some (s.iss.slot, s.cur.uid, s.myCtx, s.priv) }) id)
    ∧ (mine → look s.here.mbox 3 = none → (∃ j < 3, look s.here.mbox j = none) →
       Waits s (i (.mb 3)) (.retry (.trap cWAITLIMIT 2 3)) claimed)
    ∧ (mine → (look s.here.mbox k).isSome = true → Waits s (i (.mb k)) (.retry (.trap cWAITLIMIT 2 (BitVec.ofNat 64 k))) claimed)
    ∧ (∀ w, s.here.claim = some w → w ≠ (s.iss.slot, s.cur.uid) →
       Waits s (i (.mb k)) (.retry (.trap cWAITLIMIT 2 (BitVec.ofNat 64 k))) s)
    ∧ (mine → look s.here.mbox 3 = none → (∀ j < 3, (look s.here.mbox j).isSome = true) →
       (s.cur.unack ≠ 0 → Waits s (i (.mb 3)) (.retry .unbounded) claimed)
       ∧ (∀ f, s.cur.unack = 0 → s.cur.failed = some f → Runs s (i (.mb 3)) → exec (i (.mb 3)) s = .next
         ((takeTrap (claimed.modCur fun l => { l with failed := none }) s.iss.core s.iss.slot cWRITE 0 f.2 s.cur.pc).ended .trapped)))
  write (.csrw d · a) (fun _ => rx s a)
  ∧ write (.csrs d · a) (fun r => csrGet s r ||| rx s a)
  ∧ write (.csrc d · a) (fun r => csrGet s r &&& ~~~ rx s a))
  ∧ (∀ (s : State) (v k : Nat),
  let w := BitVec.ofNat 64 v
  s.cur.phase = .ready → v < 2 ^ 64 →
  (s.priv = true → exec (.stRegisterWrite v) s = .next (s.modCur fun l => { l with st := { Status.ofWord w with vw := l.st.vw } }))
  ∧ (s.priv = true → s.iss.slot < 62 → s.iss.pair = false → windowBad s (v % 2048) s.cur.wlim = false →
      exec (.windowWrite false v) s = .next (moveWindow s (v % 2048) s.cur.wlim))
  ∧ (s.priv = true → s.iss.slot < 62 → s.iss.pair = false → windowBad s s.cur.wbase (v % 2048) = false →
      exec (.windowWrite true v) s = .next (moveWindow s s.cur.wbase (v % 2048)))
  ∧ (s.priv = true → s.iss.slot < 62 → windowBad s (v % 2048) s.cur.wlim = true →
      exec (.windowWrite false v) s = .next ((takeTrap s s.iss.core s.iss.slot cWINDOW 0 w s.cur.pc).ended .trapped))
  ∧ (s.priv = true → s.iss.slot < 62 → windowBad s s.cur.wbase (v % 2048) = true →
      exec (.windowWrite true v) s = .next ((takeTrap s s.iss.core s.iss.slot cWINDOW 0 w s.cur.pc).ended .trapped))
  ∧ (s.priv = true → scratchHeld s s.iss.core = false → v % 32 < 20 → exec (.ssplitWrite v) s = .next (resplit s s.iss.core (v % 32)))
  ∧ (s.priv = true → exec (.vgroupWrite v) s = .next (setVgroup s s.iss.core (v % 16)))
  ∧ ((s.here.claim = none ∨ s.here.claim = some (s.iss.slot, s.cur.uid)) → s.cur.shadow = [] → k < 3 → look s.here.mbox k = none →
      ∃ u, exec (.mailboxWrite k v) s = .next u
        ∧ Changes s u (.mailboxWrite k v) [] id (fun c => { c with claim := some (s.iss.slot, s.cur.uid), mbox := put c.mbox k w }) id))

/-! Threads, groups, messages, lines, pages, full/empty words, barriers. -/

/-- R150, R152, R154, R157, R158: YIELD, EXIT, which takes the report of a refused store first (R109), the counters and their names. -/
def Obligations.ThreadsAndCounters : Prop := ∀ (s : State) (lv : Level) (d : Nat) (a : Src) (n : Nat),
  let r := counter s lv (rx s a.r)
  (s.iss.pair = false → Does s .yield [] (fun l => { l with yielded := some (s.here.issued, s.here.cyc) }) id id)
  ∧ (s.iss.pair = false → Drained s → Ends s .exit ((endThread s s.iss.core s.iss.slot false).ended .ended))
  ∧ (s.cur.unack ≠ 0 → Waits s .exit (.retry .unbounded) s)
  ∧ Reports s .exit
  ∧ Gives s (.cntrd lv d a) [(d, r)]
  ∧ (recOpen r = false ∨ s.cur.expired = true → Does s (.cntwait lv d a) [(d, r)] (fun l => { l with expired := false }) id id)
  ∧ (recOpen r = true → s.cur.expired = false → Waits s (.cntwait lv d a) (.retry (.returns 0)) s)
  ∧ (wbits r 63 61 = 7 → Gives s (.cancel lv d a) [(d, 1)])
  ∧ (wbits r 63 61 ≠ 7 → wbits r 63 61 ≠ 0 → Gives s (.cancel lv d a) [(d, 2)])
  ∧ (wbits r 63 61 = 0 → Ends s (.cancel lv d a) (cancelNamed (wx s d 0) lv (rx s a.r)))
  ∧ (s.cur.launch ≠ 0 → Gives s (.tid d 0) [(d, BitVec.ofNat 64 s.cur.index)])
  ∧ (∀ l, s.cur.launch ≠ 0 → look (s.ctx s.cur.ctx).launches s.cur.launch = some l → Gives s (.tid d 1) [(d, BitVec.ofNat 64 l.total)])
  ∧ (s.cur.launch ≠ 0 → Gives s (.tid d 2) [(d, BitVec.ofNat 64 s.cur.launch)])
  ∧ (∀ p, s.cur.launch ≠ 0 → phaseOf s s.cur = some p → Gives s (.tid d 3) [(d, BitVec.ofNat 64 p)])
  ∧ (∀ i, s.cur.item = some i → Gives s (.tid d 4) [(d, BitVec.ofNat 64 i.gen)])
  ∧ (s.cur.launch = 0 → s.cur.item = none → n ≤ 4 → Gives s (.tid d n) [(d, BitVec.allOnes 64)])

/-- R155, R156: LAUNCH reads its descriptor, and creates every thread of the launch or none, with a status that names the reason.
The model's choices here: log 59 (which free slots a launch takes). -/
def Obligations.Launches : Prop := ∀ (s : State) (d : Nat) (a b : Src) (desc : Desc) (cores : List Nat)
    (u : State),
  let st := launchStatus u u.myCtx desc cores
  let r := createLaunch u u.myCtx desc cores (phaseOf u u.cur) u.cur.prio (rx u b.r) none
  (Drained s → readDesc s (rx s a.r) = .ok (some (desc, cores), u) → st = 0 → Ends s (.launch d a b) (wx r.2 d (BitVec.ofNat 64 r.1)))
  ∧ (Drained s → readDesc s (rx s a.r) = .ok (some (desc, cores), u) → st ≠ 0 →
      Ends s (.launch d a b) (wx u d (BitVec.ofNat 64 (2 ^ 63 + st))))
  ∧ (Drained s → readDesc s (rx s a.r) = .ok (none, u) → Ends s (.launch d a b) (wx u d (BitVec.ofNat 64 (2 ^ 63 + 1))))

/-- R143, R144: TSAVE stores the image of a stopped slot and, once its stores are performed, frees it; TLOAD restores a thread from an image; a
status names what stands against it, and then nothing changes.
The model's choices here: log 23 (image fields, the order of the statuses, the status of more than four streams, and the trapvec of a
restored thread). -/
def Obligations.SaveAndRestore : Prop := ∀ (s : State) (d : Nat) (a b : Src) (u v : State) (h rest : List Byte)
    (descs : List (List Byte)) (ms : List Stream),
  let c := s.iss.core
  let t := (rx s b.r).toNat % 64
  let va := rx s a.r
  let image := parseImage h rest
  let saved := u.modCur fun l => { l with part := [0] }
  s.iss.slot = 63 → va.toNat % 128 = 0 →
  (62 ≤ t → Gives s (.tsave d a b) [(d, 2)] ∧ Gives s (.tload d a b) [(d, 2)])
  ∧ (t < 62 → (s.slot c t).phase ≠ .stopped → Gives s (.tsave d a b) [(d, 1)])
  ∧ (t < 62 → (s.slot c t).phase = .stopped → s.cur.part = [] → storeRange s va (imageOf s c t) = .ok u → u.cur.unack = 0 →
      Ends s (.tsave d a b) (wx (freeSaved (gathered saved) c t) d 0))
  ∧ (t < 62 → (s.slot c t).phase = .stopped → s.cur.part = [] → storeRange s va (imageOf s c t) = .ok u → saved.cur.unack ≠ 0 →
      Waits s (.tsave d a b) (.retry .unbounded) saved)
  ∧ (t < 62 → readRange s va 256 forLoad = .ok (h, u) → headStatus u c t h ≠ 0 →
      Ends s (.tload d a b) (wx u d (BitVec.ofNat 64 (headStatus u c t h))))
  ∧ (t < 62 → readRange s va 256 forLoad = .ok (h, u) → headStatus u c t h = 0 →
      readRange u (va + 256) (imageRest h) forLoad = .ok (rest, v) → loadStatus v c image ≠ 0 →
      Ends s (.tload d a b) (wx v d (BitVec.ofNat 64 (loadStatus v c image))))
  ∧ (∀ w, t < 62 → readRange s va 256 forLoad = .ok (h, u) → headStatus u c t h = 0 →
      readRange u (va + 256) (imageRest h) forLoad = .ok (rest, v) → loadStatus v c image = 0 →
      readRanges v (image.streams.map fun r => (r.1, 32)) = .ok (descs, w) →
      (rebind image w.env.fresh descs = none → Ends s (.tload d a b) (wx w d 3))
      ∧ (rebind image w.env.fresh descs = some ms → Ends s (.tload d a b) (wx (loadThread w c t image ms) d 0)))

/-- R164, R167, R169: the code store's instructions and the messages.
The model's choices here: log 27 (when a message counts in unack). -/
def Obligations.FetchAndMessages : Prop := ∀ (s : State) (d b n slot : Nat) (a : Src) (m : Msg),
  let va := rx s a.r
  let note : Msg := { slot := slot, words := (List.range n).map (fun i => rx s (b + i)), ctx := s.myCtx, srcCore := s.iss.core
                      srcSlot := s.iss.slot, srcUid := s.cur.uid, counted := va.toNat != s.iss.core, kind := .plain, seq := s.env.fresh }
  (mayFetch s n = true → va.toNat < 2 ^ 57 → va.toNat % 4096 = 0 →
    Does s (.ofetch n a) [] id (fun k => { k with segs := put k.segs n { s.here.seg n with
      st := .fetching, image := va.toNat, priv := s.priv, token := none, ctx := s.myCtx, byUid := s.cur.uid } }) id)
  ∧ (mayFetch s n = false → Traps s (.ofetch n a) cOVERLAY 0 (BitVec.ofNat 64 (4096 * n)))
  ∧ Gives s (.ostat d n) [(d, match (s.here.seg n).st with
      | .fetching => 0 | .landed => 1 | .failed cause => BitVec.ofNat 64 (cause % 256 * 256 + 2) | .empty => 3)]
  ∧ (va.toNat < 8192 → b + n ≤ s.size → 0 < n → Drained s → va.toNat ≠ s.iss.core → pathBusy s s.iss.core va.toNat = true →
      Waits s (.send a b n slot) (.retry .unbounded) s)
  ∧ (va.toNat < 8192 → b + n ≤ s.size → 0 < n → Drained s → va.toNat ≠ s.iss.core → pathBusy s s.iss.core va.toNat = false →
      Ends s (.send a b n slot) (countStore (arrive s.tick.2 va.toNat note)))
  ∧ (va.toNat < 8192 → b + n ≤ s.size → 0 < n → Drained s → va.toNat = s.iss.core → s.here.station = [] → queueUsed s.here < 32 →
      refuses s va.toNat note = false → Does s (.send a b n slot) [] id (fun k => { k with queue := k.queue ++ [note] }) id)
  ∧ (messageReady s = true → Gives s .wmsg [])
  ∧ (messageReady s = false → Waits s .wmsg (.retry .unbounded) s)
  ∧ (s.cur.msg = some m → m.words ≠ [] → Ends s (.pmsg d) (takeWord s d m))
  ∧ ((∀ c, s.cur.msg = some c → c.words = []) → s.here.queue.find? (takes s.iss.slot s.cur.uid) = some m →
      Ends s (.pmsg d) (takeWord (s.modHere fun k => { k with queue := dropFirst (· == m) k.queue }) d m))
  ∧ Gives s (.mstat d) [(d, BitVec.ofNat 64 ((32 - queueUsed s.here) * 2 ^ 10
      + (s.here.queue.filter (·.slot == s.iss.slot)).length % 64 * 2 ^ 4 + ((s.cur.msg.map (·.words.length)).getD 0) % 16))]

/-- R200, R201: the line instructions on a range within its limits, and their status for one that is not.
R195: WBACK and LCLR wait behind the requests that have come to a line's home before them.
R188: the pager's instructions, each after the thread's stores are acknowledged; an invalidation waits for every access that uses an entry
that it drops. A poisoned entry of the tables is no data (R2): PGHARV, PGINV.revive and PGQRY trap POISON with its self-map address (log 19).
The model's choices here: log 18 (what lost words hold and which pages are passed over); log 19 (dirty and dead bits on the whole span group,
the order of a harvest over the slices, and the trap at a poisoned entry). -/
def Obligations.LinesAndPages : Prop :=
  (∀ (s : State) (d : Nat) (a b : Src),
  let va := rx s a.r
  let len := rx s b.r
  let hi := va.toNat + len.toNat
  let r := lineRange va len
  let pages := leaves s s.myCtx va.toNat hi
  let lines := leaves s s.myCtx r.1 r.2
  let stale := staleRange s s.myCtx va.toNat hi
  (badRange va len false = true → Gives s (.wback d a b) [(d, 1)] ∧ Gives s (.linv d a b) [(d, 1)] ∧ Gives s (.lclr d a b) [(d, 1)])
  ∧ (badRange va len true = true → Gives s (.discard d a b) [(d, 1)])
  ∧ (badRange va len false = false → linesBehind s s.iss.core s.myCtx r.1 r.2 = true →
      Waits s (.wback d a b) (.retry .unbounded) s ∧ Waits s (.lclr d a b) (.retry .unbounded) s)
  ∧ (badRange va len false = false → Ends s (.linv d a b) (wx (dropCopies s s.iss.core s.myCtx r.1 r.2) d 0))
  ∧ (badRange va len false = false → linesBehind s s.iss.core s.myCtx r.1 r.2 = false →
      Ends s (.wback d a b) (wx (writeBack s s.myCtx r.1 r.2) d 0)
      ∧ Ends s (.lclr d a b) (wx ((lines.filter fun p => !eCg p.2.2.2).foldl (clearPoison s.myCtx r.1 r.2) s) d
          (if lines.any (fun p => eCg p.2.2.2) then 3 else 0)))
  ∧ (badRange va len true = false → len = 0 → Gives s (.discard d a b) [(d, 0)])
  ∧ (badRange va len true = false → len ≠ 0 → partlyCovered va.toNat hi pages = true → Gives s (.discard d a b) [(d, 2)])
  ∧ (badRange va len true = false → len ≠ 0 → partlyCovered va.toNat hi pages = false → Drained s →
      entryInUse s s.myCtx stale.1 stale.2 = false → Ends s (.discard d a b) (wx (discardPages s s.myCtx pages) d 0))
  ∧ (badRange va len true = false → len ≠ 0 → partlyCovered va.toNat hi pages = false → Drained s →
      entryInUse s s.myCtx stale.1 stale.2 = true → Waits s (.discard d a b) (.retry .unbounded) s))
  ∧ (∀ (s : State) (d c lvl pb key first n : Nat) (a : Src) (e : Word) (f : FaultRec),
  let x := s.myCtx
  let va := rx s a.r
  let h := s.cur.part.length
  let leaf := if s.cur.leaf.isSome then s.cur.leaf else harvestLeaf s x va
  let sound := s.cur.leaf.isSome = true ∨ walkLost s x va = none
  let hit := fun (w : Nat × Nat × Nat) => bitOf x va.toNat pb w && (s.env.prompt || w.1 == h)
  let part := s.cur.part ++ [if s.written.any hit then 1 else 0]
  let clean := { s with written := s.written.filter fun w => !hit w }
  let dirty := (n != 0 && eDirty (wd (s.num key 8))) || part.contains 1
  let page := pageRange s x va
  let stale := staleRange s x page.1 page.2
  let whole := staleRange s x 0 (2 ^ 57)
  Drained s →
  (s.cur.leaf = none → (harvestLeaf s x va = none ↔ leafOf s x va = none))
  ∧ (s.cur.leaf = none → selfMapped va.toNat = false → leafOf s x va = some (lvl, pb, e) →
      harvestLeaf s x va = some (leafKeyFrom s va.toNat 4 (rootKey (s.ctx x)), (groupOf s x va.toNat lvl pb).1, (groupOf s x va.toNat lvl pb).2, pb))
  ∧ (leaf = none → sound → Gives s (.pgharv d a) [(d, 2)] ∧ Gives s (.pgharvClr d a) [(d, 2)])
  ∧ (leaf = some (key, first, n, pb) → sound → groupLost s va.toNat key first n pb = none → (s.env.prompt = true ∨ 511 ≤ h) →
      Ends s (.pgharv d a) (wx (setEntryBit (gathered clean) first n 9 dirty) d (if dirty then 1 else 0))
      ∧ Ends s (.pgharvClr d a) (wx (setEntryBit (gathered clean) first n 9 false) d (if dirty then 1 else 0)))
  ∧ (leaf = some (key, first, n, pb) → sound → s.env.prompt = false → h < 511 →
      Waits s (.pgharv d a) (.retry .unbounded) (clean.modCur fun l => { l with part := part, leaf := leaf }))
  ∧ (∀ p, leaf = some (key, first, n, pb) → sound → groupLost s va.toNat key first n pb = some p → (s.env.prompt = true ∨ 511 ≤ h) →
      Runs s (.pgharv d a) → exec (.pgharv d a) s = .next
        ((takeTrap (if part.contains 1 = true then setWritten clean 511 x va.toNat else clean) s.iss.core s.iss.slot cPOISON 0 p s.cur.pc).ended .trapped))
  ∧ (∀ p, walkLost s x va = some p →
      (s.cur.leaf = none → Traps s (.pgharv d a) cPOISON 0 p ∧ Traps s (.pgharvClr d a) cPOISON 0 p)
      ∧ (entryInUse s x stale.1 stale.2 = false → Traps s (.pginvRevive d a) cPOISON 0 p) ∧ Traps s (.pgqry d a) cPOISON 0 p)
  ∧ (entryInUse s x stale.1 stale.2 = false → Ends s (.pginvPage d a) (wx (invalidatePage s x va) d 0))
  ∧ (entryInUse s x stale.1 stale.2 = true → Waits s (.pginvPage d a) (.retry .unbounded) s)
  ∧ (entryInUse s x whole.1 whole.2 = false → Ends s (.pginvCtx d) (wx (invalidatePages s x 0 (2 ^ 57)) d 0))
  ∧ (entryInUse s x stale.1 stale.2 = false → walkLost s x va = none → leafOf s x va = some (lvl, pb, e) → eDead e = true →
      Ends s (.pginvRevive d a) (wx (invalidatePage (setLeafBit
        (reviveFrame s x (va.toNat / 2 ^ pb * 2 ^ pb) pb (memKey (eTier e) (eFrame e * 4096))) x va.toNat lvl pb 8 false) x va) d 0))
  ∧ (entryInUse s x stale.1 stale.2 = false → walkLost s x va = none → (leafOf s x va = none ∨ (leafOf s x va = some (lvl, pb, e) ∧ eDead e = false)) →
      Gives s (.pginvRevive d a) [(d, 3)])
  ∧ (recordOf s x va = none → Gives s (.pgwake d a) [(d, 1)] ∧ Gives s (.pgwakeFatal d a c) [(d, 1)])
  ∧ (recordOf s x va = some f → Ends s (.pgwake d a) (wx (closeRecord s f none) d 0)
      ∧ Ends s (.pgwakeFatal d a c) (wx (closeRecord s f (some c)) d 0))
  ∧ (walkLost s x va = none → Gives s (.pgqry d a) [(d, queryWord s x va)]))

/-- R202 to R208: the full/empty instructions at a word whose tag and value are at its home, and where they wait; a word registered by a writer
is recalled first. A word of memory without tags traps FETAG, and a full word that LDFE or LDF would read traps POISON where it is poisoned
(R199).
R204, R208: STFE writes an empty word and sets it full, and waits at a full one; a thread that waited ends its instruction with the value of
the reply.
The model's choices here: log 21 (the order of the checks). -/
def Obligations.FullEmptyWords : Prop :=
  (∀ (s : State) (d : Nat) (a b : Src) (off : Int) (p : Place),
  let va := rx s a.r + BitVec.ofInt 64 (off * 8)
  let at_ := fun (g : Rights) => va.toNat % 8 = 0 ∧ heldBack s va 8 { g with a := true } = false
    ∧ locate s s.myCtx s.priv va 8 g = .ok p ∧ p.tagged = true
  let bare := fun (g : Rights) => va.toNat % 8 = 0 ∧ heldBack s va 8 { g with a := true } = false
    ∧ locate s s.myCtx s.priv va 8 g = .ok p ∧ p.tagged = false
  let u := reached s va 8 p
  let line := lineId u.myCtx va p.key
  let full := u.isFull p.key && !p.dead
  let value := BitVec.ofNat 64 (u.num p.key 8)
  let home := recalled u u.myCtx va 8
  let written := storeAt (touchHome u u.iss.core u.myCtx va.toNat 8 p) p.key (toBytes 8 (rx s b.r).toNat)
  let waiter := fun (op : HomeOp) => (⟨u.iss.core, u.iss.slot, u.cur.uid, u.myCtx, u.priv, va, p.key, p.home, p.dead, op, false, none⟩ : Waiter)
  (va.toNat % 8 ≠ 0 → Traps s (.festat d a off) cALIGN 0 va)
  ∧ (at_ forTagTake → s.cur.reply = none → full = true → u.isPoison p.key = false →
      Ends s (.ldfe d a off) (wx (serve line (home.setTag p.key false)) d value))
  ∧ (at_ forTagTake → s.cur.reply = none → full = false →
      Waits s (.ldfe d a off) (.home (waiter .ldfe).line (.trap cWAITLIMIT 0 va)) (enqueue u (waiter .ldfe)))
  ∧ (at_ forLoad → s.cur.reply = none → full = true → u.isPoison p.key = false → Ends s (.ldf d a off) (wx home d value))
  ∧ (at_ forLoad → s.cur.reply = none → full = false →
      Waits s (.ldf d a off) (.home (waiter .ldf).line (.trap cWAITLIMIT 0 va)) (enqueue u (waiter .ldf)))
  ∧ (at_ forTagWrite → Drained s → Ends s (.stf a b off) (retag u.myCtx va p.key true written))
  ∧ (at_ forTagTake → p.dead = false →
      Ends s (.feclr d a off) (wx (retag u.myCtx va p.key false u) d (if u.isFull p.key then 1 else 0)))
  ∧ (at_ forTagTake → p.dead = true → Ends s (.feclr d a off) (wx u d 0))
  ∧ (at_ forLoad → Ends s (.festat d a off) (wx u d (if s.isFull p.key && !p.dead then 1 else 0)))
  ∧ (at_ forTagTake → s.cur.reply = none → full = true → u.isPoison p.key = true → Traps s (.ldfe d a off) cPOISON 0 va)
  ∧ (at_ forLoad → s.cur.reply = none → full = true → u.isPoison p.key = true → Traps s (.ldf d a off) cPOISON 0 va)
  ∧ (bare forTagTake → (s.cur.reply = none → Traps s (.ldfe d a off) cFETAG 0 va) ∧ Traps s (.feclr d a off) cFETAG 0 va)
  ∧ (bare forLoad → (s.cur.reply = none → Traps s (.ldf d a off) cFETAG 0 va) ∧ Traps s (.festat d a off) cFETAG 0 va)
  ∧ (bare forTagWrite → (s.cur.reply = none → Traps s (.stfe a b off) cFETAG 0 va) ∧ Traps s (.stf a b off) cFETAG 0 va)
  ∧ (at_ forTagWrite → s.cur.unack ≠ 0 → (s.cur.reply = none → Waits s (.stfe a b off) (.retry .unbounded) s)
      ∧ Waits s (.stf a b off) (.retry .unbounded) s)
  ∧ (at_ forTagWrite → (s.cur.reply = none → Reports s (.stfe a b off)) ∧ Reports s (.stf a b off)))
  ∧ (∀ (s : State) (d : Nat) (a b : Src) (off : Int) (p : Place) (bs : List Byte),
  let va := rx s a.r + BitVec.ofInt 64 (off * 8)
  let u := reached s va 8 p
  let w : Waiter := ⟨u.iss.core, u.iss.slot, u.cur.uid, u.myCtx, u.priv, va, p.key, p.home, p.dead, .stfe (rx s b.r), false, none⟩
  let at_ := va.toNat % 8 = 0 ∧ heldBack s va 8 { forTagWrite with a := true } = false ∧ locate s s.myCtx s.priv va 8 forTagWrite = .ok p
    ∧ p.tagged = true ∧ Drained s ∧ s.cur.reply = none
  let v := BitVec.ofNat 64 (ofBytes bs)
  (at_ → (u.isFull p.key && !p.dead) = false →
    Ends s (.stfe a b off) (serve w.line ((storeAt (touchHome u w.core w.ctx va.toNat 8 w.place) p.key (toBytes 8 (rx s b.r).toNat)).setTag p.key true)))
  ∧ (at_ → (u.isFull p.key && !p.dead) = true → Waits s (.stfe a b off) (.home w.line (.trap cWAITLIMIT 0 va)) (enqueue u w))
  ∧ (s.cur.reply = some bs →
      Does s (.stfe a b off) [] (fun l => { l with reply := none }) id id
      ∧ Does s (.ldfe d a off) [(d, v)] (fun l => { l with reply := none }) id id
      ∧ Does s (.ldf d a off) [(d, v)] (fun l => { l with reply := none }) id id
      ∧ Does s (.bwait d a b) [(d, v)] (fun l => { l with reply := none }) id id
      ∧ Does s (.bcpl d a) [(d, v)] (fun l => { l with reply := none }) id id))

/-- R209 to R214: the barrier instructions: their results, where BWAIT and BCPL wait (the arrival of a BCPL stands), and where a poisoned word of
the barrier (R199) or memory without tags stops them.
The model's choices here: log 21 (the order of the checks). -/
def Obligations.Barriers : Prop := ∀ (s : State) (d n : Nat) (a b : Src) (p : Place) (q : Bar),
  let va := rx s a.r
  let v := rx s b.r
  let ready := fun (g : Rights) => va.toNat % 32 = 0 ∧ heldBack s va 32 { g with a := true } = false
    ∧ locate s s.myCtx s.priv va 32 g = .ok p ∧ p.tagged = true
  let bare := fun (g : Rights) => va.toNat % 32 = 0 ∧ heldBack s va 32 { g with a := true } = false
    ∧ locate s s.myCtx s.priv va 32 g = .ok p ∧ p.tagged = false
  let sound := poisonedAt s p va 32 = none
  let waiter := fun (t : State) (op : HomeOp) =>
    (⟨t.iss.core, t.iss.slot, t.cur.uid, t.myCtx, t.priv, va, p.key, p.home, p.dead, op, false, none⟩ : Waiter)
  let u := reached s va 32 p
  let taken := putBar u u.iss.core u.myCtx va p (completePhase { q with arr := q.arr - 1 })
  let status := fun (n : Nat) => BitVec.ofNat 64 (2 ^ 63 + n)
  (ready forBarrier → Drained s → v.toNat = n → 0 < n → n < 2 ^ 24 → barWaiter u p = false →
      Ends s (.binit d a b) (wx (putBar u u.iss.core u.myCtx va p ⟨n, n, 0, 0⟩) d 0))
  ∧ (ready forBarrier → Drained s → (v = 0 ∨ 2 ^ 24 ≤ v.toNat) → Ends s (.binit d a b) (wx u d (status 1)))
  ∧ (ready forBarrier → Drained s → 0 < v.toNat → v.toNat < 2 ^ 24 → barWaiter u p = true → Ends s (.binit d a b) (wx u d (status 2)))
  ∧ (ready forBarrier → sound → Drained s → barAt u p = some q → q.arr ≠ 0 → Ends s (.barv d a) (wx taken d (BitVec.ofNat 64 q.count)))
  ∧ (ready forBarrier → sound → Drained s → barAt u p = some q → q.arr = 0 → Ends s (.barv d a) (wx u d (status 3)))
  ∧ (ready forBarrier → sound → Drained s → barAt u p = none → Ends s (.barv d a) (wx u d (status 5)))
  ∧ (ready forBarrier → sound → barAt s p = some q → -(2 ^ 55 : Int) ≤ q.bytes + v.toInt → q.bytes + v.toInt < 2 ^ 55 →
      -(2 ^ 55 : Int) ≤ v.toInt → v.toInt < 2 ^ 55 →
      Ends s (.bexp d a b) (wx (putBar u u.iss.core u.myCtx va p (completePhase { q with bytes := q.bytes + v.toInt })) d 0))
  ∧ (ready forLoad → sound → s.cur.reply = none → barAt s p = none → Ends s (.bwait d a b) (wx u d (status 5)))
  ∧ (ready forLoad → sound → s.cur.reply = none → p.dead = false → barAt s p = some q → barAt u p = some q → q.passed v = true →
      Ends s (.bwait d a b) (wx (recalled u u.myCtx va 32) d (BitVec.ofNat 64 q.count)))
  ∧ (ready forLoad → sound → barAt s p = some q → Ends s (.btest d a b) (wx u d (if q.passed v then 1 else 0)))
  ∧ (ready forBarrier → sound → Drained s → s.cur.reply = none → barAt u p = none → Ends s (.bcpl d a) (wx u d (status 5)))
  ∧ (ready forBarrier → sound → Drained s → s.cur.reply = none → p.dead = false → barAt u p = some q → q.arr ≠ 0 →
      ∀ q2, parseBar (taken.bytes p.key 32) = some q2 → q2.passed (BitVec.ofNat 64 q.count) = true →
      Ends s (.bcpl d a) (wx (recalled taken taken.myCtx va 32) d (BitVec.ofNat 64 q2.count)))
  ∧ (ready forLoad → sound → s.cur.reply = none → p.dead = false → barAt s p = some q → barAt u p = some q → q.passed v = false →
      Waits s (.bwait d a b) (.home (waiter u (.bwait v)).line (.trap cWAITLIMIT 3 va)) (enqueue u (waiter u (.bwait v))))
  ∧ (ready forBarrier → sound → Drained s → s.cur.reply = none → p.dead = false → barAt u p = some q → q.arr ≠ 0 →
      (∀ q2, parseBar (taken.bytes p.key 32) = some q2 → q2.passed (BitVec.ofNat 64 q.count) = false) →
      Waits s (.bcpl d a) (.home (waiter taken (.bcpl (BitVec.ofNat 64 q.count))).line (.arrived (BitVec.ofNat 64 q.count + 0x4000000000000000)))
        (enqueue taken (waiter taken (.bcpl (BitVec.ofNat 64 q.count)))))
  ∧ (∀ x, poisonedAt s p va 32 = some x →
      (ready forBarrier → Traps s (.barv d a) cPOISON 0 x ∧ Traps s (.bexp d a b) cPOISON 0 x
        ∧ (s.cur.reply = none → Traps s (.bcpl d a) cPOISON 0 x))
      ∧ (ready forLoad → Traps s (.btest d a b) cPOISON 0 x ∧ (s.cur.reply = none → Traps s (.bwait d a b) cPOISON 0 x)))
  ∧ (bare forBarrier → Traps s (.binit d a b) cFETAG 0 va ∧ Traps s (.barv d a) cFETAG 0 va ∧ Traps s (.bexp d a b) cFETAG 0 va
      ∧ (s.cur.reply = none → Traps s (.bcpl d a) cFETAG 0 va))
  ∧ (bare forLoad → Traps s (.btest d a b) cFETAG 0 va ∧ (s.cur.reply = none → Traps s (.bwait d a b) cFETAG 0 va))
  ∧ (ready forBarrier → (poisonedAt s p va 32 = none → Reports s (.barv d a) ∧ (s.cur.reply = none → Reports s (.bcpl d a)))
      ∧ Reports s (.binit d a b))

/-- R210, R211: the phase rule, and the phases that have passed a token: the next half of the circle of counts. -/
def Obligations.BarrierPhases : Prop := ∀ (b : Bar) (t : Word),
  ((b.arr = 0 ∧ b.bytes = 0) → completePhase b = { b with count := (b.count + 1) % 2 ^ 62, arr := b.exp })
  ∧ (¬ (b.arr = 0 ∧ b.bytes = 0) → completePhase b = b)
  ∧ (b.count < 2 ^ 62 → t.toNat < 2 ^ 62 →
      (b.passed t = true ↔ ∃ k, 1 ≤ k ∧ k < 2 ^ 61 ∧ b.count = (t.toNat + k) % 2 ^ 62))
  ∧ (b.exp < 2 ^ 24 → b.arr ≤ b.exp → 0 < b.exp → -(2 ^ 55 : Int) ≤ b.bytes → b.bytes < 2 ^ 55 → b.count < 2 ^ 62 →
      parseBar (barBytes b) = some b)

/-! Streams, the transfer thread's instructions, the matrix unit. -/

/-- R227, R230, R232, R237: the streams' instructions, XWPT and the subscriptions.
The model's choices here: log 22 (a count or skip above what remains). -/
def Obligations.StreamsAndSubscriptions : Prop := ∀ (s : State) (d x n ch : Nat) (a b : Src) (off : Int) (bs : List Byte) (m : Stream)
    (q : Match),
  let va := rx s a.r + BitVec.ofInt 64 (off * 32)
  let tag := (rx s a.r).toNat
  let at_ := (rx s b.r).toNat
  let traps := fun (u : State) (info : Nat) (tval : Word) => Runs s (.sbind x a off) →
    exec (.sbind x a off) s = .next ((takeTrap u s.iss.core s.iss.slot cSTREAM info tval s.cur.pc).ended .trapped)
  (∀ u, va.toNat % 32 = 0 → readRange s va 32 forLoad = .ok (bs, u) → u.cur.stream x = none → u.cur.streams.length < 4 →
    (parseStream x u.env.fresh va.toNat bs = some m →
      Ends s (.sbind x a off) (u.tick.2.modCur fun l => { l with streams := l.streams ++ [m] }))
    ∧ (parseStream x u.env.fresh va.toNat bs = none → traps u 2 va))
  ∧ (∀ u, va.toNat % 32 = 0 → readRange s va 32 forLoad = .ok (bs, u) → ((u.cur.stream x).isSome = true ∨ 4 ≤ u.cur.streams.length) →
      traps u 1 (BitVec.ofNat 64 x))
  ∧ Does s (.sunb x) [] (fun l => { l with streams := l.streams.filter fun t => t.reg != x }) id id
  ∧ (s.cur.stream x = some m →
      Does s (.scfgCount d x b) [(d, BitVec.ofNat 64 (m.count - m.nxt))]
        (·.modStream x fun t => { t with count := t.nxt + (rx s b.r).toNat }) id id
      ∧ Does s (.scfgSkip d x b) [(d, BitVec.ofNat 64 (m.count - m.nxt))]
        (·.modStream x fun t => { t with nxt := min (t.nxt + (rx s b.r).toNat) (max t.nxt t.count) }) id id
      ∧ Gives s (.sstat d x) [(d, BitVec.ofNat 64 (m.code * 2 ^ 61 + (m.count - m.nxt) % 2 ^ 40))])
  ∧ (s.cur.stream x = none → Gives s (.scfgCount d x b) [(d, BitVec.allOnes 64)] ∧ Gives s (.scfgSkip d x b) [(d, BitVec.allOnes 64)]
      ∧ Gives s (.sstat d x) [(d, 0)])
  ∧ Gives s (.xwpt d n) [(d, BitVec.ofNat 64 ((s.here.chan n).st * 2 ^ 60 + (s.here.chan n).ptr % 2 ^ 40))]
  ∧ (tag < 2 ^ 16 → at_ < 2 ^ 20 → s.here.matches_.length < 16 → (∀ k ∈ s.here.matches_, k.tag ≠ tag ∧ k.ch ≠ ch) →
      (s.here.chan ch).who = none →
      Does s (.xsubs d a b ch) [(d, 0)] id (fun k => { k with
        matches_ := k.matches_ ++ [{ ctx := s.myCtx, tag := tag, off := at_, ch := ch }], chans := put k.chans ch { st := 8 } }) id)
  ∧ (2 ^ 16 ≤ tag → Gives s (.xsubs d a b ch) [(d, 1)] ∧ Gives s (.xunsub d a) [(d, 1)])
  ∧ (tag < 2 ^ 16 → s.here.matches_.find? (fun k => k.tag == tag) = some q →
      Does s (.xunsub d a) [(d, 0)] id (fun k => { k with
        matches_ := k.matches_.filter fun k => k.tag != tag, chans := put k.chans q.ch { s.here.chan q.ch with st := 9 } }) id)
  ∧ (tag < 2 ^ 16 → s.here.matches_.find? (fun k => k.tag == tag) = none → Gives s (.xunsub d a) [(d, 6)])

/-- R238 to R242 and R255 to R257: shapes, masks, and the moves of accumulators; an element that its mask excludes keeps its value.
R241: a masked update sets the elements that both mask bits allow, and no other; shape and live bit stay.
The model's choices here: log 14 (the rows of one move are one step). -/
def Obligations.Accumulators : Prop :=
  (∀ (s : State) (d n m : Nat) (sh : Shape) (a b : Src) (bs : List Byte),
  let c := accOfCur s n
  let set := fun (v : Acc) (k : Core) => { k with accs := put k.accs (accNo s.cur n) v }
  let mask := maskPair s.cur n
  let z := elBytes (shapeCode sh)
  let dim := accDim (shapeCode sh)
  let old : Acc := if c.shape = shapeCode sh then c else { shape := shapeCode sh }
  Does s (.mshape n sh) [] id (set { shape := shapeCode sh }) id
  ∧ Does s (.mskr m a) [] (fun l => { l with masks := put l.masks m { lookD l.masks m ⟨-1, -1⟩ with rows := (rx s a.r).setWidth 16 } }) id id
  ∧ Does s (.mskc m a) [] (fun l => { l with masks := put l.masks m { lookD l.masks m ⟨-1, -1⟩ with cols := (rx s a.r).setWidth 16 } }) id id
  ∧ (c.shape = 3 → Gives s (.accmv d n b) ((List.range 8).map fun j => (8 * d + j, c.at ((rx s b.r).toNat % 8) j)))
  ∧ (c.shape = 1 ∨ c.shape = 2 →
      Gives s (.accmv d n b) (vecWrites d ((List.range 16).map fun j => (c.at ((rx s b.r).toNat % 16) j).setWidth 32)))
  ∧ (c.shape = 0 → Gives s (.accmv d n b) (vecWrites d ((List.range 16).map fun _ => 0)) ∧ Gives s (.accz n) [])
  ∧ (c.shape ≠ 0 → Does s (.accz n) [] id
      (set { c.update mask (fun _ _ => 0) with live := c.live && !fullMask mask (accDim c.shape) }) id)
  ∧ (∀ u, (rx s a.r).toNat % 64 = 0 →
      gatherLoads s 64 ((List.range (dim * dim * z / 64)).map fun i => rx s a.r + BitVec.ofNat 64 (64 * i)) = .ok (bs, u) →
      Ends s (.accld n sh a) (setAcc (gathered u) s.iss.core (accNo s.cur n)
        { old.update mask (fun i j => BitVec.ofNat 64 (ofBytes ((bs.drop (z * (dim * i + j))).take z))) with live := true }))
  ∧ (∀ u, (rx s a.r).toNat % 64 = 0 → storeRows s (accStores c mask (rx s a.r)) = .ok u → Ends s (.accst n a) u)
  ∧ (c.shape = 0 → s.cur.part = [] → (rx s a.r).toNat % 64 = 0 → Gives s (.accst n a) [])
  ∧ ((rx s a.r).toNat % 64 ≠ 0 → Traps s (.accld n sh a) cALIGN 0 (rx s a.r) ∧ Traps s (.accst n a) cALIGN 0 (rx s a.r)))
  ∧ (∀ (a : Acc) (m : MaskPair) (f : Nat → Nat → Word) (i j : Nat),
  i < accDim a.shape → j < accDim a.shape →
  (a.update m f).at i j = (if unmasked m i j then f i j else a.at i j)
    ∧ (a.update m f).shape = a.shape ∧ (a.update m f).live = a.live)

/-- R243 to R249: rings are configured, read, popped and filled; an operation that names a ring holds them back. RCFG reads its descriptor once,
and TLDT keeps the shape that it found first: where the ring has another one at the end, it traps.
The model's choices here: log 14 (the loads of a tile are one step); log 25 (a ring that is unset has no slot to wait for). -/
def Obligations.Rings : Prop := ∀ (s : State) (d q : Nat) (a b : Src) (off : Int) (bs : List Byte) (r : Ring),
  let va := rx s a.r + BitVec.ofInt 64 (off * 16)
  let n := (rx s b.r).toNat
  let set := fun (r : Ring) (k : Core) => { k with rings := put k.rings q r }
  let idle := ringBusy s.here q = false
  let e := ringBytes r.fmt
  let begun := fun (z : Nat × Nat × Nat) => s.modCur fun l => { l with tile := some z }
  (∀ u : State, va.toNat % 16 = 0 →
    (s.cur.part.length = 16 ∧ bs = s.cur.part ∧ u = s) ∨ (s.cur.part = [] ∧ readRange s va 16 forLoad = .ok (bs, u)) →
    (let scr := ringScr u u.iss.core u.iss.slot
     (scr ≠ 0 → parseRing scr bs = some r → ringBusy u.here q = false → Ends s (.rcfg q a off) (setRing u u.iss.core q r))
     ∧ (scr ≠ 0 → parseRing scr bs = some r → ringBusy u.here q = true →
       Waits s (.rcfg q a off) (.retry .unbounded) (u.modCur fun l => { l with part := bs }))
     ∧ (scr = 0 ∨ parseRing scr bs = none → Runs s (.rcfg q a off) → exec (.rcfg q a off) s = .next
       ((takeTrap u s.iss.core s.iss.slot cRING 5 (BitVec.ofNat 64 q) s.cur.pc).ended .trapped))))
  ∧ (idle → ringOfCur s q = none → Gives s (.rstat d q) [(d, 0)] ∧ Gives s (.rpopHead d q b) [(d, BitVec.ofNat 64 (2 ^ 63 + 1))]
      ∧ (s.cur.unack = 0 → Gives s (.rpopTail d q b) [(d, BitVec.ofNat 64 (2 ^ 63 + 1))]))
  ∧ (idle → ringOfCur s q = some r → Gives s (.rstat d q) [(d, BitVec.ofNat 64
      (2 ^ 63 + r.fmt * 2 ^ 36 + r.cols * 2 ^ 30 + r.rows * 2 ^ 24 + r.cap * 2 ^ 16 + r.cnt * 2 ^ 8 + r.head))])
  ∧ (idle → ringOfCur s q = some r → n ≤ r.cnt → Does s (.rpopHead d q b) [(d, BitVec.ofNat 64 (r.cnt - n))] id
      (set { r with head := (r.head + n) % r.cap, cnt := r.cnt - n }) id)
  ∧ (idle → ringOfCur s q = some r → r.cnt < n → Gives s (.rpopHead d q b) [(d, BitVec.ofNat 64 (2 ^ 63 + 2))])
  ∧ (idle → s.cur.unack = 0 → ringOfCur s q = some r → r.cnt + n ≤ r.cap → Does s (.rpopTail d q b) [(d, BitVec.ofNat 64 (r.cnt + n))] id
      (set { r with cnt := r.cnt + n }) id)
  ∧ (idle → s.cur.unack = 0 → ringOfCur s q = some r → r.cap < r.cnt + n → Gives s (.rpopTail d q b) [(d, BitVec.ofNat 64 (2 ^ 63 + 2))])
  ∧ (idle → s.cur.unack ≠ 0 → Waits s (.rpopTail d q b) (.retry .unbounded) s)
  ∧ (ringBusy s.here q = true → Waits s (.rstat d q) (.retry .unbounded) s)
  ∧ (∀ u, s.cur.tile = none → ringOfCur s q = some r → r.fmt ≠ 6 → (rx s a.r).toNat % e = 0 → (rx s b.r).toNat % e = 0 →
      gatherLoads (begun r.form) e (tileAddrs (rx s a.r) (rx s b.r) r.form) = .ok (bs, u) → r.cnt < r.cap → s.cur.unack = 0 →
      Ends s (.tldt q a b) (gathered (setRing (storeAt u (tileKey u.iss.core r ((r.head + r.cnt) % r.cap)) bs) u.iss.core q { r with cnt := r.cnt + 1 })))
  ∧ (∀ u, s.cur.tile = none → ringOfCur s q = some r → r.fmt ≠ 6 → (rx s a.r).toNat % e = 0 → (rx s b.r).toNat % e = 0 →
      gatherLoads (begun r.form) e (tileAddrs (rx s a.r) (rx s b.r) r.form) = .ok (bs, u) → r.cap ≤ r.cnt →
      Waits s (.tldt q a b) (.retry (.trap cRING 1 (BitVec.ofNat 64 q))) u)
  ∧ (∀ u z, s.cur.tile = some z → gatherLoads (begun z) (ringBytes z.1) (tileAddrs (rx s a.r) (rx s b.r) z) = .ok (bs, u) →
      (ringOfCur s q = none → Traps s (.tldt q a b) cRING 2 (BitVec.ofNat 64 q))
      ∧ (ringOfCur s q = some r → r.cap ≤ r.cnt → Waits s (.tldt q a b) (.retry (.trap cRING 1 (BitVec.ofNat 64 q))) u)
      ∧ (ringOfCur s q = some r → r.cnt < r.cap → r.form ≠ z → Traps s (.tldt q a b) cRING 3 (BitVec.ofNat 64 q))
      ∧ (ringOfCur s q = some r → r.cnt < r.cap → r.form = z → s.cur.unack = 0 →
        Ends s (.tldt q a b) (gathered (setRing (storeAt u (tileKey u.iss.core r ((r.head + r.cnt) % r.cap)) bs) u.iss.core q { r with cnt := r.cnt + 1 }))))
  ∧ (s.cur.tile = none → ringOfCur s q = none → Traps s (.tldt q a b) cRING 2 (BitVec.ofNat 64 q))
  ∧ (s.cur.tile = none → ringOfCur s q = some r → r.fmt = 6 → Traps s (.tldt q a b) cRING 3 (BitVec.ofNat 64 q))
  ∧ (va.toNat % 16 ≠ 0 → Traps s (.rcfg q a off) cALIGN 0 va)
  ∧ (s.cur.tile = none → ringOfCur s q = some r → r.fmt ≠ 6 →
      ((rx s a.r).toNat % e ≠ 0 → Traps s (.tldt q a b) cALIGN 0 (rx s a.r))
      ∧ ((rx s a.r).toNat % e = 0 → n % e ≠ 0 → Traps s (.tldt q a b) cALIGN 0 (rx s b.r)))

/-- R253, R254: a matrix operation whose accumulator and rings have the form's shapes, with the unit free and both tiles published, gives the
accumulator its result and pops the tiles; with a wrong shape it traps at issue; else it has issued and waits for the unit and the tiles, and
once it has ended its bundle retires with its result.
The model's choices here: log 25 (when a product runs within its bundle). -/
def Obligations.MatrixOperations : Prop := ∀ (s : State) (form : MForm) (acc qa qb : Nat) (keepb : Bool) (e : Nat × Nat) (o : Mop) (r : MmaRun),
  let c := s.iss.core
  let t := s.iss.slot
  let shape := (formShape (mmaFmtsOf s form).1).2.2.1
  let mma := fun (i : Instr) (zero : Bool) =>
    let run := mmaRun s c t (newMop s form acc qa qb zero)
    (s.cur.mop = none → mmaFails s form acc qa qb = none → mmaAtOnce s acc qa qb = true →
      Ends s i ((mmaCommit s acc qa qb keepb run.result).modHere fun k => { k with cyc := run.doneAt }))
    ∧ (s.cur.mop = none → mmaFails s form acc qa qb = none → mmaAtOnce s acc qa qb = false →
      Waits s i (.retry (.tile qa qb)) (issueMma s form acc qa qb zero))
    ∧ (s.cur.mop = some o → s.here.mma = some r → o.started = true → o.done = true → r.seq = o.seq → s.cur.unack = 0 →
      Ends s i (((mmaCommit s acc qa qb keepb r.result).modHere fun k => { k with mma := none }).modCur fun l => { l with mop := none }))
    ∧ (s.cur.mop = some o → (s.here.mma = none ∨ o.started = false ∨ o.done = false) → Waits s i (mmaWait o) s)
    ∧ (s.cur.mop = none → (accOfCur s acc).shape ≠ shape → Traps s i cRING 4 (BitVec.ofNat 64 qa))
    ∧ (s.cur.mop = none → (accOfCur s acc).shape = shape → ringFails s c t qa qb (mmaFmtsOf s form).1 (mmaFmtsOf s form).2.1 = some e →
      Traps s i cRING e.1 (BitVec.ofNat 64 e.2))
  mma (.mma form acc qa qb keepb) false ∧ mma (.mmaz form acc qa qb keepb) true

/-- R69 and R70: an unmasked element of the result of a float form is the accumulator's element, or zero for MMAZ, to which each group of four
products is added exactly and rounded once, and of the integer form the exact sum modulo 2^32; a masked element stays. -/
def Obligations.MatrixElements : Prop := ∀ (s : State) (c i j : Nat) (acc : Acc) (m : MaskPair) (zero : Bool) (f : Fmt × Fmt × Fmt × Bool)
    (a b : Ring),
  acc.shape = (formShape f.1).2.2.1 → i < accDim acc.shape → j < accDim acc.shape →
  let table := if f.2.2.2 then (s.core c).table1 else (s.core c).table0
  let k := (formShape f.1).2.2.2.1
  let row := (List.range k).map fun q => tileVal s c table f.1 a i q
  let col := (List.range k).map fun q => tileVal s c table f.2.1 b q j
  let start := if zero then 0 else (acc.at i j).toNat
  let out := (mmaResult s c acc m zero f a b).at i j
  (unmasked m i j = false → out = acc.at i j)
  ∧ (unmasked m i j = true → f.1 ≠ .i8 → f.1 ≠ .mx →
      out = BitVec.ofNat 64 (macElement (if acc.shape = 3 then b64 else b32) (some 0) start row col))
  ∧ (unmasked m i j = true → f.1 = .mx →
      out = BitVec.ofNat 64 (macElement b32 (mxScale (tileScale s c a i) (tileScale s c b j)) start row col))
  ∧ (unmasked m i j = true → f.1 = .i8 →
      out = BitVec.ofNat 64 (((start : Int) + (List.zipWith (fun x y => mmaResult.fmtInt x * mmaResult.fmtInt y) row col).foldl (· + ·) 0)
        % (2 ^ 32 : Nat)).toNat)

/-! Cells, taps, handles, the prefix tree, combining. -/

/-- R267 to R270 and R280 to R281: an edit is deferred while its cell is stale or computing; else it joins the issuer's batch, or opens a wave of
its own once the issuer's stores are acknowledged. A CST that the issuer's own view blocks returns VIEWBLOCK.
The model's choices here: log 34 (the reading of a record); log 35 (the phase of a deferred edit). -/
def Obligations.CellEdits : Prop := ∀ (s : State) (d n : Nat) (a h : Src) (off : Int) (bs : List Byte) (b : Binding) (batch : Batch),
  let x := s.myCtx
  let k := s.ctx x
  let c := k.cell n
  let edit := fun (i : Instr) (kind : EditKind) (u : State) (ready : Prop) (prep : Nat → State) (batched : Word) (lone : Nat → Word) =>
    let e : Edit := { cell := n, kind := kind, phase := phaseOf u u.cur }
    let w := openWave (prep 0) x 0 [e] e.phase none
    (ready → e.defers k = false → ownBatch s = some batch →
      Ends s i (wx ((prep batch.num).modCtx x fun k => { k with
        batches := k.batches.map fun c => if c.num = batch.num then { c with edits := c.edits ++ [e] } else c }) d batched))
    ∧ (ready → e.defers k = false → ownBatch s = none → Drained s → exhausted k = false → wavesFull k = false →
      Ends s i (wx w.2 d (lone w.1)))
  let deferred := fun (i : Instr) (kind : EditKind) (u : State) (ready : Prop) =>
    let e : Edit := { cell := n, kind := kind, phase := phaseOf u u.cur }
    ready → busyCell k n = true →
      Ends s i (wx (u.modCtx x fun k => { k with deferred := k.deferred ++ [e] }) d (BitVec.ofNat 64 (2 ^ 62)))
  let outside := s.cur.item = none
  let named := cellOf k (rx s h.r) = some n
  let recd := fun (u : State) => (rx s a.r).toNat % 128 = 0 ∧ readRange s (rx s a.r) 128 forLoad = .ok (bs, u)
  let src := rx s a.r + BitVec.ofInt 64 (off * 64)
  let mine := (ownBatch s).bind fun b => c.batchBuf b.num
  (∀ u, edit (.cbind d a) .bind u
    (outside ∧ recd u ∧ n = freeCellFrom k k.cells.length 0 ∧ bindingOf k n none bs = .ok b ∧ n < 2 ^ 20
      ∧ (bindCell u x n b).isSome = true)
    (fun _ => (bindCell u x n b).getD u)
    (cellHandle n c.tag) (fun _ => cellHandle n c.tag))
  ∧ (∀ u, edit (.cedit d a h) (.rebind b) u (outside ∧ named ∧ recd u ∧ bindingOf k n (some c.bind) bs = .ok b) (fun _ => u) 0 (BitVec.ofNat 64 ·)
    ∧ deferred (.cedit d a h) (.rebind b) u (outside ∧ named ∧ recd u ∧ bindingOf k n (some c.bind) bs = .ok b))
  ∧ deferred (.cunb d h) .unbind s (outside ∧ named ∧ hasDependants k n = false)
  ∧ edit (.cunb d h) .unbind s (outside ∧ named ∧ hasDependants k n = false) (fun _ => s) 0 (BitVec.ofNat 64 ·)
  ∧ (∀ u, edit (.cst d a h off) .store u
    (outside ∧ named ∧ c.bind.input = true ∧ src.toNat % 64 = 0 ∧ readRange s src c.bind.bytes forLoad = .ok (bs, u)
      ∧ (mine.isSome = true ∨ (ownViewBlocks s c = false ∧ busyCell k n = false ∧ canWrite k.views c = true))
      ∧ (storeCell x n (mine.getD c.older) bs 0 u).isSome = true)
    (fun bn => (storeCell x n (mine.getD c.older) bs bn u).getD u) 0 (BitVec.ofNat 64 ·))
  ∧ (outside → named → c.bind.input = true → src.toNat % 64 = 0 → mine = none → ownViewBlocks s c = true →
      Gives s (.cst d a h off) [(d, statusWord 10)])

/-- R268, R276, R282, R285, R286: batches, views and CSTAT.
R273, R276, R283, R284: a CLD copies rows of the version that its view chooses; a CWR writes rows of its item's version but those held; a
CFIN fills the rows not written from the version before, and finishes the item.
The model's choices here: log 37 (the rows of a repair); log 39 (CSTAT on a pending version); log 40 (the view of a CLD that waits). -/
def Obligations.BatchesViewsAndCopies : Prop :=
  (∀ (s : State) (d n sel : Nat) (a h : Src) (b : Batch),
  let x := s.myCtx
  let k := s.ctx x
  let last := s.cur.fence.getD (k.waves.foldl (fun m w => max m w.seq) 0)
  let pinned := (pinView s k.committed).modCur fun l => { l with fence := none, st := { l.st with vw := true } }
  let sealed := sealBatch s x b (phaseOf s s.cur) none
  (s.cur.item = none → ownBatch s = none → k.batches.length < 256 → k.nextBatch < 2 ^ 24 →
    Does s (.cbatch d) [(d, BitVec.ofNat 64 k.nextBatch)] id id (·.modCtx x fun k => { k with
      nextBatch := k.nextBatch + 1, batches := k.batches ++ [{ num := k.nextBatch, owner := s.cur.uid }] }))
  ∧ (s.cur.item = none → (ownBatch s).isSome = true → Gives s (.cbatch d) [(d, statusWord 8)])
  ∧ (Drained s → (if rx s a.r = 0 then ownBatch s else k.batches.find? fun b => wd b.num == rx s a.r) = some b → exhausted k = false →
      wavesFull k = false → Ends s (.cseal d a) (wx sealed.2 d (BitVec.ofNat 64 sealed.1)))
  ∧ (Drained s → (if rx s a.r = 0 then ownBatch s else k.batches.find? fun b => wd b.num == rx s a.r) = none →
      Gives s (.cseal d a) [(d, statusWord 11)])
  ∧ (s.cur.item = none → s.cur.st.vw = false → Ends s (.cviewNow d) (wx pinned d (BitVec.ofNat 64 k.committed)))
  ∧ (s.cur.item = none → s.cur.st.vw = false → (∀ w ∈ k.waves, last < w.seq) →
      Ends s (.cviewFence d) (wx pinned d (BitVec.ofNat 64 k.committed)))
  ∧ (s.cur.item = none → s.cur.st.vw = true → Gives s (.cviewNow d) [(d, statusWord 8)] ∧ Gives s (.cviewFence d) [(d, statusWord 8)])
  ∧ (s.cur.st.vw = true → Ends s .cvend (closeView s s.iss.core s.iss.slot))
  ∧ (s.cur.st.vw = false → Gives s .cvend [])
  ∧ Gives s (.cstat d h 3) [(d, BitVec.ofNat 64 k.committed)]
  ∧ (sel ≠ 3 → cellOf k (rx s h.r) = some n → Gives s (.cstat d h sel) [(d, statOf s k n sel)])
  ∧ (sel ≠ 3 → cellOf k (rx s h.r) = none → Traps s (.cstat d h sel) cHANDLE 0 (rx s h.r)))
  ∧ (∀ (s : State) (win n : Nat) (a h : Src) (off : Int) (rows : Nat × Nat) (b w : Bool) (t : State)
    (i : Item) (bs : List Byte),
  let x := s.myCtx
  let k := s.ctx x
  let c := k.cell n
  let va := rx s a.r + BitVec.ofInt 64 (off * 64)
  let named := cellNamed k (rx s h.r) = some n ∧ windowRows c.bind (rx s win) = some rows ∧ va.toNat % 64 = 0
  let g := s.cur.view.getD k.committed
  let u := if s.cur.view.isSome then s else pinView s g
  let hold := itemHold c i
  (named → s.cur.item = none → (∀ v, c.unboundAt = some v → g < v) → c.choose g = some b →
    badBuf u (c.buf b) = false → storeRange u va (bufBytes u (c.buf b) (rows.1 * c.bind.rowBytes) (rows.2 * c.bind.rowBytes)) = .ok t →
    Ends s (.cld win a h off) (closeImplicit t s.iss.core s.iss.slot))
  ∧ (∀ v, named → s.cur.item = some i → i.finished = false → i.cell = n →
    readRange s va (rows.2 * c.bind.rowBytes) forLoad = .ok (bs, v) → itemBuf c i = some w →
    Ends s (.cwr win a h off) ((writeRows v c.bind (c.buf w) hold bs rows.1 rows.2).modCur fun l =>
      { l with item := l.item.map fun i =>
        { i with written := (((List.range rows.2).map (rows.1 + ·)).filter fun r => !hold.contains r).foldl insN i.written } }))
  ∧ (s.cur.item = none → Traps s .cfin cHANDLE 1 0)
  ∧ (s.cur.item = some i → i.finished = false → transfersOf s s.iss.core s.cur.uid = 0 → Drained s →
    unwritten (k.cell i.cell).bind i = [] → Ends s .cfin (fillAndFinish s x i none false))
  ∧ (s.cur.item = some i → i.finished = false → transfersOf s s.iss.core s.cur.uid = 0 → Drained s →
    unwritten (k.cell i.cell).bind i ≠ [] → (k.cell i.cell).choose (i.gen - 1) = some b → badBuf s ((k.cell i.cell).buf b) = false →
    Ends s .cfin (fillAndFinish s x i (some ((k.cell i.cell).buf b)) false))
  ∧ (s.cur.item = some i → i.finished = false → transfersOf s s.iss.core s.cur.uid = 0 → Drained s →
    unwritten (k.cell i.cell).bind i ≠ [] → (k.cell i.cell).choose (i.gen - 1) = none → i.repair = false →
    Ends s .cfin (fillAndFinish s x i none false)))

/-- R263: the version that a generation chooses is one of the greatest stamp not above it. -/
def Obligations.VersionChoice : Prop := ∀ (c : Cell) (g : Nat),
  (∀ b, c.choose g = some b → (c.buf b).cond.version = true ∧ (c.buf b).stamp ≤ g
    ∧ ∀ o, (c.buf o).cond.version = true → (c.buf o).stamp ≤ g → (c.buf o).stamp ≤ (c.buf b).stamp)
  ∧ (c.choose g = none → ∀ o, ¬ ((c.buf o).cond.version = true ∧ (c.buf o).stamp ≤ g))

/-- R270: a wave makes stale exactly the cells that its roots reach along non-lagged edges. -/
def Obligations.StaleSet : Prop := ∀ (es : List (Nat × Nat)) (roots : List Nat) (n : Nat),
  n ∈ downstream es roots ↔ ∃ r ∈ roots, Reaches es r n

/-- R310 to R313 and R319 to R323: the taps' instructions.
The model's choices here: log 36 (the deferral of TAPOFF and the descriptor's alignment). -/
def Obligations.Taps : Prop := ∀ (s : State) (d n q sel : Nat) (a h : Src) (bs : List Byte) (desc : TapDesc) (map : List Lane)
    (p : Nat × Nat × Nat × Word) (t : Tap) (rs : List (List Byte)),
  let x := s.myCtx
  let k := s.ctx x
  let c := k.cell n
  let named := cellOf k (rx s h.r) = some n
  let dim := bits p.2.2.1 15 0
  let new : Tap := { arm := 0, probe := p.1, dir := p.2.2.1.testBit 16, dim := dim
                     thr := p.2.2.2.extractLsb' 32 32, bias := p.2.2.2.extractLsb' 0 32
                     weights := halvesOf (rs.getD 0 []), gains := halvesOf (rs.getD 1 []), eps := desc.eps, ord := desc.ord
                     nrm := desc.nrm, rpr := desc.rpr, map := map, steer := (rs.drop 2).map halvesOf }
  let wave := fun (i : Instr) (kind : EditKind) =>
    let e : Edit := { cell := n, kind := kind, phase := phaseOf s s.cur }
    let w := openWave s x 0 [e] e.phase none
    (e.defers k = true → Ends s i (wx (s.modCtx x fun k => { k with deferred := k.deferred ++ [e] }) d (BitVec.ofNat 64 (2 ^ 62))))
    ∧ (e.defers k = false → exhausted k = false → wavesFull k = false → Ends s i (wx w.2 d (BitVec.ofNat 64 w.1)))
  (∀ u v w z, named → Drained s → (rx s a.r).toNat % 64 = 0 → readRange s (rx s a.r) 64 forLoad = .ok (bs, u) → parseTap bs = some desc →
    readMap u desc c.bind = .ok (map, v) → map.all (mapOk desc.nsv) = true → tapCellOk c.bind desc.rpr = true →
    readProbe v desc c.bind = .ok (some p, w) → armedTap c = none →
    readRanges w ((p.2.1, 2 * dim) :: (desc.gain, if desc.nrm then 2 * dim else 0)
      :: (List.range desc.nsv).map fun v => (desc.base + 2 * dim * v, 2 * dim)) = .ok (rs, z) →
    new.frames ≤ freeFrames z 0 k.home →
    Ends s (.taparm d a h) (wx (z.modCtx x fun k => armTap k n new) d (BitVec.ofNat 64 (c.arms + 1))))
  ∧ (named → Drained s → armedTap c = none → Gives s (.tapoff d h) [(d, statusWord 7)] ∧ Gives s (.taprel d a h) [(d, statusWord 7)]
    ∧ Gives s (.tapkill d a h) [(d, statusWord 7)])
  ∧ (named → Drained s → armedTap c = some t → t.heldSeqs = [] → t.killed = [] →
    Ends s (.tapoff d h) (wx (s.modCtx x fun k => disarm k n) d 0))
  ∧ (named → Drained s → armedTap c = some t → ¬ (t.heldSeqs = [] ∧ t.killed = []) → wave (.tapoff d h) .off)
  ∧ ((rx s a.r).toNat % 2 ^ 16 = q → named → Drained s → armedTap c = some t → (q ∈ t.heldSeqs ∨ q ∈ t.killed) →
    wave (.taprel d a h) (.release [q])
    ∧ Ends s (.tapkill d a h) (wx (s.modCtx x fun k => k.modCell n fun c => { c with taps := c.taps.map fun (t : Tap) =>
        if t.armed then { t with heldSeqs := delN t.heldSeqs q, killed := insN t.killed q } else t }) d 0))
  ∧ ((rx s a.r).toNat % 2 ^ 16 = q → named → Drained s → armedTap c = some t → q ∉ t.heldSeqs → q ∉ t.killed →
    Gives s (.taprel d a h) [(d, statusWord 6)] ∧ Gives s (.tapkill d a h) [(d, statusWord 6)])
  ∧ ((rx s a.r).toNat % 2 ^ 16 = q → named → Gives s (.taprd d a h sel) [(d, tapWord c sel q)])
  ∧ (cellOf k (rx s h.r) = none → Traps s (.taprd d a h sel) cHANDLE 0 (rx s h.r))

/-- R292, R293, R295, R300 to R303: handles; a handle that names no object traps.
R301: HDUP adds a strong handle and leaves the state; HUP through a weak handle makes the object live again.
R295, R296, R300: HNEW takes frames of a tier, zeroes them, and gives the object a range of the heap window and one strong handle; where the
tier has too few it waits for a sweep, once, and for the frames that come back by it; a status names what stands against it.
The model's choices here: log 29 (which frames, index and address are free); log 30 (the events of a sweep); log 31 (the order of the checks,
and what HNEW waits for). -/
def Obligations.Handles : Prop :=
  (∀ (s : State) (d p n sel : Nat) (a b : Src) (v : Nat),
  let x := s.myCtx
  let k := s.ctx x
  let h := rx s a.r
  let o := k.obj (hObj h)
  let valid := fun (kinds : List Nat) => handleFails k kinds h = none
  let grow := fun (f : Obj → Obj) => s.modCtx x fun k => k.modObj (hObj h) f
  let word := memKey o.tier (frameAt o.runs (8 * n / 4096) * 4096 + 8 * n % 4096)
  let at_ := BitVec.ofNat 64 (o.addr + 8 * n)
  let young := (readTraced s at_ 8).modCtx x fun k => k.modObj (hObj h) fun o => { o with age := 0 }
  (handleFails k [0, 2] h = some v → Traps s (.hdup d a) cHANDLE v h ∧ Traps s (.hup d a) cHANDLE v h ∧ Traps s (.hdrop a) cHANDLE v h
    ∧ Traps s (.hldw d p a n) cHANDLE v h)
  ∧ (valid [0, 2] → hWk h = true → Traps s (.hdup d a) cHANDLE 5 h)
  ∧ (valid [0, 2] → hWk h = false → o.st ≠ .destroyed → o.strong < 2 ^ 24 - 1 →
    Ends s (.hdup d a) (wx (grow fun o => { o with strong := o.strong + 1 }) d (h &&& 0x7FFFFFFFFFFFFFFF)))
  ∧ (valid [0, 2] → o.st ≠ .destroyed → o.strong < 2 ^ 24 - 1 →
    Ends s (.hup d a) (wx (grow fun o => { o with strong := o.strong + 1, st := if hWk h then .live else o.st }) d (h &&& 0x7FFFFFFFFFFFFFFF)))
  ∧ (valid [0, 2] → o.st ≠ .destroyed → 2 ^ 24 - 1 ≤ o.strong →
    Gives s (.hup d a) [(d, statusWord 3)] ∧ (hWk h = false → Gives s (.hdup d a) [(d, statusWord 3)]))
  ∧ (valid [0, 2] → o.st = .destroyed → Gives s (.hup d a) [(d, 0)])
  ∧ (valid [0, 1, 2] → hKind h ≠ 1 → o.st ≠ .destroyed → o.weak < 2 ^ 24 - 1 →
    Ends s (.hweak d a) (wx (grow fun o => { o with weak := o.weak + 1 }) d (h ||| 0x8000000000000000)))
  ∧ (valid [0, 1, 2] → hKind h = 1 → Gives s (.hweak d a) [(d, h ||| 0x8000000000000000)])
  ∧ (valid [0, 2] → Drained s → (if hWk h then o.weak else o.strong) ≠ 0 →
    Ends s (.hdrop a) (dropCount s x (hObj h) (hWk h)))
  ∧ (valid [0, 2] → Drained s → (if hWk h then o.weak else o.strong) = 0 → Traps s (.hdrop a) cHANDLE 4 h)
  ∧ (valid [0, 2] → o.st = .destroyed → Ends s (.hldw d p a n) (wx (wx s d 0) p 1))
  ∧ (valid [0, 2] → o.st ≠ .destroyed → heldBack s at_ 8 forLoad = true → Waits s (.hldw d p a n) (.retry .unbounded) s)
  ∧ (valid [0, 2] → o.st ≠ .destroyed → heldBack s at_ 8 forLoad = false → deadPage s x (o.addr + 8 * n) = true →
    Ends s (.hldw d p a n) (wx (wx young d 0) p 0))
  ∧ (valid [0, 2] → o.st ≠ .destroyed → heldBack s at_ 8 forLoad = false → deadPage s x (o.addr + 8 * n) = false → s.isPoison word = false →
    Ends s (.hldw d p a n) (wx (wx young d (BitVec.ofNat 64 (s.num word 8))) p 0))
  ∧ (valid [0, 1, 2] → hKind h ≠ 1 → Ends s (.hpri a b) (grow fun o => { o with pri := (rx s b.r).toNat % 16 }))
  ∧ (valid [0, 1, 2] → hKind h = 1 → Ends s (.hpri a b) (s.modCtx x fun k => k.modCell (wbits h 55 36) fun c => { c with pri := (rx s b.r).toNat % 16 }))
  ∧ (valid [0, 1, 2] → Gives s (.hinfo d a sel) [(d, infoOf s k h sel)]))
  ∧ (∀ (s : State) (d : Nat) (a b : Src),
  let x := s.myCtx
  let size := rx s a.r
  let opt := rx s b.r
  let n := (size.toNat + 4095) / 4096
  let tier := wbits opt 5 4
  let die := wbits opt 9 7
  let st := newStatus (s.ctx x) size opt
  let all := tierFrames tier die
  let runs := takeRuns n (gaps all.1 (all.1 + all.2) (usedRuns s tier die) [])
  let i := freeIndexFrom (s.ctx x) (s.ctx x).objs.length 1
  let made := fun (kind : Nat) => ({
    tag := ((s.ctx x).obj i).tag, alloc := true, kind := kind, strong := 1, pri := wbits opt 3 0, size := 4096 * n
    addr := freeRange s x (4096 * n), tier := tier, die := die, loc := opt.getLsbD 6, aff := wbits opt 9 7, runs := runs } : Obj)
  let mapped := fun (kind : Nat) =>
    mapObj ((runs.foldl (fun t r => zeroRange t (memKey tier (4096 * r.1)) (4096 * r.2)) s).modCtx x fun k => k.setObj i (made kind)) x (made kind)
  let short := freeFrames s tier die < n
  let swept := sweeping s tier die = true ∨ unmapping s tier die = true
  let both := fun (f : Instr → Prop) => f (.hnew d a b) ∧ f (.hnewKv d a b)
  (∀ u, st = 0 → ¬ short → mapped 0 = some u → Ends s (.hnew d a b) (gathered (wx u d (objHandle false (made 0) i))))
  ∧ (∀ u, st = 0 → ¬ short → mapped 2 = some u → Ends s (.hnewKv d a b) (gathered (wx u d (objHandle false (made 2) i))))
  ∧ (st = 0 → ¬ short → (mapped 0 = none → Ends s (.hnew d a b) (gathered (wx s d (statusWord 2))))
    ∧ (mapped 2 = none → Ends s (.hnewKv d a b) (gathered (wx s d (statusWord 2)))))
  ∧ (st = 0 → short → swept → both fun i => Waits s i (.retry .unbounded) s)
  ∧ (st = 0 → short → ¬ swept → s.cur.part = [] →
    both fun i => Waits s i (.retry .unbounded) (startSweep (s.modCur fun l => { l with part := [0] }) tier die none))
  ∧ (st = 0 → short → ¬ swept → s.cur.part ≠ [] → both fun i => Ends s i (gathered (wx s d (statusWord 2))))
  ∧ (st ≠ 0 → Gives s (.hnew d a b) [(d, statusWord st)] ∧ Gives s (.hnewKv d a b) [(d, statusWord st)]))

/-- R306 to R308: the prefix tree unit finds, inserts and deletes along the runs of tokens that a request names.
The model's choices here: log 32 (what a request that stops has done). -/
def Obligations.PrefixTree : Prop := ∀ (s t v : State) (d m : Nat) (a : Src) (r : PfxReq) (path : List (List Lane)) (bs : List Byte),
  let x := s.myCtx
  let k := s.ctx x
  let given := (List.range r.nblk).map fun i => wd (ofBytes ((bs.drop (8 * i)).take 8))
  (readPfx s false false (rx s a.r) = .ok (none, v) → Ends s (.pfxfind d a) (wx v d (statusWord 1)))
  ∧ (let found := findBlocks (prune v x path) x path (min (r.ntok / 16) r.nblk) 0
     let image := found.1.flatMap fun h => toBytes 8 h.toNat
     readPfx s false false (rx s a.r) = .ok (some (r, path), v) → (∃ w, storeRange v (wd r.arr) image = .ok w) →
      storeRange found.2 (wd r.arr) image = .ok t → Ends s (.pfxfind d a) (wx t d (BitVec.ofNat 64 (16 * found.1.length))))
  ∧ (∀ w, Drained s → readPfx s true false (rx s a.r) = .ok (some (r, path), v) → readRange v (wd r.arr) (8 * r.nblk) forLoad = .ok (bs, w) →
    k.nodes.length + r.nblk ≤ k.quota → s.ctxs.foldl (fun n p => n + p.2.nodes.length) r.nblk ≤ 4194304 →
    insertBlocks (prune w x path) x path given 0 0 = .ok (m, t) → Ends s (.pfxins d a) (wx t d (BitVec.ofNat 64 m)))
  ∧ (let u := prune v x path
     Drained s → readPfx s true true (rx s a.r) = .ok (some (r, path), v) → (path = [] ∨ nodeAt (u.ctx x) path = none) →
    Ends s (.pfxdel d a) (wx u d 0))
  ∧ (let u := prune v x path
     Drained s → readPfx s true true (rx s a.r) = .ok (some (r, path), v) → path ≠ [] → (nodeAt (u.ctx x) path).isSome = true →
    Ends s (.pfxdel d a) (wx (removeSubtree u x path).2 d (BitVec.ofNat 64 (removeSubtree u x path).1)))
  ∧ (Drained s → readPfx s true false (rx s a.r) = .ok (none, v) → Ends s (.pfxins d a) (wx v d (statusWord 1)))

/-- R332 to R338: a contribution to another core's reduction counts in `unack` and goes to its owner; one to the issuer's own core joins its
table at once; CMBRECV takes the result of a complete entry and frees it.
R335: the merge of two contributions takes the greater value of a MAX, the payload of the smaller number at a tie, and the sum of a SUM; the
order of the two does not matter, but for the rounding of an f32 sum (R73).
The model's choices here: log 26 (the entry is found by its tag alone). -/
def Obligations.Combining : Prop :=
  (∀ (s : State) (d st : Nat) (a b : Src) (t : VTy) (y : Fmt) (k : Core) (e : Contribution),
  let w := rx s a.r
  let owner := wbits w 60 48
  let fresh := s.tick
  let packet := fun (max : Bool) (t : Fmt) (v : Word) => ({
    id := fresh.1, ctx := s.myCtx, owner := owner, tag := wbits w 15 0, max := max, ty := t, cnt := wbits w 47 32, n := 1, value := v
    mixed := false, from_ := [] } : Contribution)
  let send := fun (i : Instr) (p : Contribution) =>
    (badReduction w = true → Gives s i [(d, statusWord 1)])
    ∧ (badReduction w = false → Drained s → owner ≠ s.iss.core → pathBusy s s.iss.core owner = true → Waits s i (.retry .unbounded) s)
    ∧ (badReduction w = false → Drained s → owner ≠ s.iss.core → pathBusy s s.iss.core owner = false → Ends s i (wx ((fresh.2.modCore owner fun k => { k with
        packets := k.packets ++ [{ p with from_ := [(s.iss.core, s.iss.slot, s.cur.uid, fresh.1)] }] }).modCur fun l => { l with unack := l.unack + 1 }) d 0))
    ∧ (badReduction w = false → Drained s → owner = s.iss.core → ownerRefuses s owner s.myCtx = false →
      (∀ q ∈ s.here.packets, q.tag ≠ p.tag) → joinTable s.here p = some k → Ends s i (wx (fresh.2.setCore owner k) d 0))
  send (.cmbmax t d a b) (packet true (match t with | .f32 => .f32 | .i32 => .i32 | .n32 => .n32) (rx s b.r))
  ∧ send (.cmbsum y d a b) (packet false y (if y = .f32 then rx s b.r &&& 0xFFFFFFFF else rx s b.r))
  ∧ (w.toNat < 2 ^ 16 → s.here.table.find? (fun q => q.tag == w.toNat) = some e → e.cnt ≤ e.n →
    Ends s (.cmbrecv d st a)
      (let u := s.modHere fun k => { k with table := k.table.filter fun q => q.tag != e.tag }
       if e.mixed then wx (wx u d 0) st (BitVec.ofNat 64 (e.n % 2 ^ 32 * 2 ^ 32 + 2))
       else wx (wx u d e.value) st (BitVec.ofNat 64 (e.n % 2 ^ 32 * 2 ^ 32))))
  ∧ (w.toNat < 2 ^ 16 → s.here.table.find? (fun q => q.tag == w.toNat) = none → s.cur.expired = false →
    Waits s (.cmbrecv d st a) (.retry (.returns 2)) s)
  ∧ (2 ^ 16 ≤ w.toNat → Ends s (.cmbrecv d st a) (wx (wx s d 0) st 3)))
  ∧ (∀ (t : Fmt) (a b : Word),
  ((t ≠ .f32 ∨ wbits a 31 0 ≠ wbits b 31 0) → mergeValue true t a b = mergeValue true t b a)
  ∧ (t ≠ .f32 → mergeValue false t a b = mergeValue false t b a)
  ∧ (maxOrder t (wbits a 63 32) < maxOrder t (wbits b 63 32) → mergeValue true t a b = b)
  ∧ (t ≠ .f32 → mergeValue false t a b = a + b))

/-! Events of cores, waits and accesses. -/

/-- R163, R164, R166, R167, R168: segments land or fail, threads start, messages are accepted or refused, handlers start and reach their limit.
R138: reports keep their order. R331: an acknowledgement waits behind what its core sent before on the same path.
The model's choices here: log 27 (when a message counts in unack); log 58 (a segment lands in one event, and the thid of its fault message);
log 63 (the registers of slot 62 that the rule does not name, and the context of a handler whose core holds none). -/
def Obligations.KernelEvents : Prop := ∀ (s : State) (c t n : Nat) (m : Msg) (rest : List Msg),
  let seg := s.seg c n
  let l := s.slot c t
  c < 8192 → t < 64 →
  (∀ bs, n < 8 → seg.st = .fetching → seg.token = none → fetchEnd s c seg = .image bs →
      Happens s (.segmentLand c n) (((fetchTraced s c seg).setBytes (codeKey c (4096 * n)) bs).setSeg c n { seg with st := .landed }))
  ∧ (∀ cause, n < 8 → seg.st = .fetching → seg.token = none → fetchEnd s c seg = .fails cause →
      Happens s (.segmentFail c n) ((if cause = cPOISON then fetchTraced s c seg else s).setSeg c n { seg with st := .failed cause }))
  ∧ (let u := (s.wake c).modSlot c t fun l => { l with phase := .ready }
     let x := s.ctx l.ctx
     l.phase = .starting → ((s.seg c (l.pc.toNat / 4096)).st = .landed ∨ ∃ cause, (s.seg c (l.pc.toNat / 4096)).st = .failed cause) →
      (x.monitorRec = 0 ∨ x.monitor ≠ (c, t) → Happens s (.threadStart c t) (tryStop u c t))
      ∧ (x.monitorRec ≠ 0 → x.monitor = (c, t) →
        Happens s (.threadStart c t) (tryStop ((u.modCore c fun k => { k with station := x.reports ++ k.station }).modCtx l.ctx
          fun k => { k with reports := [] }) c t)))
  ∧ (let u := s.modCore c fun k => { k with station := rest, gated := false }
     (s.core c).station = m :: rest → queueUsed (s.core c) < 32 →
      (refuses u c m = false → behindReports u c m = false → m.counted = false →
        Happens s (.messageAccept c) (u.modCore c fun k => { k with queue := k.queue ++ [m] }))
      ∧ ((refuses u c m = true ∨ behindReports u c m = true) → m.counted = false → itemOf m.kind = none → (u.ctx m.ctx).monitorRec ≠ 0 →
        (u.ctx m.ctx).monitor = (c, m.slot) → Happens s (.messageAccept c) (u.modCtx m.ctx fun k => { k with reports := k.reports ++ [m] }))
      ∧ (pathBusy s c m.srcCore = true → m.counted = true → Happens s (.messageAccept c) s)
      ∧ (refuses u c m = false → pathBusy s c m.srcCore = false → m.counted = true →
        Happens s (.messageAccept c) (settle m.srcCore m.srcSlot
          (acknowledge (u.modCore c fun k => { k with queue := k.queue ++ [m] }) m.srcCore m.srcSlot m.srcUid none)))
      ∧ (refuses u c m = true → pathBusy s c m.srcCore = false → m.kind = .plain → m.counted = true →
        Happens s (.messageAccept c) (settle m.srcCore m.srcSlot (acknowledge u m.srcCore m.srcSlot m.srcUid (some (m.seq, fabBase c)))))
      ∧ (∀ i, refuses u c m = true → m.counted = false → itemOf m.kind = some i → Happens s (.messageAccept c) (failItem u m.ctx i 0 (64 * c + 62))))
  ∧ (let item := itemOf m.kind
     let x := (s.holder c).getD m.ctx
     let launch := match item with
       | some i => look (s.ctx x).launches (itemBind ((s.ctx x).cell i.cell) i).launch
       | none => newestLaunch (s.ctx x) c
     let start := m.words.headD 0 &&& 0x7FFF
     let handler : Slot := { phase := .ready, pc := start, handler := start, ctx := x, uid := s.env.fresh, item := item
                             trapvec := BitVec.ofNat 64 (s.ctx x).trapvec
                             waitlim := BitVec.ofNat 64 ((launch.map (·.waitlim)).getD 0)
                             viewlim := BitVec.ofNat 64 ((launch.map (·.viewlim)).getD 0)
                             msg := some { m with words := m.words.drop 1 }
                             masks := match item with
                               | some i => itemMasks (itemHold ((s.ctx x).cell i.cell) i)
                               | none => [] }
     (s.core c).queue.find? startsHandler = some m → (s.slot c 62).phase = .free → (s.core c).absent = false →
      (item = none ∨ (∃ r, launch = some r ∧ r.st.live = true) → Happens s (.handlerStart c)
        ((s.tick.2.modCore c fun k => { k with queue := dropFirst (· == m) k.queue, gated := false }).setSlot c 62 handler))
      ∧ (∀ i, item = some i → (∀ r, launch = some r → r.st.live = false) → Happens s (.handlerStart c)
        (failItem (s.modCore c fun k => { k with queue := dropFirst (· == m) k.queue }) x i 0 (64 * c + 62))))
  ∧ ((s.core c).absent = true → Happens s (.handlerStart c) s)
  ∧ (let h := s.slot c 62
     h.phase = .ready → h.st.te = false → (if (s.core c).msglim = 0 then 65536 else (s.core c).msglim) ≤ h.bundles →
      mayIssue s c 62 = true → itsTurn s c 62 = true → atBreakpoint s c 62 = false → h.oneStep = false →
      ∃ u, Happens s (.msglimit c) u ∧ u.mem = s.mem ∧ (u.slot c 62).epc = h.pc &&& 0x7FFF ∧ (u.slot c 62).pc = h.trapvec
        ∧ (u.slot c 62).cause = causeWord cMSGLIMIT 0 ∧ (u.slot c 62).tval = h.handler
        ∧ (u.slot c 62).st = { h.st with ppv := h.st.pv, pv := true, te := true })

/-- R21, R77, R142, R161, R235, R253, R276: a core is gated, a table is replaced, a thread is pre-empted, a dropped bundle is issued again, an
element of a stream is delivered, a matrix operation starts and retires, a view expires. A matrix operation whose rings are wrong when it
would start traps, and so does one whose tiles hold a poisoned word; one whose bundle has been dropped or has trapped leaves the unit.
The model's choices here: log 5 (when a core is gated); log 22 (when an element is read); log 25 (when a product starts and retires); log 66
(a failed store of a slot that stops with te set); log 74 (the trap for a poisoned word of a tile). -/
def Obligations.CoreEvents : Prop := ∀ (s : State) (c t r n : Nat) (m : Stream) (bs : List Byte) (table : Table) (run : MmaRun),
  let k := s.core c
  let l := s.slot c t
  let roused := fun (u : State) => u.modCore c fun k => { k with gated := false, turns := put k.turns t (max (lookD k.turns t 0) (k.cyc + 1)) }
  c < 8192 → t < 64 →
  (k.gated = false → (∀ p ∈ k.slots, keepsClock k p.1 = false) → k.station = [] → k.mma = none → k.newTable = [] → look k.mbox 3 = none →
      (∀ p ∈ k.chans, p.2.who = none) → (∀ g ∈ k.segs, g.2.st ≠ .fetching) → (∀ f ∈ s.flights, f.core ≠ c) →
      (∀ w ∈ s.waiters, w.core = c → w.retryAt = none) → Happens s (.coreGate c) (s.modCore c fun k => { k with gated := true }))
  ∧ (n < 2 → look k.newTable n = some (t, table) → mmaReads k n = false →
      Happens s (.tableReplacement c n)
        ((s.modCore c fun k => { k.setTable n table with newTable := del k.newTable n }).modSlot c t fun l => { l.again with reply := some [] }))
  ∧ (let stopping := { l with stopping := true }
     t < 62 → l.phase = .ready → l.held = none → l.wait = none → l.reply = none → (l.unack ≠ 0 ∨ mmaOf k t = true ∨ inFlight s c t = true) →
      Happens s (.preemptionRequest c t) ((s.wake c).setSlot c t stopping))
  ∧ (t < 62 → l.phase = .ready → l.held = none → l.wait = none → l.reply = none → l.unack = 0 → l.failed = none → l.leaf = none →
      mmaOf k t = false → inFlight s c t = false → Happens s (.preemptionRequest c t)
        ((withdrawWaiter (leaveRepairs (closeImplicit ((s.wake c).modSlot c t fun l => { l with stopping := true }) c t) (s.ctxOf c t) l.uid) c t).modSlot c t
          fun l => { l.awake with phase := .stopped, stopping := false }))
  ∧ (l.woken = true → Happens s (.bundleReissue c t) (turn execThread c t s))
  ∧ (r < 128 → l.stream r = some m → m.st = .running → m.left ≠ 0 → s.emptyAt c ((winOf t l).1 + r) = true → ctxRuns s (s.ctxOf c t) = true →
      (∀ u, nextElement s c t m = .bytes bs u →
        Happens s (.streamElementDeliver c t r) ((setEntry u c ((winOf t l).1 + r) (BitVec.ofNat 64 (ofBytes bs))).modSlot c t
          fun l => l.modStream r fun m => { m with nxt := m.nxt + 1 }))
      ∧ (∀ info va u, nextElement s c t m = .fatal info va u →
        Happens s (.streamElementDeliver c t r) (u.modSlot c t fun l => l.modStream r fun m => { m with st := .failed info va.toNat })))
  ∧ (∀ o, l.mop = some o → o.started = false → l.phase = .waiting → k.mma = none → olderMma s c t o.seq = false →
      (tilesReady s c t o.qa o.qb = true ∨ ringFor s c t o.qa = none ∨ ringFor s c t o.qb = none) →
      (ringFails s c t o.qa o.qb o.fmts.1 o.fmts.2.1 = none → tilesPoison s c t o.qa o.qb (maskPair l o.acc) = none →
        Happens s (.mmaStart c t) (((s.wake c).modCore c fun k => { k with mma := some (mmaRun s c t o) }).modSlot c t
          fun l => { l with mop := some { o with started := true }
                            wait := match l.wait with | some (.reply n) => some (.reply n) | _ => some (.reply 0) }))
      ∧ (∀ e, ringFails s c t o.qa o.qb o.fmts.1 o.fmts.2.1 = some e →
        Happens s (.mmaStart c t) (takeTrap (roused s) c t cRING e.1 (BitVec.ofNat 64 e.2) l.pc))
      ∧ (∀ va, ringFails s c t o.qa o.qb o.fmts.1 o.fmts.2.1 = none → tilesPoison s c t o.qa o.qb (maskPair l o.acc) = some va →
        Happens s (.mmaStart c t) (takeTrap (roused s) c t cPOISON 0 va l.pc)))
  ∧ (∀ o, l.mop = some o → (k.mma ≠ none ∨ (tilesReady s c t o.qa o.qb = false ∧ ringFor s c t o.qa ≠ none ∧ ringFor s c t o.qb ≠ none)) →
      Happens s (.mmaStart c t) s)
  ∧ (let u := s.modSlot c run.slot fun l => { l with mop := l.mop.map fun o => { o with done := true } }
     k.mma = some run → (k.cyc < run.doneAt → Happens s (.mmaRetire c) s)
      ∧ (run.doneAt ≤ k.cyc → mmaOf k run.slot = true → (s.slot c run.slot).wait = some (.reply 0) →
        Happens s (.mmaRetire c) (resume execThread c run.slot u))
      ∧ (run.doneAt ≤ k.cyc → mmaOf k run.slot = true → (s.slot c run.slot).wait ≠ some (.reply 0) →
        Happens s (.mmaRetire c) (settle c run.slot u))
      ∧ (run.doneAt ≤ k.cyc → mmaKept k = true →
        ((s.slot c run.slot).wait = some (.reply 0) → (s.slot c run.slot).unack = 0 → Happens s (.mmaRetire c) (resume execThread c run.slot s))
        ∧ ((s.slot c run.slot).wait ≠ some (.reply 0) ∨ (s.slot c run.slot).unack ≠ 0 → Happens s (.mmaRetire c) s))
      ∧ (run.doneAt ≤ k.cyc → mmaKept k = false → mmaOf k run.slot = false →
        Happens s (.mmaRetire c) (settle c run.slot (s.modCore c fun k => { k with mma := none }))))
  ∧ (∀ g, l.view = some g → viewStops s c t = true → mayIssue s c t = true → itsTurn s c t = true → atBreakpoint s c t = false → l.oneStep = false →
      ∃ u, Happens s (.viewExpired c t) u ∧ u.mem = s.mem ∧ (u.slot c t).epc = l.pc &&& 0x7FFF ∧ (u.slot c t).pc = l.trapvec
        ∧ (u.slot c t).cause = causeWord cVIEWEXPIRED 0 ∧ (u.slot c t).tval = BitVec.ofNat 64 g
        ∧ (u.slot c t).st = { l.st with vw := false, ppv := l.st.pv, pv := true, te := true } ∧ (u.slot c t).view = none)
  ∧ (viewStops s c t = false → Happens s (.viewExpired c t) s)

/-- R25, R150, R206, R214, R222, R253, R337: a wait whose count has reached `waitlim` traps with the cause, info and value of its kind, or its
instruction returns.
R253: the limit of a matrix operation that has issued and not started counts whatever its bundle's C-slot waits for. A wait tries its
condition a last time: one whose condition holds by then goes on.
R20, R205, R206, R214: no limit of a wait acts before its count is reached; a request is withdrawn, and parked requests are sent again.
The model's choices here: log 21 (what a retry sends again); log 25 (the ring that tval names); log 62 (a limit is reached when the count
equals it). -/
def Obligations.WaitLimits : Prop :=
  (∀ (s : State) (c t a b line code info : Nat) (regs : List Nat) (v tval : Word),
  let l := s.slot c t
  let ends := fun (u : State) => settle c t u
  let on := lastTry c t s
  let next := (on.slot c t).limit
  let traps := fun (u : State) (code info : Nat) (tval : Word) => ends (takeTrap (u.modCore c fun k =>
    { k with gated := false, turns := put k.turns t (max (lookD k.turns t 0) (k.cyc + 1)) }) c t code info tval l.pc)
  let ofRing := (∃ a b, next = .tile a b) ∨ ∃ i v, next = .trap cRING i v
  let base := (winOf t l).1
  let resent := fun (k : Nat) => (withdrawWaiter s c t).modSlot c t fun l => { l with wait := some (.retry (.returns k)), expired := true }
  c < 8192 → t < 64 → limitReached s c t = true →
  (∀ r ∈ regs, l.limit = .sync regs → s.emptyAt c (base + r) = true → (∀ q ∈ regs, s.emptyAt c (base + q) = true → r ≤ q) →
      regs.Pairwise (· < ·) → (∃ rs, next = .sync rs) → Happens s (.waitlimitExpiry c t) (traps s cWAITLIMIT 1 (BitVec.ofNat 64 r)))
  ∧ (l.limit = .sync regs → (∀ rs, next ≠ .sync rs) → Happens s (.waitlimitExpiry c t) on)
  ∧ (l.limit = .trap code 2 tval → (∃ e v, next = .trap e 2 v) →
      Happens s (.mailboxWaitLimit c t) (traps (withdrawWaiter s c t) code 2 tval))
  ∧ (l.wait = some (.home line (.trap code info tval)) → l.limit = .trap code info tval →
      Happens s (.memoryWaitLimit c t) (traps (withdrawWaiter s c t) code info tval))
  ∧ (l.wait = some (.home line (.arrived v)) → l.limit = .arrived v →
      Happens s (.memoryWaitLimit c t) (ends ((withdrawWaiter s c t).modSlot c t fun l => { l.again with reply := some (toBytes 8 v.toNat) })))
  ∧ (l.limit = .tile a b → ofRing →
      Happens s (.ringWaitLimit c t) (traps s cRING 1 (BitVec.ofNat 64 (if ringEmpty s c a = true ∨ ringEmpty s c b = false then a else b))))
  ∧ (∀ o, l.mop = some o → o.started = false → l.wait ≠ none → l.limit = .tile o.qa o.qb ∧ on = mmaStart c t s)
  ∧ (l.limit = .trap cRING 1 tval → ofRing → Happens s (.ringWaitLimit c t) (traps (withdrawWaiter s c t) cRING 1 tval))
  ∧ ((l.limit = .tile a b ∨ l.limit = .trap cRING 1 tval) → ¬ ofRing → Happens s (.ringWaitLimit c t) on)
  ∧ (l.limit = .returns 0 → next = .returns 0 → Happens s (.cntwaitLimit c t) (ends (resent 0)))
  ∧ (l.limit = .returns 2 → next = .returns 2 → Happens s (.cmbrecvLimit c t) (ends (resent 2))))
  ∧ (∀ (s : State) (c t line n : Nat) (lim : Limit) (v : Word) (w : Waiter),
  let l := s.slot c t
  c < 8192 → t < 64 →
  (limitReached s c t = false → ∀ i ∈ [Instr.waitlimitExpiry c t, .mailboxWaitLimit c t, .memoryWaitLimit c t, .ringWaitLimit c t,
      .cntwaitLimit c t, .cmbrecvLimit c t], Happens s i s)
  ∧ (l.wait = some (.home line lim) → (∀ x, lim ≠ .arrived x) → (l.stopping = true ∨ l.cancelled = true) →
      Happens s (.withdraw c t) ((withdrawWaiter s c t).modSlot c t fun l => (uncountHeld t l).awake))
  ∧ (l.wait = some (.home line lim) → l.stopping = false → l.cancelled = false → limitReached s c t = false → Happens s (.withdraw c t) s)
  ∧ (l.wait = some (.home line (.arrived v)) → (l.stopping = true ∨ l.cancelled = true ∨ limitReached s c t = true) →
      Happens s (.withdraw c t) ((withdrawWaiter s c t).modSlot c t fun l => { l.again with reply := some (toBytes 8 v.toNat) }))
  ∧ (let u := { s with notes := s.notes.filter fun n => !(n.sent && n.line == line && n.core == c) }
     s.notes.any (fun n => n.sent && n.line == line && n.core == c) = true →
      (∀ w ∈ s.waiters, w.parked = true → w.core = c → w.line = line → w.held s = false) →
      Happens s (.retry c line) ((s.waiters.filter fun w => w.parked && w.core == c && w.line == line).foldl resend (u.wake c)))
  ∧ (s.waiters.find? (fun w => w.parked && w.core == c && w.slot == t) = some w → w.retryAt = some n → n ≤ (s.core c).cyc → w.held s = false →
      Happens s (.parkedRetryTimeout c t) (resend s w)))

/-- R108, R111, R115, R186, R194 to R198, R331: an access travels from its core to its walk slice, its home and back. R339: one that needs host
memory over a link that enables no protocol waits.
The model's choices here: log 13 (the stages of an access); log 51 (an access waits that needs host memory over a link not in use); log 53
(when a store is performed); log 67 (the order of messages). -/
def Obligations.AccessesInFlight : Prop := ∀ (s : State) (f : Flight) (p : Place) (v bs : List Byte) (cause va : Nat) (failed : Bool),
  let gone := s.dropFlight f.id
  let key := spadKey (fabCore f.addr) (wbits f.addr 19 0)
  s.flight f.id = some f →
  (∀ q, f.stage = .issued → f.isFabric = false → outOfTurn s f = false → flightCut s f = false → locateFlight s f = .ok (p, q) →
      let t := install s.tick.2 f.ctx f.addr.toNat p
      let t := match f.also, q with
        | some a, some q => install t f.ctx a.1.toNat q
        | _, _ => t
      Happens s (.accessAtWalkSlice f.id) (t.modFlight f.id fun g =>
        { g with stage := .translated, stamp := s.tick.1, key := p.key, home := p.home, entry := p.e, pb := p.pb
                 second := q.map fun q => (q.key, q.home, q.e, q.pb) }))
  ∧ (∀ e, f.stage = .issued → f.isFabric = false → outOfTurn s f = false → flightCut s f = false → locateFlight s f = .error e →
      Happens s (.accessAtWalkSlice f.id) (dropAccess f e.1 e.2 s))
  ∧ (f.also = none → (∀ p, translate s f.ctx f.priv f.addr.toNat f.rights = .ok p → locateFlight s f = .ok (p, none))
      ∧ ∀ e, translate s f.ctx f.priv f.addr.toNat f.rights = .error e → locateFlight s f = .error (f.addr, e))
  ∧ (f.isFabric = true ∨ outOfTurn s f = true ∨ flightCut s f = true → Happens s (.accessAtWalkSlice f.id) s)
  ∧ (f.stage = .translated → f.op = .load → served s f = true → poisonedAt s f.place f.addr f.len = none →
      (elsewhere s f = false → notShared s f.ctx f.line f.place = false →
        let u := traceMsg s f.ctx f.line 6 f.core (wordMask f.addr.toNat f.len)
        Happens s (.readRequest f.id)
          (sendFill (u.setDir f.ctx f.line ((s.dirOf f.ctx f.line).addReader f.core)) f true))
      ∧ (elsewhere s f = false → notShared s f.ctx f.line f.place = true →
        let u := traceMsg s f.ctx f.line 6 f.core (wordMask f.addr.toNat f.len)
        Happens s (.readRequest f.id) (sendFill u f false))
      ∧ (elsewhere s f = true → Happens s (.forwardedLoad f.id)
          (filled (traceMsg s f.ctx f.line 7 f.core (wordMask f.addr.toNat f.len)) f (.arrived (loadAt s f.place f.len)))))
  ∧ (∀ (t : State) (grant : Bool), ∃ u, sendFill t f grant = u ∧ u.mem = t.mem ∧ u.dirs = t.dirs ∧ u.cores = t.cores
      ∧ ((t.flights.map (·.id)).Nodup → t.flight f.id = some f → ∃ g, u.flight f.id = some g ∧ g.stage = .filling (loadAt t f.place f.len)
        ∧ g.once = (f.once || !grant) ∧ g.bad = (if grant = true then lineBad t f else []) ∧ g.fill = if grant = true then loadAt t { f.place with key := f.key - f.addr.toNat % 128 } 128 else []))
  ∧ (∀ op ty b e, f.stage = .translated → f.op = .atomic op ty b e → served s f = true → f.storeBefore s = false →
      poisonedAt s f.place f.addr f.len = none →
      let old := s.bytes f.key f.len
      Happens s (.readRequest f.id) (filled (storeAt (touchHome s f.core f.ctx f.addr.toNat f.len f.place) f.key
        (toBytes f.len (atomResult op ty (ofBytes old) b.toNat e.toNat))) f (.arrived old)))
  ∧ (∀ a, f.stage = .translated → f.isStore = false → served s f = true → f.op = .load ∨ f.storeBefore s = false →
      poisonedAt s f.place f.addr f.len = some a →
      Happens s (.readRequest f.id) (filled (traceReads s f.core f.ctx f.addr f.len) f (.refused cPOISON a.toNat)))
  ∧ (let u := traceMsg s f.ctx f.line 10 f.core 0
     let given := fun (g : Flight) =>
       if g.id = f.id then { g with stage := .arrived v }
       else if g.joins = some f.id ∧ g.stage = .issued ∧ f.fill ≠ [] then { g with stage := fromFill f g, home := f.home, stamp := f.stamp }
       else g
     let comes := fun (t : State) => Happens s (.fillArrive f.id) { t with flights := t.flights.map given }
     f.stage = .filling v → undelivered s f = false →
      (f.once = false → holdsLine u f.core f.ctx f.line = false → comes (addLine u f.core ⟨f.ctx, f.line, .shared, 0, f.core, 0⟩))
      ∧ (f.once = false → holdsLine u f.core f.ctx f.line = true → comes u)
      ∧ (f.once = true → comes u))
  ∧ (f.stage = .translated → f.op = .store bs → served s f = true → unregistered s f = true →
      let u := traceMsg (setWritten s f.home f.ctx f.addr.toNat) f.ctx f.line 1 f.core (wordMask f.addr.toNat f.len)
      Happens s (.registrationRequest f.id) (filled (traceInvalidations u f.ctx f.line f.core) f (.invalidating ((u.dirOf f.ctx f.line).readers f.core) [])))
  ∧ (f.also = none → scaleBehind s f = false ∧ ∀ t, storeScale f t = t)
  ∧ (f.stage = .invalidating [] [] → f.op = .store bs → f.storeBefore s = true ∨ scaleBehind s f = true → Happens s (.registrationGrant f.id) s)
  ∧ (f.stage = .invalidating [] [] → f.op = .store bs → f.storeBefore s = false → scaleBehind s f = false →
      (eTier f.entry ≠ 2 → Happens s (.registrationGrant f.id)
        (storeScale f <| storeAt (registerWords (clearReaders (filled s f .granted) f.ctx f.line) f.core f.ctx f.addr.toNat f.len f.place) f.key bs))
      ∧ (eTier f.entry = 2 → Happens s (.registrationGrant f.id)
        (storeScale f <| storeAt (touchHome (filled s f .granted) f.core f.ctx f.addr.toNat f.len f.place) f.key bs)))
  ∧ (f.stage = .granted → f.op = .store bs → undelivered s f = false → Happens s (.globalStoreAccept f.id)
      (replyTo execThread f.core f.slot f.uid f.id [] (acknowledge gone f.core f.slot f.uid none)))
  ∧ (f.op = .store bs → (∃ toGo back, f.stage = .invalidating toGo back) ∨ (f.stage = .translated ∧ unregistered s f = true) →
      (awaits s f.core f.slot f.uid f.id = true →
        Happens s (.globalStoreAccept f.id) (replyTo execThread f.core f.slot f.uid f.id [] s))
      ∧ (awaits s f.core f.slot f.uid f.id = false → Happens s (.globalStoreAccept f.id) s))
  ∧ (f.stage = .translated → f.op = .store bs → unregistered s f = false → f.storeBefore s = false → Happens s (.globalStoreAccept f.id)
      (replyTo execThread f.core f.slot f.uid f.id [] (storeScale f <| storeAt
        (backInvalidate (acknowledge gone f.core f.slot f.uid none) f.ctx f.line f.key) f.key bs)))
  ∧ (f.stage = .issued → f.isFabric = true → overtakes s f = false →
      (targetTakes s f.ctx f.addr f.len = true → f.also = none → f.op = .store bs →
        Happens s (.fabricAccessArrive f.id) (filled (storeAt s key bs) f (.acked false)))
      ∧ (∀ a, targetTakes s f.ctx f.addr f.len = true → f.also = some a → targetTakes s f.ctx a.1 a.2.length = true → f.op = .store bs →
        Happens s (.fabricAccessArrive f.id) (filled (storeAt (storeAt s key bs) (spadKey (fabCore a.1) (wbits a.1 19 0)) a.2) f (.acked false)))
      ∧ (∀ a, refusedPart s f = some a → f.op = .store bs →
        Happens s (.fabricAccessArrive f.id) (filled (s.modFlight f.id fun g => { g with addr := a }) f (.acked true)))
      ∧ (targetTakes s f.ctx f.addr f.len = true → f.also = none → f.op = .load →
        poisonedAt s { key := key, home := 512 + fabCore f.addr, glob := false } f.addr f.len = none →
        Happens s (.fabricAccessArrive f.id) (filled s f (.arrived (s.bytes key f.len))))
      ∧ (∀ op ty b e, targetTakes s f.ctx f.addr f.len = true → f.also = none → f.op = .atomic op ty b e →
        poisonedAt s { key := key, home := 512 + fabCore f.addr, glob := false } f.addr f.len = none →
        Happens s (.fabricAccessArrive f.id)
          (filled (storeAt s key (toBytes f.len (atomResult op ty (s.num key f.len) b.toNat e.toNat))) f (.arrived (s.bytes key f.len))))
      ∧ (targetTakes s f.ctx f.addr f.len = false → f.op = .load →
        Happens s (.fabricAccessArrive f.id) (filled s f (.refused cREAD f.addr.toNat))))
  ∧ (f.stage = .acked failed → undelivered s f = false → Happens s (.fabricStoreAck f.id)
      (settle f.core f.slot (acknowledge gone f.core f.slot f.uid (if failed then some (f.seq, f.addr) else none))))
  ∧ (f.stage = .arrived v → undelivered s f = false → Happens s (.replyArrive f.id) (replyTo execThread f.core f.slot f.uid f.id v gone))
  ∧ (f.stage = .refused cause va → undelivered s f = false → Happens s (.replyArrive f.id) (refuseTo f.core f.slot f.uid f.id cause (BitVec.ofNat 64 va) gone))

/-- R179, R193 to R199: a line is evicted, invalidated, acknowledged and recalled; a word is struck by an error; a dead range is discarded.
The model's choices here: log 15 (which line a full cache gives up); log 18 (what lost words hold); log 70 (when a range is marked dead). -/
def Obligations.LineEvents : Prop := ∀ (s : State) (f : Flight) (c x line mask m key addr len : Nat) (l : Line) (toGo : List Nat)
    (back : List (Nat × Nat)),
  let d := s.dirOf x line
  let sent := s.notices.find? fun n => n.core == c && n.ctx == x && n.line == line
  c < 8192 →
  (sent = none → (s.core c).lines.find? (fun l => l.ctx == x && l.line == line) = some l →
      Happens s (.evictionNotice c x line) (if cacheRoom (s.core c) = true then s else evictLine s c l))
  ∧ (∀ n, sent = some n →
      let before := { s with notices := s.notices.takeWhile (· != n) }
      let taken := spoilFills { s with notices := dropFirst (· == n) s.notices } false (· == c) x (· == line)
      (sentBefore before c x (128 * line) n.seq = true → Happens s (.evictionNotice c x line) s)
      ∧ (sentBefore before c x (128 * line) n.seq = false →
        Happens s (.evictionNotice c x line) (traceMsg (taken.setDir x line (d.notice c)) x line 3 c 0)))
  ∧ (awaited s c x line false = some f → f.isStore = true → overrun s f c = false → ∃ u, Happens s (.invalidation c x line) u ∧ u.mem = s.mem
      ∧ u.dirs = s.dirs ∧ u.cores = (dropLine (s.wake c) c x line).cores
      ∧ (f.stage = .invalidating toGo back → (s.flights.map (·.id)).Nodup →
          u.flight f.id = some { f with stage := .invalidating (delN toGo c) (back ++ [(c, s.env.fresh)]) })
      ∧ (∀ g ∈ u.flights, g.isLoad = true → g.core = c → g.ctx = x → g.line = line →
          g.stage = .issued ∨ g.stage = .translated ∨ (∃ v, g.stage = .filling v) → g.once = true))
  ∧ (awaited s c x line false = some f → overrun s f c = true → Happens s (.invalidation c x line) s)
  ∧ (awaited s c x line true = some f → f.stage = .invalidating toGo back →
      (sentBefore s c x (128 * line) (ackNumber f c) = true → Happens s (.invalidationAck c x line) s)
      ∧ (sentBefore s c x (128 * line) (ackNumber f c) = false → ∃ u, Happens s (.invalidationAck c x line) u ∧ u.mem = s.mem
        ∧ u.dirs = s.dirs ∧ u.cores = s.cores
        ∧ ((s.flights.map (·.id)).Nodup → u.flight f.id = some { f with stage := .invalidating toGo (back.filter (·.1 != c)) })))
  ∧ (look d.regs c = some m → m &&& mask ≠ 0 → m - (m &&& mask) = 0 → ∃ u, Happens s (.recall c x line mask) u ∧ u.mem = s.mem
      ∧ u.dirs = (endRegistration s c x line).dirs ∧ (u.core c).lines = ((endRegistration s c x line).core c).lines)
  ∧ (look d.regs c = some m → m &&& mask = 0 → Happens s (.recall c x line mask) s)
  ∧ (look d.regs c = some m → m &&& mask ≠ 0 → m - (m &&& mask) ≠ 0 → ∃ u, Happens s (.recall c x line mask) u ∧ u.mem = s.mem
      ∧ look (u.dirOf x line).regs c = some (m - (m &&& mask)))
  ∧ (strikable s key = true → ∃ u, Happens s (.uncorrectableError key) u ∧ u.isPoison key = true ∧ u.mem = s.mem
      ∧ u.manage.uncorrected = s.manage.uncorrected + 1)
  ∧ (let pages := leaves s x addr (addr + len)
     (s.ctx x).st ≠ .free → markedDead (s.ctx x) addr len = true → badRange (BitVec.ofNat 64 addr) (BitVec.ofNat 64 len) true = false →
      partlyCovered addr (addr + len) pages = false → entryInUse s x addr (addr + len) = false →
      Happens s (.deadRangeDiscard x addr len) (discardPages s x pages))

/-! Events of queues, contexts, transfers, sheets, the remelt engine, reductions and the host port. -/

/-- R171, R174 to R177, R360: a tail is seen, an entry is taken, checked and started; a queue goes on after a reset request. R339: what needs the
host over a link that enables no protocol does not happen.
The model's choices here: log 43 (the codes of odd entries and of a poisoned one, and the ages); log 51 (a tail line is snooped, a ring in
host memory is read and a signal is written over a link in use only). -/
def Obligations.QueueEvents : Prop := ∀ (s : State) (x q tail : Nat) (u : Queue) (e : Entry),
  let k := s.ctx x
  let ws := entryWords s u u.taken
  let taken := setQueue s x q { u with taken := u.taken + 1 }
  let chosen := takeChoice s (x % 4) (256 * x + q)
  let started := fun (v : State) => modEntry v x q e.seq fun e => { e with started := true }
  let turn := headEntry k q = some e ∧ (∀ d ∈ depsOf e.words, depCode k d = some 0) ∧ chosenQueue s (x % 4) = some (256 * x + q)
  let open_ := ∀ p, phaseNamed e.words = some p → intakeOpen (chosen.ctx x) p = true
  let seen := snoop (storeTail s u tail) (commandCore x)
  let sees := s.manage.cxlUsable = true ∧ tailHeld s u = false
  let read := u.stopped = false ∧ ringCut s u = false ∧ u.taken < u.tail ∧ (∀ e ∈ u.entries, e.started = true) ∧ look u.codes u.taken = none
  let bad := lostEntryWord s u u.taken = true ∨ badEntry (taken.ctx x) x ws = true
  look k.queues q = some u → x < 4096 →
  (s.manage.cxlUsable = false ∨ tailHeld s u = true → Happens s (.tailLineSnoop x q tail) s)
  ∧ (sees → u.stopped = false → u.tail ≤ tail → tail ≤ u.retired + 2 ^ u.lg →
      Happens s (.tailLineSnoop x q tail) (seen.modCtx x (·.setQueue q { u with tail := tail })))
  ∧ (sees → u.stopped = false → u.retired + 2 ^ u.lg < tail → Happens s (.tailLineSnoop x q tail) (setQueue seen x q { u with overrun := true }))
  ∧ (sees → u.stopped = false → tail < u.tail → tail ≤ u.retired + 2 ^ u.lg →
      Happens s (.tailLineSnoop x q tail) (setQueue seen x q { u with badtail := true }))
  ∧ Happens s (.queueResetRequest x q) (setQueue s x q { u with overrun := false, badtail := false })
  ∧ (ringCut s u = true → Happens s (.entryTake x q) s)
  ∧ (read →
      (bad → Happens s (.entryTake x q) (finishEntry taken x q u.taken ws 10 0))
      ∧ (¬ bad → badDep (taken.ctx x) q u.taken ws = true →
        Happens s (.entryTake x q) (finishEntry taken x q u.taken ws 11 0))
      ∧ (¬ bad → badDep (taken.ctx x) q u.taken ws = false →
        Happens s (.entryTake x q) (taken.modCtx x fun k => k.setQueue q { k.queue q with
          entries := (k.queue q).entries ++ [{ seq := u.taken, words := ws, pri := ePri ws }] })))
  ∧ (∀ d c, headEntry k q = some e → d ∈ depsOf e.words → depCode k d = some c → c ≠ 0 →
      (eKind e.words = 0 → Happens s (.launchEntry x q) (finishEntry s x q e.seq e.words 9 0))
      ∧ (eKind e.words = 1 → Happens s (.sealEntry x q) (finishEntry s x q e.seq e.words 9 0))
      ∧ (eKind e.words = 2 → Happens s (.fenceEntry x q) (finishEntry s x q e.seq e.words 9 0))
      ∧ (eKind e.words = 3 → signalCut s x q = false → Happens s (.signalEntry x q) (finishEntry s x q e.seq e.words 9 0)))
  ∧ (∀ desc cores v, turn → eKind e.words = 0 → e.fatal = none → open_ → entryDesc chosen x (e.words.getD 1 0) = (.desc desc cores, v) →
      launchStatus v x desc cores = 0 →
      Happens s (.launchEntry x q) (closeIfLast (createLaunch (started v) x desc cores (phaseNamed e.words) (ePri e.words) (e.words.getD 2 0)
        (some (q, e.seq))).2 x e.words))
  ∧ (∀ v, turn → eKind e.words = 0 → e.fatal = none → open_ → entryDesc chosen x (e.words.getD 1 0) = (.bad, v) →
      Happens s (.launchEntry x q) (finishEntry v x q e.seq e.words 1 0))
  ∧ (∀ b, turn → eKind e.words = 1 → open_ → (chosen.ctx x).batches.find? (fun b => wd b.num == e.words.getD 1 0) = some b →
      (exhausted (chosen.ctx x) = false →
        Happens s (.sealEntry x q) (closeIfLast (sealBatch (started chosen) x b (phaseNamed e.words) (some (q, e.seq))).2 x e.words))
      ∧ (exhausted (chosen.ctx x) = true → Happens s (.sealEntry x q) (finishEntry chosen x q e.seq e.words 15 0)))
  ∧ (turn → eKind e.words = 2 → Happens s (.fenceEntry x q) (finishEntry chosen x q e.seq e.words 0 0))
  ∧ (let va := e.words.getD 2 0
     let v := toBytes 8 (e.words.getD 1 0).toNat
     let stored := if va = 0 then chosen else deviceWrite chosen (hostAddr va.toNat).1 (hostAddr va.toNat).2 v
     let raised := if (e.words.getD 5 0).getLsbD 11 then raiseVector stored (wbits (e.words.getD 5 0) 10 0) else stored
     (signalCut s x q = true → Happens s (.signalEntry x q) s)
     ∧ (turn → eKind e.words = 3 → signalCut s x q = false → Happens s (.signalEntry x q) (finishEntry raised x q e.seq e.words 0 0))
     ∧ (chosen.manage.cxlUsable = true → va ≠ 0 → va.toNat < 2 ^ 48 → va.toNat % 8 = 0 →
        stored = storeAt { chosen with hostLines := delN chosen.hostLines (memKey 2 va.toNat / 128) } (memKey 2 va.toNat) v))

/-- R128, R347, R360: on an idle administration queue the host's entry for a create, suspend, resume or destroy request is taken, performed and
completed with its code; a context that is dying is freed once all of it has ended. R339: no request is taken over a link that enables no
protocol.
The model's choices here: log 42 (the place of the administration ring, a suspension in place, the step in which a context is built); log 51
(an administration request is taken over a link in use only); log 69 (where a create record may lie). -/
def Obligations.ContextEvents : Prop := ∀ (s t : State) (va x : Nat) (r : Create),
  let k := s.ctx x
  let u := s.manage.adminQueue
  let seq := u.taken
  let slot := entryAddr u seq
  let entry := fun (kind x va : Nat) => toBytes 8 (kind * 2 ^ 60 + x) ++ toBytes 8 va ++ List.replicate 48 0
  let written := fun (kind x va : Nat) => snoop (storeTail (deviceWrite s u.tier slot (entry kind x va)) u (seq + 1)) (commandCore 0)
  let asked := fun (kind x va : Nat) => (written kind x va).modManage fun m => { m with adminQueue := { u with tail := seq + 1, taken := seq + 1 } }
  let held := tailHeld s u = true ∨ hostHeld s u.tier [(slot, 64)] = true
  let idle := s.manage.cxlUsable = true ∧ u.entries = [] ∧ u.stopped = false ∧ u.tail = seq ∧ seq < u.retired + 2 ^ u.lg ∧ ¬ held
  let stored := fun (kind x va : Nat) => entryWords (written kind x va) u seq
      = [BitVec.ofNat 64 (kind * 2 ^ 60 + x), BitVec.ofNat 64 va, 0, 0, 0, 0, 0, 0] ∧ lostEntryWord (written kind x va) u seq = false
  let runs := k.st = .runnable ∨ k.st = .running
  (∀ kind, s.memOk → s.manage.cxlUsable = true → u.tier = 2 → u.lineTier = 2 → u.base % 64 = 0 → u.tailLine % 8 = 0 →
    u.base + 64 * 2 ^ u.lg ≤ 2 ^ 48 → u.tailLine + 8 ≤ 2 ^ 48 → (slot + 64 ≤ u.tailLine ∨ u.tailLine + 8 ≤ slot) →
    kind < 16 → x < 4096 → va < 2 ^ 64 → stored kind x va)
  ∧ (idle → va < 2 ^ 64 → stored 8 0 va →
    let a := asked 8 0 va
    let building := fun (t : State) => writeRecord (t.modManage fun m => { m with adminQueue := { m.adminQueue with
        entries := [{ seq := seq, words := [BitVec.ofNat 64 (2 ^ 63), BitVec.ofNat 64 va, 0, 0, 0, 0, 0, 0], started := true }] } })
      false { u with tail := seq + 1, taken := seq + 1 }
    (parseCreate a va = none → Happens s (.create va) (adminFinish a seq 8 10))
    ∧ (parseCreate a va = some r → (s.ctx r.ctx).st ≠ .free → Happens s (.create va) (adminFinish a seq 8 12))
    ∧ (parseCreate a va = some r → (s.ctx r.ctx).st = .free → createAgents r.ctx r.agents (a.setCtx r.ctx r.k) = none →
        Happens s (.create va) (adminFinish a seq 8 12))
    ∧ (parseCreate a va = some r → (s.ctx r.ctx).st = .free → createAgents r.ctx r.agents (a.setCtx r.ctx r.k) = some t →
        Happens s (.create va) (if s.env.prompt = true then finishBuild (building t) else building t)))
  ∧ (idle → x < 4096 → stored 9 x 0 →
    let a := asked 9 x 0
    (runs → Happens s (.suspend x) (adminFinish
        ((slotsOf a x).foldl (fun u p => stopSlot p.1 p.2 u) (a.modCtx x fun k => { k with st := .suspended })) seq 9 0))
    ∧ (¬ runs → Happens s (.suspend x) (adminFinish a seq 9 13)))
  ∧ (idle → x < 4096 → stored 10 x 0 →
    let a := asked 10 x 0
    (k.st = .suspended ∨ k.st = .faulted → Happens s (.resume x) (adminFinish
        ((slotsOf a x).foldl (fun u p => restart u p.1 p.2) (a.modCtx x fun k => { k with st := .runnable })) seq 10 0))
    ∧ (k.st ≠ .suspended → k.st ≠ .faulted → Happens s (.resume x) (adminFinish a seq 10 13)))
  ∧ (idle → x < 4096 → stored 11 x 0 →
    let a := asked 11 x 0
    (k.st ≠ .free → k.st ≠ .dying → Happens s (.destroy x) (adminFinish (cancelJob none a x) seq 11 0))
    ∧ (k.st = .dying → Happens s (.destroy x) (adminFinish a seq 11 0))
    ∧ (k.st = .free → Happens s (.destroy x) (adminFinish a seq 11 13)))
  ∧ (s.manage.cxlUsable = false ∨ held → u.entries = [] → u.tail = seq → ∀ i ∈ [Instr.create va, .suspend x, .resume x, .destroy x], Happens s i s)
  ∧ (k.st = .dying → slotsOf s x = [] → k.saved = [] → k.waves = [] → (∀ f ∈ s.flights, f.ctx ≠ x) → transfersEnded s x = true →
      Happens s (.contextFree x) (releaseCtx s x) ∧ (releaseCtx s x).ctx x = {})

/-- R222, R228, R231, R233: the transfer thread takes the request in the mailboxes, copies it piece by piece, and ends it with a record and a
completion message.
The model's choices here: log 24 (the order of pieces and the members of a multicast). -/
def Obligations.TransferEvents : Prop := ∀ (s t : State) (c n a b len m : Nat) (w : List Word) (r : Nat × Nat × Nat × Bool) (bs : List Byte)
    (rest : List (Nat × Nat × Nat)) (p : Piece) (sub : Match),
  let k := s.core c
  let h := k.chan n
  let slot := (h.mb.getD 0 0).toNat
  let only := fun (kind : Nat) => readyRequest s c = none ∧ busyChans k kind = [n]
  let done := fun (t : State) (v w : Word) => settleItem (settleMember (sendCompletion t c r [v, w]) r.2.2.1 c r.2.1) r.2.2.1 c r.2.1
  let piece := min (128 - (a + h.off) % 128) (len - h.off)
  let busy := h.who.isSome = true ∧ h.st = 1 ∧ h.finishing = none ∧ h.fatal = none
  c < 8192 →
  (readyRequest s c = some (w, r) →
      (requestKind r.2.2.2 w = 0 → Happens s (.transferCopy c) (takeRequest s c w r))
      ∧ (requestKind r.2.2.2 w = 1 → Happens s (.transferMulticast c) (takeRequest s c w r))
      ∧ (let u := takeRequest s c w r
         (requestKind r.2.2.2 w = 2 → Happens s (.transferSave c) ((busyChans k 2).foldl (fun t n => saveStep t c n) u))
         ∧ (requestKind r.2.2.2 w = 3 → Happens s (.transferRestore c) ((busyChans k 3).foldl (fun t n => restoreStep t c n) u))))
  ∧ (let put := fun (t : State) => t.setChan c n (advance { (t.core c).chan n with piece := none } bs.length)
     n < 8 → busy → h.kind = 0 → h.segs = (a, b, len) :: rest →
      (∀ v, h.piece = none → chanRead s c n true (BitVec.ofNat 64 (a + h.off)) piece = .ok (bs, v) →
        chanWrite (v.setChan c n { h with piece := some bs }) c n (BitVec.ofNat 64 (b + h.off)) bs = .ok t → Happens s (.transferPiece c n) (put t))
      ∧ (h.piece = some bs → chanWrite s c n (BitVec.ofNat 64 (b + h.off)) bs = .ok t → Happens s (.transferPiece c n) (put t)))
  ∧ (∀ v, n < 8 → busy → h.kind = 1 → h.segs = (a, b, len) :: rest → s.pieces.find? (fun p => p.core == c && p.ch == n) = none →
      chanRead s c n true (BitVec.ofNat 64 (a + h.off)) piece = .ok (bs, v) →
      Happens s (.transferPiece c n) (injectPiece v c n h.off (h.off + piece == len) bs))
  ∧ (n < 8 → busy → h.kind ≤ 1 → h.segs = [] → h.list = some (a, m) → Happens s (.transferPiece c n) (nextEntry s c n a m))
  ∧ (let u := { s with pieces := modFirst (· == p) (fun p => { p with todo := p.todo.filter (· != c) }) s.pieces }
     s.pieces.find? (fun q => q.id == p.id) = some p → c ∈ p.todo →
      k.matches_.find? (fun m => m.ctx == p.ctx && m.tag == p.tag && (p.start == 0 || m.reqs.contains p.req)) = some sub →
      Happens s (.multicastPieceArrive c p.id) (copyPiece u c p sub))
  ∧ (only 2 → h.st = 1 → h.finishing = none → h.fatal = none → (∀ w, h.who = some w → w.1 ≠ slot) → slot < 62 →
      ((s.slot c slot).phase = .stopped → (h.mb.getD 1 0).toNat % 128 = 0 → chanWrite s c n (h.mb.getD 1 0) (imageOf s c slot) = .ok t →
        Happens s (.transferSave c) (endWith (freeSaved t c slot) c n 0))
      ∧ ((s.slot c slot).phase ≠ .stopped → (s.slot c slot).phase ≠ .free → (s.slot c slot).stopping = false →
        Happens s (.transferSave c) (preempt c slot s)))
  ∧ (∀ head rest descs streams u v w, only 3 → h.st = 1 → h.finishing = none → h.fatal = none → slot < 62 → (h.mb.getD 1 0).toNat % 128 = 0 →
      chanRead s c n false (h.mb.getD 1 0) 256 = .ok (head, u) → headStatus u c slot head = 0 →
      chanRead u c n false (h.mb.getD 1 0 + 256) (imageRest head) = .ok (rest, v) → loadStatus v c (parseImage head rest) = 0 →
      chanReads v c n ((parseImage head rest).streams.map (·.1)) = .ok (descs, w) →
      rebind (parseImage head rest) w.env.fresh descs = some streams →
      Happens s (.transferRestore c) (endWith (loadThread w c slot (parseImage head rest) streams) c n 0))
  ∧ (∀ st cause, n < 8 → h.who = some r → chanEnd h = some (st, cause) → st ≠ 3 ∨ optCred (h.mb.getD 3 0) = false →
      let word := BitVec.ofNat 64 (cause % 256 * 2 ^ 8 + n * 2 ^ 4 + st)
      let e := s.setChan c n { h with st := st, finishing := none, fatal := none, piece := none, sending := some word }
      (completionReady s c r = true → Happens s (.transferFinish c n)
        (done (e.setChan c n { (e.core c).chan n with who := none, sending := none }) word (BitVec.ofNat 64 h.ptr)))
      ∧ (completionReady s c r = false → Happens s (.transferFinish c n) e))
  ∧ (∀ code v, n < 8 → chanEnd h = some (3, m) → optCred (h.mb.getD 3 0) = true → credit s c n = .ok (code, v) →
      Happens s (.transferFinish c n) (sendEnd c n (endRequest c n 3 code v)))
  ∧ (∀ word, n < 8 → h.who = some r → h.sending = some word → completionReady s c r = true →
      Happens s (.transferFinish c n) (done (s.setChan c n { h with who := none, sending := none }) word (BitVec.ofNat 64 h.ptr)))

/-- R271, R272, R275, R277, R278, R297, R298: the work of a sheet is dispatched, a wave commits, the remelt engine sweeps and destroys.
The model's choices here: log 30 (when a destruction waits); log 33 (when pending buffers are set); log 37 (a version under repair reads as
lost); log 68 (where cell-owned pages lie). -/
def Obligations.SheetAndRemeltEvents : Prop := ∀ (s : State) (x n g stamp tier die : Nat) (w : Wave) (rest : List Wave) (r : Repair) (run : SweepRun),
  let k := s.ctx x
  let c := k.cell n
  let runs := k.st = .runnable ∨ k.st = .running
  (∀ more t, runs → readyWork k = (w, n) :: more → c.bind.input = true → takeInput x w.seq w.gen n s = (true, t) →
      Happens s (.workItemDispatch x) (t.modCtx x fun k => { k with
        waves := k.waves.map fun v => if v.seq = w.seq then { v with inputs := v.inputs.map fun i => if i.1 = n then (n, true) else i } else v }))
  ∧ (∀ more t, runs → readyWork k = (w, n) :: more → c.bind.input = false → itemPending x n w.gen s = some t →
      Happens s (.workItemDispatch x)
        (sendItem (t.modCtx x fun k => setItem (k.modCell n fun c => { c with hold := dispatchHold k n }) w.gen n .dispatched) x ⟨n, w.gen, false, [], false⟩))
  ∧ (runs → readyWork k = [] → Happens s (.workItemDispatch x) s)
  ∧ (let found := k.repairs.find? (fun r => r.cell == n && r.stamp == stamp && !r.dispatched && !r.failed)
     runs → found = some r →
      (∀ b t, c.holding stamp = some b → openRepair x n b s = some t → Happens s (.repairDispatch x n stamp)
        (sendItem (t.modCtx x fun k => { k with repairs := modFirst (· == r) (fun r => { r with dispatched := true }) k.repairs }) x
          ⟨n, stamp, true, [], false⟩))
      ∧ (c.holding stamp = none → Happens s (.repairDispatch x n stamp)
        (s.setCtx x { k with repairs := modFirst (· == r) (fun r => { r with failed := true }) k.repairs })))
  ∧ (k.waves = w :: rest → w.cancelling = false → (∀ i ∈ w.items, i.2 = .finished) → (∀ i ∈ w.inputs, i.2 = true) →
      Happens s (.waveCommit x) (commitWave s x w))
  ∧ (let key := tierKey tier die
     let free := if tier = 0 then freeFrames s 0 die else freeFrames s 1 0
     tier ≤ 1 → die < 8 →
      (free < lookD s.manage.low key 0 → s.manage.below.contains key = false →
        (∀ r ∈ s.manage.running, tierKey r.tier r.die ≠ key) →
        Happens s (.sweep tier die) (startSweep (s.modManage fun m => { m with below := insN m.below key }) tier die none))
      ∧ (lookD s.manage.low key 0 ≤ free ∨ s.manage.below.contains key = true → Happens s (.sweep tier die) s))
  ∧ (s.manage.running.find? (fun r => r.chosen == some (.obj x n)) = some run →
      Happens s (.objectDestruction x n) (finishCand s run (.obj x n)))
  ∧ (s.manage.running.find? (fun r => r.chosen == some (.buf x n g)) = some run →
      Happens s (.cellBufferDestruction x n g) (finishCand s run (.buf x n g)))

/-- R127, R331, R335, R336, R339 to R341: packets merge and join the owner's table; a loop is bypassed; the links train; the host reads, writes
and snoops.
The model's choices here: log 26 (the entry is found by its tag alone); log 51 (what host accesses do). -/
def Obligations.LinkAndHostEvents : Prop := ∀ (s : State) (c i j die loop port tier pa len : Nat) (k : Core) (p q : Contribution) (data : List Byte)
    (flit256 : Bool),
  (s.cores.find? (fun c => c.2.packets.any (·.id == i) && c.2.packets.any (·.id == j)) = some (c, k) →
      k.packets.find? (·.id == i) = some p → k.packets.find? (·.id == j) = some q → p.merges q = true →
      Happens s (.combineMerge i j) (s.modCore c fun k => { k with packets := (k.packets.filter (·.id != j)).map fun r =>
        if r.id = i then { p with n := p.n + q.n, value := mergeValue p.max p.ty p.value q.value, from_ := p.from_ ++ q.from_ } else r }))
  ∧ (let rest := { k with packets := k.packets.filter (·.id != i) }
     let told := fun (u : State) => p.from_.foldl (fun t f => settle f.1 f.2.1 t) u
     s.cores.find? (fun c => c.2.packets.any (·.id == i)) = some (c, k) → k.packets.find? (·.id == i) = some p →
      k.packets.find? (·.tag == p.tag) = some p →
      (p.from_.any (fun f => pathBusy s p.owner f.1) = true → Happens s (.combineArrive i) s)
      ∧ (p.from_.any (fun f => pathBusy s p.owner f.1) = false → ownerRefuses s c p.ctx = true → Happens s (.combineArrive i) (told (acknowledgeAll (s.setCore c rest) p (some (fabBase c)))))
      ∧ (∀ k', p.from_.any (fun f => pathBusy s p.owner f.1) = false → ownerRefuses s c p.ctx = false → joinTable rest p = some k' →
        Happens s (.combineArrive i) (told (acknowledgeAll (s.setCore c { k' with gated := false }) p none))))
  ∧ (die < 8 → loop < 136 → ∃ u, Happens s (.loopBypass die loop) u ∧ (die, loop) ∈ u.manage.twins ∧ u.mem = s.mem ∧ u.cores = s.cores
      ∧ u.ctxs = s.ctxs)
  ∧ (∃ u, Happens s (.cxlLinkTraining flit256) u ∧ u.manage.cxlTrained = true ∧ u.manage.cxlUsable = flit256 ∧ u.mem = s.mem ∧ u.cores = s.cores)
  ∧ (port < 4 → ∃ u, Happens s (.packageLinkTraining port) u ∧ port ∈ u.manage.ports ∧ u.mem = s.mem ∧ u.cores = s.cores)
  ∧ (s.manage.cxlUsable = true →
      (hostHeld s tier (parts 128 pa data.length) = false →
        Happens s (.hostMemWrite tier pa data) (hostMemWrite tier (parts 128 pa data.length) data s))
      ∧ (hostHeld s tier (parts 128 pa len) = false → Happens s (.hostMemRead tier pa len) (hostMemRead tier pa len s)))
  ∧ (s.manage.cxlUsable = false → Happens s (.hostMemWrite tier pa data) s ∧ Happens s (.hostMemRead tier pa len) s)
  ∧ (s.manage.cxlUsable = true →
      ∃ u, Happens s (.hostSnoop pa) u ∧ memKey 2 pa / 128 ∉ u.hostLines ∧ u.mem = s.mem ∧ u.cores = s.cores)
  ∧ (s.manage.cxlUsable = false → Happens s (.hostSnoop pa) s)

/-! Management and the debugger. -/

/-- R17, R18, R346: a configuration record within its limits comes into force, and a block's clock steps. R350 with R349 and R352: a corrected
error is counted, more than sixteen of a core within an hour retire it, and a telemetry record is sampled.
The model's choices here: log 8 (records at reset); log 44 (the order of a record's numbers); log 46 (the words of a telemetry record); log
50 (the hour of the corrected errors is counted back from the latest one, on the machine's own instants). -/
def Obligations.Management : Prop := ∀ (s : State) (c b die loop clock key ty : Nat) (r : List Nat) (ok : Bool),
  let kept := fun (u : State) => u.mem = s.mem ∧ u.cores = s.cores ∧ u.ctxs = s.ctxs
  (recordOk r = true → ∃ u, Happens s (.configRecordWrite r) u ∧ configRecord u.manage = r ∧ u.manage.configs = s.manage.configs + 1 ∧ kept u)
  ∧ (recordOk r = false → Happens s (.configRecordWrite r) s)
  ∧ (b < 128 → 12 ≤ clock → clock ≤ 36 → ∃ u moment, Happens s (.blockClockStep b clock) u ∧ 12 ≤ blockClock u b ∧ blockClock u b ≤ clock
      ∧ (Config.blockPower b (blockClock u b) moment ≤ lookD s.manage.ceilings b 0 ∨ blockClock u b = 12)
      ∧ (∀ h, blockClock u b < h → h ≤ clock → lookD s.manage.ceilings b 0 < Config.blockPower b h moment)
      ∧ look u.manage.taken b = some (lookD s.manage.ceilings b 0) ∧ kept u)
  ∧ (∃ u, Happens s (.burnishing key ok) u ∧ u.manage.burnished = s.manage.burnished + 1 ∧ kept u
      ∧ (ok = true → u.poison = s.poison) ∧ (ok = false → strikable s key = true → u.isPoison key = true))
  ∧ (die < 8 → loop < 136 → Happens s (.calibration die loop) s)
  ∧ Happens s .refresh s
  ∧ (let recent := (s.core c).errors.filter (fun t => decide (s.manage.now < t + hour)) ++ [s.manage.now]
     c < 8192 → ∃ v, (v.core c).errors = recent ∧ v.manage.corrected = s.manage.corrected + 1 ∧ v.mem = s.mem ∧ v.ctxs = s.ctxs
      ∧ (recent.length ≤ 16 → Happens s (.correctedError c) v)
      ∧ (16 < recent.length → (s.core c).absent = false → Happens s (.correctedError c) (advanceReset (.retire c []) v)))
  ∧ (let old := (s.manage.record ty).1
     1 ≤ ty → ty ≤ 7 → ∃ u, Happens s (.telemetrySample ty) u ∧ kept u
      ∧ (old % 2 = 1 → (u.manage.record ty).1 = (old + 1) % 2 ^ 32)
      ∧ (old % 2 = 0 → s.env.prompt = false → (u.manage.record ty).1 = (old + 1) % 2 ^ 32)
      ∧ (old % 2 = 0 → s.env.prompt = true → (u.manage.record ty).1 = (old + 2) % 2 ^ 32)
      ∧ (let header := ((u.manage.record ty).2.headD 0).toNat
         header / 2 ^ 32 = (u.manage.record ty).1 ∧ header / 2 ^ 8 % 2 ^ 8 = 1 ∧ header % 2 ^ 8 = ty))

/-- R142, R348, R350, R351: the reset ladder and the retirement of a core. A core reset that stops no thread happens at once, a package reset
ends every context and keeps the memory of the tiers, a module reset loses far memory.
The model's choices here: log 1 (a byte of memory that is lost reads 0); log 48 (what a core reset covers); log 49 (what the other resets
keep); log 50 (what a retirement loses). -/
def Obligations.Resets : Prop := ∀ (s : State) (c b die : Nat) (lost : List Nat),
  let advanced := fun (kind : ResetKind) (u : State) =>
    let begun := match s.manage.resets.find? (·.kind == kind) with
      | some r => (r, s.modManage fun m => { m with resets := dropFirst (· == r) m.resets })
      | none => beginReset s kind
    let g := gatherReset begun.2 begun.1
    (resetReady g.2 g.1 = true → u = finishReset g.2 g.1)
      ∧ (resetReady g.2 g.1 = false → u = g.2.modManage fun m => { m with resets := m.resets ++ [g.1] })
  let quiet := fun (kind : ResetKind) => c < 8192 ∧ (s.core c).absent = false ∧ (look s.cores c).isSome = true ∧ liveOn s [c] = []
    ∧ s.manage.resets.any (·.kind == kind) = false ∧ (∀ w ∈ s.waiters, w.va.getLsbD 63 = true → fabCore w.va ≠ c)
  let restarted := fun (u : State) => (∀ c t, t < 63 → c < 8192 ∨ t ≠ 0 → (u.slot c t).phase = .free)
    ∧ (∀ c, u.slot c 63 = Slot.firmware) ∧ (∀ c, 8192 ≤ c → u.slot c 0 = Slot.firmware)
  (c < 8192 → (s.core c).absent = false → ∃ u, Happens s (.coreReset c) u ∧ advanced (.core c) u)
  ∧ (quiet (.core c) → ∃ u, Happens s (.coreReset c) u ∧ (u.core c).rings = [] ∧ (u.core c).cyc = 0
        ∧ (u.core c).table0 = .preset .e4m3 ∧ (u.core c).table1 = .preset .e5m2
        ∧ (∀ o, o < 2 ^ 20 → u.byte (spadKey c o) = 0 ∧ u.isFull (spadKey c o) = false) ∧ (∀ pc, u.code c pc = 0)
        ∧ (∀ e, u.entry c e = s.entry c e) ∧ (∀ k, k < 2 ^ 63 → u.byte k = s.byte k))
  ∧ (b < 128 → ∃ u, Happens s (.blockReset b) u ∧ advanced (.block b) u)
  ∧ (die < 8 → ∃ u, Happens s (.dieReset die) u ∧ advanced (.die die) u)
  ∧ (c < 8192 → (s.core c).absent = false → ∃ u, Happens s (.coreRetirement c lost) u ∧ advanced (.retire c lost) u)
  ∧ (quiet (.retire c lost) → lookD s.manage.sparesUsed (c / 1024) 0 < 32 → ∃ u, Happens s (.coreRetirement c lost) u
      ∧ (u.core c).spare = true ∧ (u.core c).absent = false ∧ (u.core c).errors = [] ∧ (u.core c).cyc = 0
      ∧ lookD u.manage.sparesUsed (c / 1024) 0 = lookD s.manage.sparesUsed (c / 1024) 0 + 1)
  ∧ (c < 8192 → (s.core c).absent = true → Happens s (.coreReset c) s ∧ Happens s (.coreRetirement c lost) s)
  ∧ (∃ u, Happens s .packageReset u ∧ u.ctxs = [] ∧ u.flights = [] ∧ u.waiters = [] ∧ u.faults = [] ∧ u.dirs = [] ∧ u.tlbs = []
      ∧ (s.ctxs = [] → s.manage.adminQueue.entries = [] → ∀ k, k < 2 ^ 63 → u.byte k = s.byte k) ∧ (∀ k, 2 ^ 63 ≤ k → u.byte k = 0)
      ∧ restarted u ∧ (∀ c e, u.entry c e = 0 ∧ u.emptyAt c e = false))
  ∧ (∃ u, Happens s .moduleReset u ∧ u.ctxs = [] ∧ u.cores = [] ∧ u.full = [] ∧ u.flights = [] ∧ restarted u
      ∧ (∀ ty, (u.manage.record ty).1 = 0)
      ∧ (∀ k, 2 ^ 48 ≤ k → k < 2 ^ 49 → u.byte k = 0 ∧ u.isPoison k = false))
  ∧ (∀ e : Engine, e ≠ .daward → Happens s (.engineReset e) s)
  ∧ (s.manage.daward.pending = false → Happens s (.engineReset .daward) s)
  ∧ (s.manage.daward.pending = true → ∃ u, Happens s (.engineReset .daward) u ∧ u.manage.daward = s.manage.daward.activate 1
      ∧ (∀ ty, ty < 8 → (u.manage.record ty).1 % 2 = 0))

/-- R353 to R355: the responder answers, and a firmware image is updated and activated.
The model's choices here: log 45 (the idle points); log 47 (the words of an answer). -/
def Obligations.IdentityAndFirmware : Prop := ∀ (s : State) (algs slot nonce index version : Nat) (img : Image) (signed : Bool),
  let answers := fun (i : Instr) (kind : Nat) (words : List Word) => ∃ u, Happens s i u ∧ u.manage.spdm = kind ∧ u.manage.answer = words
    ∧ u.manage.answers = s.manage.answers + 1 ∧ u.mem = s.mem ∧ u.cores = s.cores ∧ u.ctxs = s.ctxs
  let f := s.manage.image img
  answers .getVersion 1 (answerOf 1 []) ∧ answers .getCapabilities 2 (answerOf 2 [])
  ∧ answers (.negotiateAlgorithms algs) 3 (answerOf 3 [algs]) ∧ answers .getDigests 4 (answerOf 4 [])
  ∧ answers (.getCertificate slot) 5 (answerOf 5 [slot]) ∧ answers (.challenge slot nonce) 6 (answerOf 6 [slot, nonce, s.manage.answers])
  ∧ answers (.getMeasurements index) 7 (measurementOf s.manage index)
  ∧ (activationPending s img = true → ∃ u, Happens s (.firmwareUpdate img version signed) u ∧ u.manage.pldmStatus = 2 ∧ u.manage.image img = f)
  ∧ (activationPending s img = false → signed = true → f.version (imageIndex img) ≤ version →
      ∃ u, Happens s (.firmwareUpdate img version signed) u ∧ u.manage.pldmStatus = 0 ∧ u.manage.image img = { f with inactive := some version })
  ∧ (activationPending s img = false → signed = false ∨ version < f.version (imageIndex img) →
      ∃ u, Happens s (.firmwareUpdate img version signed) u ∧ u.manage.pldmStatus = 1 ∧ u.manage.image img = f)
  ∧ (f.inactive ≠ none → atIdlePoint s img = true → ∃ u, Happens s (.imageActivation img) u ∧ u.manage.image img = f.activate (imageIndex img)
      ∧ (u.manage.image img).active = f.inactive)
  ∧ (f.inactive ≠ none → atIdlePoint s img = false → ∃ u, Happens s (.imageActivation img) u ∧ u.manage.image img = { f with pending := true })

/-- R217, R220, R291, R326, R345: the debugger stops a thread, lets it go on, steps it, and prints; a command that only prints changes nothing
else.
The model's choices here: log 54 (the words that a command prints). -/
def Obligations.DebuggerCommands : Prop := ∀ (s : State) (c t x va slice tier die n v h l0 l1 : Nat) (conts : List (Nat × Nat))
    (fmt : PrintFmt),
  let l := s.slot c t
  let prints := fun (i : Instr) => ∃ words, Happens s i (s.modManage fun m => { m with printed := words })
  let d := s.dirOf x (va / 128)
  (let p := (s.ctxOf c t, c, t, l.pc.toNat)
   let u := s.modManage fun m => { m with breaks := if m.breaks.contains p then m.breaks else m.breaks ++ [p] }
   c < 8192 → t < 64 → l.phase = .ready → l.held = none → l.passBrk ≠ some l.pc.toNat →
      Happens s (.breakpointStop (c, t) (s.ctxOf c t, l.pc.toNat)) (debugStop c t u))
  ∧ (∀ addr, c < 8192 → t < 64 → l.pc.toNat ≠ addr → ∃ u, Happens s (.breakpointStop (c, t) (x, addr)) u ∧ (x, c, t, addr) ∈ u.manage.breaks
      ∧ u.cores = s.cores ∧ u.mem = s.mem)
  ∧ (c < 8192 → t < 64 → l.rudb = true → Happens s (.cont c t) (leaveStop c t s)
      ∧ (l.phase = .stopped → Happens s (.step c t) (turn execThread c t ((leaveStop c t s).modSlot c t fun l => { l with oneStep := true }))))
  ∧ Happens s (.dir x va) (s.modManage fun m => { m with printed := dirWords d ++ d.regs.map recordWord })
  ∧ (∃ u, Happens s (.trace slice x va) u ∧ (slice, x, va / 128) ∈ u.manage.traces ∧ u.mem = s.mem ∧ u.cores = s.cores ∧ u.dirs = s.dirs)
  ∧ (∀ p, locate s x true (BitVec.ofNat 64 (va / 8 * 8)) 8 forLoad = .ok p → Happens s (.fe x va) (s.modManage fun m =>
      { m with printed := [BitVec.ofNat 64 (ofBytes (loadAt s p 8)), if s.isFull p.key && !p.dead then 1 else 0] }))
  ∧ (prints (.fe x va) ∧ prints (.waiters (slice, x) va) ∧ prints (.sheet (x, none)) ∧ prints (.sheet (x, some n)) ∧ prints (.views x) ∧ prints (.obj x h) ∧ prints (.tap x h))
  ∧ (c < 8192 → prints (.comb c))
  ∧ (c < 8192 → t < 64 → v < 16 → l0 ≤ l1 → l1 < 16 →
      let lane := fun (j : Nat) => BitVec.ofNat 32 ((s.entry c ((winOf t l).1 + 8 * v + j / 2)).toNat / 2 ^ (32 * (j % 2)))
      Happens s (.vreg c t ⟨v, fmt, l0, l1⟩) (s.modManage fun m =>
        { m with printed := (List.range (l1 + 1 - l0)).map fun i =>
            if fmt = .i32 then (lane (l0 + i)).signExtend 64 else (lane (l0 + i)).setWidth 64 }))
  ∧ (tier ≤ 1 → die < 8 → (∀ r ∈ s.manage.running, tierKey r.tier r.die ≠ tierKey tier die) →
      Happens s (.remeltSweep (tier, die) n conts) (conts.foldl (fun u p => if slotOk p.1 p.2 = true then contThread p.1 p.2 u else u)
        (startSweep (s.modManage fun m => { m with printed := [] }) tier die (some n))))

/-! The decoder, the step, reset and the invariant. -/

/-- R26 to R53: the bundle that the encoder gives a well-formed instruction decodes to it, alone; and a pair of words whose classes, majors and
destinations fit decodes to the pair.
R30 to R32, R41: the decoder accepts only the exact encoding of a bundle of well-formed instructions, so no two words mean one bundle and no
reserved bit is passed over. -/
def Obligations.DecodeEncode : Prop :=
  ((∀ (i : Instr) (n : Nat), i.wf = true → encode i = some n → n < 2 ^ 64 ∧ decodeBundle n = .ok (.lone i))
  ∧ (∀ (c a : Instr) (h t : Nat), c.wf = true → a.wf = true → encodeParts c = some (h, 0) → encodeParts a = some (t, 0) →
      32 ≤ fOp h → fOp t < 32 → loneMajor (fOp h) = false → loneMajor (fOp t) = false → overlapping c a = false →
      encodePair c a = some (t * 2 ^ 32 + h) ∧ decodeBundle (t * 2 ^ 32 + h) = .ok (.pair c a)))
  ∧ (∀ (n : Nat) (b : Bundle), n < 2 ^ 64 → decodeBundle n = .ok b →
  encodeBundle b = some n ∧ (match b with | .lone i => i.wf = true | .pair c a => c.wf = true ∧ a.wf = true ∧ overlapping c a = false))

/-- Words written out from the encodings of R26 to R53.
The model's choices here: log 10 (how a 32-bit word of the table is placed). -/
def Obligations.DecodeWords : Prop :=
  decodeBundle 0x0E14307274000000 = .ok (.pair .nop (.addsh 5 ⟨6, false⟩ ⟨7, false⟩ 3))
  ∧ decodeBundle 0x20000000BE242050 = .ok (.lone (.rand 9 ⟨4, false⟩ ⟨5, false⟩))
  ∧ decodeBundle 0x62000000FE000000 = .ok (.lone .cfin)
  ∧ decodeTableWord 32 0xF4000000 = some .nop

/-- R22, R42, R43, R82, R157, R253: a step that issues a thread whose bundle decodes runs exactly the decoded instructions, between the beginning
and the end of the thread's turn; a step that lets an event happen runs that event.
A pair runs its C-slot, and its A-slot unless the C-slot stops; a matrix operation makes its checks before anything of its C-slot is
performed.
The model's choices here: log 9 (the agenda of choices); log 11 (the order with an empty agenda); log 25 (the order of a C-slot and its
matrix operation). -/
def Obligations.StepRunsDecoded : Prop := ∀ (s : State) (c t : Nat) (rest : List Move) (i j : Instr),
  let s0 := { s with env := { s.env with agenda := rest } }
  let p := beginTurn s0 c t
  let both := p.modIss fun k => { k with pair := true, src := some p.srcFile }
  let checked := both.modIss fun k => { k with passed := true }
  (s.env.agenda = .issue c t :: rest → MayTurn s0 c t (.lone i) →
      ∃ u, exec i p = .next u ∧ step s = .next (endTurn s0 u c t))
  ∧ (∀ u, s.env.agenda = .issue c t :: rest → MayTurn s0 c t (.pair i j) → checks both [i, j] = .ok () → mmaOperands j = none →
      exec i checked = .next u →
      (∀ v, u.iss.out = .running → exec j u = .next v → v.iss.out = .running → step s = .next (endTurn s0 (finishPair [i, j] v) c t))
      ∧ (u.iss.out ≠ .running → step s = .next (endTurn s0 u c t)))
  ∧ (∀ f acc qa qb keepb zero u, s.env.agenda = .issue c t :: rest → MayTurn s0 c t (.pair i j) → checks both [i, j] = .ok () →
      mmaOperands j = some (f, acc, qa, qb, keepb, zero) → checked.cur.mop = none → exec i checked = .next u →
      let goes := u.iss.out = .running ∨ (u.iss.out = .waiting ∧ sendsAccess i = true)
      let atOnce := u.iss.out = .running ∧ mmaAtOnce checked acc qa qb = true
      (¬goes → step s = .next (endTurn s0 u c t))
      ∧ (∀ info ring, goes → mmaFails checked f acc qa qb = some (info, ring) →
          step s = .next (endTurn s0 (stopped true p (.trap cRING info (wd ring))) c t))
      ∧ (∀ v w, mmaFails checked f acc qa qb = none → atOnce → exec j checked = .next v → exec i v = .next w →
          step s = .next (endTurn s0 (finishPair [i, j] w) c t))
      ∧ (mmaFails checked f acc qa qb = none → goes → ¬atOnce →
          step s = .next (endTurn s0 (awaitMma exec i j (issueMma checked f acc qa qb zero)) c t)))
  ∧ (s.env.agenda = .event i :: rest → isRulis i = false → step s = exec i s0)
  ∧ (s.env.agenda = [] → step s = .next (proceed s))

/-- R62, R131, R132, R162, R191, R194, R202, R227, R241, R243: the state after module reset, where the spec gives it; memory has its canonical
form. That a byte of memory reads 0 is the model's choice (log 1).
The model's choices here: log 1 (a byte of memory reads 0); log 2 (the registers of a slot without a thread); log 7 (the pieces of a
context); log 61 (the firmware threads of slot 63). -/
def Obligations.ResetState : Prop := ∀ (c t n k : Nat),
  let s := State.reset
  let l := s.slot c t
  (t < 63 → c < 8192 ∨ t ≠ 0 → l.phase = .free ∧ l.st.word = 0) ∧ s.slot c 63 = Slot.firmware ∧ (8192 ≤ c → s.slot c 0 = Slot.firmware)
  ∧ Slot.firmware.phase = .waiting ∧ Slot.firmware.st.word = 4
  ∧ l.epc = 0 ∧ l.cause = 0 ∧ l.tval = 0 ∧ l.waitlim = 0 ∧ l.viewlim = 0 ∧ l.unack = 0 ∧ l.dtsel = false
  ∧ l.prio = 0 ∧ l.latch = 0 ∧ l.streams = [] ∧ maskPair l n = ⟨-1, -1⟩
  ∧ (s.core c).msglim = 1024 ∧ (s.core c).cyc = 0 ∧ (s.core c).mbox = [] ∧ (s.core c).spad = 0 ∧ (s.core c).vgroup = 0
  ∧ (s.core c).table0 = .preset .e4m3 ∧ (s.core c).table1 = .preset .e5m2 ∧ (s.core c).rings = [] ∧ (s.seg c n).st = .empty
  ∧ (s.manage.record n).1 = 0 ∧ chanRecord ((s.core c).chan n) = 0 ∧ s.isFull k = false ∧ s.dirs = [] ∧ s.flights = [] ∧ (s.ctx n).st = .free ∧ s.byte k = 0 ∧ s.memOk

/-- The canonical form of the memory (the model's own: addresses rising, no byte listed that reads as an unlisted one does) is kept by every
step, whatever it does.
The model's choices here: log 1 (what an unlisted byte reads as). -/
def Obligations.StepKeepsMemoryCanonical : Prop := ∀ (s t : State), s.memOk → step s = .next t → t.memOk
end

