-- ==== Sys2Proof/Laws/Lists.lean ====
section
/-!
SUPPORT. Reading after writing for the sparse arrays and the lists of numbers of the state.
-/
namespace Sys2Proof.Machine

theorem look_put_self {β : Type} (m : List (Nat × β)) (k : Nat) (v : β) : look (put m k v) k = some v := by
  induction m with
  | nil => simp [put, look]
  | cons a t ih =>
    obtain ⟨j, w⟩ := a
    simp only [put]
    split
    · simp [look]
    · split
      · simp [look]
      · rename_i h
        simp [look, Ne.symm h, ih]

theorem look_put_ne {β : Type} (m : List (Nat × β)) {k j : Nat} (v : β) (h : j ≠ k) : look (put m k v) j = look m j := by
  induction m with
  | nil => simp [put, look, Ne.symm h]
  | cons a t ih =>
    obtain ⟨i, w⟩ := a
    simp only [put]
    split
    · simp [look, Ne.symm h]
    · split
      · rename_i h'
        subst h'
        simp [look, Ne.symm h]
      · simp [look, ih]

theorem look_put {β : Type} (m : List (Nat × β)) (k j : Nat) (v : β) :
    look (put m k v) j = if j = k then some v else look m j := by
  by_cases h : j = k
  · subst h; simp [look_put_self]
  · simp [h, look_put_ne]

theorem look_del {β : Type} (m : List (Nat × β)) (k j : Nat) : look (del m k) j = if j = k then none else look m j := by
  induction m with
  | nil => simp [del, look]
  | cons a t ih =>
    obtain ⟨i, w⟩ := a
    unfold del at ih
    by_cases hi : i = k
    · subst hi
      simp only [del, bne_self_eq_false, Bool.false_eq_true, not_false_eq_true, List.filter_cons_of_neg, ih]
      by_cases hj : j = i
      · simp [hj]
      · simp [hj, look, Ne.symm hj]
    · rw [del, List.filter_cons_of_pos (by simpa using hi), look, look]
      by_cases hij : i = j
      · subst hij; simp [hi]
      · simp only [hij, if_false]; exact ih

@[simp] theorem lookD_put {β : Type} (m : List (Nat × β)) (k j : Nat) (v d : β) :
    lookD (put m k v) j d = if j = k then v else lookD m j d := by
  simp only [lookD, look_put]; split <;> simp

@[simp] theorem lookD_putD {β : Type} [DecidableEq β] (m : List (Nat × β)) (k j : Nat) (v d : β) :
    lookD (putD m k v d) j d = if j = k then v else lookD m j d := by
  unfold putD
  split
  · rename_i h
    simp only [lookD, look_del]; split <;> simp [h]
  · exact lookD_put m k j v d

@[simp] theorem mem_insN (l : List Nat) (k j : Nat) : j ∈ insN l k ↔ j = k ∨ j ∈ l := by
  induction l with
  | nil => simp [insN]
  | cons a t ih =>
    simp only [insN]
    split
    · simp
    · split
      · rename_i h; subst h; simp
      · rw [List.mem_cons, ih, List.mem_cons]; exact or_left_comm

@[simp] theorem mem_delN (l : List Nat) (k j : Nat) : j ∈ delN l k ↔ j ≠ k ∧ j ∈ l := by
  simp [delN, and_comm]

theorem look_append {β : Type} (a b : List (Nat × β)) (k : Nat) : look (a ++ b) k = (look a k).or (look b k) := by
  induction a with
  | nil => simp [look]
  | cons p t ih =>
    obtain ⟨i, w⟩ := p
    by_cases h : i = k <;> simp [look, h, ih]

theorem look_none {β : Type} (m : List (Nat × β)) (k : Nat) (h : ∀ p ∈ m, p.1 ≠ k) : look m k = none := by
  induction m with
  | nil => rfl
  | cons p t ih =>
    obtain ⟨i, w⟩ := p
    have := h (i, w) (by simp)
    simp only [look]
    rw [if_neg this]
    exact ih (fun q hq => h q (List.mem_cons_of_mem _ hq))

theorem look_filter {β : Type} (m : List (Nat × β)) (q : Nat → Bool) (k : Nat) :
    look (m.filter (fun p => q p.1)) k = if q k then look m k else none := by
  induction m with
  | nil => simp [look]
  | cons p t ih =>
    obtain ⟨i, w⟩ := p
    by_cases hi : q i
    · rw [List.filter_cons_of_pos (by simpa using hi)]
      by_cases h : i = k
      · subst h; simp [look, hi]
      · simp [look, h, ih]
    · rw [List.filter_cons_of_neg (by simpa using hi), ih]
      by_cases h : i = k
      · subst h; simp [hi]
      · simp [look, h]

end Sys2Proof.Machine
end

