-- ==== Sys2Proof/Laws/Memory.lean ====
section
/-!
SUPPORT. The list of memory bytes: its canonical form, which every memory operation keeps, and reading after writing.
-/
namespace Sys2Proof.Machine

/-! Little-endian numbers (R6). -/

@[simp] theorem toBytes_length (n v : Nat) : (toBytes n v).length = n := by
  induction n generalizing v with
  | zero => rfl
  | succ n ih => simp [toBytes, ih]

theorem ofBytes_toBytes (n v : Nat) : ofBytes (toBytes n v) = v % 256 ^ n := by
  induction n generalizing v with
  | zero => simp [toBytes, ofBytes, Nat.mod_one]
  | succ n ih =>
    simp only [toBytes, ofBytes, ih, BitVec.toNat_ofNat, Nat.reducePow]
    rw [Nat.pow_succ, Nat.mul_comm (256 ^ n) 256, Nat.mod_mul]

/-- The bytes of element i of a list whose elements take `n` bytes each. -/
theorem take_drop_flatMap {α : Type} (f : α → List Byte) (n : Nat) (hf : ∀ a, (f a).length = n) (v : List α) (i : Nat) (h : i < v.length) :
    ((v.flatMap f).drop (n * i)).take n = f v[i] := by
  induction v generalizing i with
  | nil => simp at h
  | cons a t ih =>
    cases i with
    | zero => simp [← hf a]
    | succ i =>
      have h' : i < t.length := by simpa using h
      have e : n * (i + 1) = (f a).length + n * i := by rw [hf, Nat.mul_succ, Nat.add_comm]
      rw [List.flatMap_cons, e, ← List.drop_drop, List.drop_left]
      simpa using ih i h'

/-- A list of 32-bit entries is what its little-endian bytes hold (R6, R63). -/
theorem lanes_of_bytes (v : List Lane) :
    ((List.range v.length).map fun i => BitVec.ofNat 32 (ofBytes (((v.flatMap fun e => toBytes 4 e.toNat).drop (4 * i)).take 4))) = v := by
  apply List.ext_getElem
  · simp
  · intro i h1 h2
    rw [List.getElem_map, List.getElem_range, take_drop_flatMap (fun e : Lane => toBytes 4 e.toNat) 4 (fun e => toBytes_length 4 _) v i h2,
      ofBytes_toBytes]
    apply BitVec.eq_of_toNat_eq
    have := (v[i]).isLt
    simp only [BitVec.toNat_ofNat]
    omega

/-! The canonical form. -/

theorem wf_cons (c : Host.Cell) (t : List Host.Cell) :
    Memory.wf (c :: t) = true ↔ c.2 ≠ 0 ∧ (∀ d ∈ t.head?, c.1 < d.1) ∧ Memory.wf t = true := by
  cases t with
  | nil => simp [Memory.wf]
  | cons d t => simp [Memory.wf, and_assoc]

theorem wf_iff (l : List Host.Cell) :
    Memory.wf l = true ↔ l.Pairwise (fun a b => a.1 < b.1) ∧ ∀ c ∈ l, c.2 ≠ 0 := by
  induction l with
  | nil => simp [Memory.wf]
  | cons c t ih =>
    rw [wf_cons, ih, List.pairwise_cons]
    constructor
    · rintro ⟨h0, h1, hp, hz⟩
      refine ⟨⟨?_, hp⟩, ?_⟩
      · intro d hd
        cases t with
        | nil => simp at hd
        | cons e t =>
          have he : c.1 < e.1 := h1 e (by simp)
          rcases List.mem_cons.1 hd with rfl | hd
          · exact he
          · exact Nat.lt_trans he ((List.pairwise_cons.1 hp).1 d hd)
      · intro d hd
        rcases List.mem_cons.1 hd with rfl | hd
        · exact h0
        · exact hz d hd
    · rintro ⟨⟨h1, hp⟩, hz⟩
      exact ⟨hz c (by simp), fun d hd => h1 d (List.mem_of_mem_head? hd), hp, fun d hd => hz d (List.mem_cons_of_mem _ hd)⟩

theorem cellsFrom_bounds (k : Nat) (bs : List Byte) :
    ∀ c ∈ cellsFrom k bs, k ≤ c.1 ∧ c.1 < k + bs.length ∧ c.2 ≠ 0 := by
  induction bs generalizing k with
  | nil => simp [cellsFrom]
  | cons b t ih =>
    intro c hc
    simp only [cellsFrom] at hc
    split at hc
    · have := ih (k + 1) c hc
      exact ⟨by omega, by simp only [List.length_cons]; omega, this.2.2⟩
    · rename_i hb
      rcases List.mem_cons.1 hc with rfl | hc
      · exact ⟨Nat.le_refl _, by simp, hb⟩
      · have := ih (k + 1) c hc
        exact ⟨by omega, by simp only [List.length_cons]; omega, this.2.2⟩

theorem cellsFrom_sorted (k : Nat) (bs : List Byte) : (cellsFrom k bs).Pairwise (fun a b => a.1 < b.1) := by
  induction bs generalizing k with
  | nil => simp [cellsFrom]
  | cons b t ih =>
    simp only [cellsFrom]
    split
    · exact ih (k + 1)
    · exact List.pairwise_cons.2 ⟨fun d hd => by have := cellsFrom_bounds (k + 1) t d hd; dsimp; omega, ih (k + 1)⟩

/-- Writing bytes keeps the canonical form. -/
theorem setBytes_wf (s : State) (k : Nat) (bs : List Byte) (h : Memory.wf s.mem = true) :
    Memory.wf (s.setBytes k bs).mem = true := by
  rw [wf_iff] at h ⊢
  obtain ⟨hp, hz⟩ := h
  simp only [State.setBytes]
  constructor
  · rw [List.append_assoc, List.pairwise_append]
    refine ⟨hp.filter _, ?_, ?_⟩
    · rw [List.pairwise_append]
      refine ⟨cellsFrom_sorted k bs, hp.filter _, ?_⟩
      intro a ha b hb
      have := cellsFrom_bounds k bs a ha
      simp at hb
      omega
    · intro a ha b hb
      simp at ha
      rcases List.mem_append.1 hb with hb | hb
      · have := cellsFrom_bounds k bs b hb; omega
      · simp at hb; omega
  · intro c hc
    rcases List.mem_append.1 hc with hc | hc
    · rcases List.mem_append.1 hc with hc | hc
      · exact hz c (List.mem_filter.1 hc).1
      · exact (cellsFrom_bounds k bs c hc).2.2
    · exact hz c (List.mem_filter.1 hc).1

theorem setNum_wf (s : State) (k n v : Nat) (h : Memory.wf s.mem = true) : Memory.wf (s.setNum k n v).mem = true :=
  setBytes_wf s k _ h

theorem storeAt_wf (s : State) (k : Nat) (bs : List Byte) (h : Memory.wf s.mem = true) :
    Memory.wf (storeAt s k bs).mem = true :=
  setBytes_wf s k bs h

/-- Bytes that leave, or that move by an increasing map, keep the canonical form. -/
theorem filterMap_wf (l : List Host.Cell) (f : Nat → Option Nat)
    (mono : ∀ a b a' b', f a = some a' → f b = some b' → a < b → a' < b') (h : Memory.wf l = true) :
    Memory.wf (l.filterMap (fun p => (f p.1).map (fun k => (k, p.2)))) = true := by
  rw [wf_iff] at h ⊢
  obtain ⟨hp, hz⟩ := h
  constructor
  · refine List.Pairwise.filterMap _ ?_ hp
    intro a a' haa b hb b' hb'
    simp only [Option.map_eq_some_iff] at hb hb'
    obtain ⟨x, hx, rfl⟩ := hb
    obtain ⟨y, hy, rfl⟩ := hb'
    exact mono _ _ _ _ hx hy haa
  · intro c hc
    obtain ⟨a, ha, h⟩ := List.mem_filterMap.1 hc
    simp only [Option.map_eq_some_iff] at h
    obtain ⟨x, _, rfl⟩ := h
    exact hz a ha

theorem filter_wf (l : List Host.Cell) (q : Host.Cell → Bool) (h : Memory.wf l = true) : Memory.wf (l.filter q) = true := by
  rw [wf_iff] at h ⊢
  exact ⟨h.1.filter _, fun c hc => h.2 c (List.mem_filter.1 hc).1⟩

/-- The storage of a version holds its bytes as every other memory does (R259). -/
theorem bufStore_wf (s : State) (u : Buf) (o : Nat) (bs : List Byte) (h : Memory.wf s.mem = true) :
    Memory.wf (bufStore s u o bs).mem = true := by
  unfold bufStore
  induction parts 4096 o bs.length generalizing s with
  | nil => exact h
  | cons p t ih => exact ih _ (storeAt_wf s _ _ h)

theorem zeroRange_wf (s : State) (k n : Nat) (h : Memory.wf s.mem = true) : Memory.wf (zeroRange s k n).mem = true :=
  filter_wf _ _ h

/-- The keys that a moved split keeps stay in their order (R191). -/
theorem shiftKeys_mono (lo hi d : Nat) (up : Bool) (a b a' b' : Nat) (ha : shiftKeys lo hi d up a = some a')
    (hb : shiftKeys lo hi d up b = some b') (hab : a < b) : a' < b' := by
  unfold shiftKeys at ha hb
  repeat' split at ha
  all_goals repeat' split at hb
  all_goals simp only [Option.some.injEq, reduceCtorEq] at ha hb
  all_goals omega

/-- The bytes that a moved split leaves are in canonical form (R191). -/
theorem shiftKeys_wf (l : List Host.Cell) (lo hi d : Nat) (up : Bool) (h : Memory.wf l = true) :
    Memory.wf (l.filterMap (fun p => (shiftKeys lo hi d up p.1).map (fun k => (k, p.2)))) = true :=
  filterMap_wf l _ (shiftKeys_mono lo hi d up) h

/-! Reading after writing. -/

theorem look_cellsFrom (k : Nat) (bs : List Byte) (j : Nat) :
    (look (cellsFrom k bs) j).getD 0 = if k ≤ j ∧ j < k + bs.length then bs.getD (j - k) 0 else 0 := by
  induction bs generalizing k with
  | nil => simp [cellsFrom, look]
  | cons b t ih =>
    simp only [cellsFrom, List.length_cons]
    by_cases hj : j = k
    · subst hj
      have hn : look (cellsFrom (j + 1) t) j = none :=
        look_none _ _ (fun p hp => by have := cellsFrom_bounds (j + 1) t p hp; omega)
      split
      · rename_i hb
        rw [hn, if_pos (by omega)]
        simp [hb, Memory.unlisted]
      · rw [if_pos (by omega)]
        simp [look]
    · have key : (look (cellsFrom (k + 1) t) j).getD 0 = if k ≤ j ∧ j < k + (t.length + 1) then (b :: t).getD (j - k) 0 else 0 := by
        rw [ih (k + 1)]
        by_cases h : k + 1 ≤ j ∧ j < k + 1 + t.length
        · rw [if_pos h, if_pos (by omega)]
          obtain ⟨n, hn⟩ : ∃ n, j - k = n + 1 := ⟨j - k - 1, by omega⟩
          rw [show j - (k + 1) = n by omega, hn]
          simp
        · rw [if_neg h, if_neg (by omega)]
      split
      · exact key
      · rw [look, if_neg (Ne.symm hj)]; exact key

/-- A byte after a write: the byte written, or what it was. -/
theorem byte_setBytes (s : State) (k : Nat) (bs : List Byte) (j : Nat) :
    (s.setBytes k bs).byte j = if k ≤ j ∧ j < k + bs.length then bs.getD (j - k) 0 else s.byte j := by
  simp only [State.byte, State.setBytes, lookD, Memory.unlisted, List.append_assoc, look_append]
  rw [look_filter s.mem (fun n => decide (n < k)), look_filter s.mem (fun n => decide (k + bs.length ≤ n))]
  have hc := look_cellsFrom k bs j
  have hn : (j < k ∨ k + bs.length ≤ j) → look (cellsFrom k bs) j = none :=
    fun h => look_none _ _ (fun p hp => by have := cellsFrom_bounds k bs p hp; omega)
  by_cases h1 : j < k
  · have h3 : ¬ (k ≤ j ∧ j < k + bs.length) := by omega
    have h2 : ¬ k + bs.length ≤ j := by omega
    rw [hn (.inl h1), if_neg h3]
    simp [h1, h2]
  · by_cases h2 : k + bs.length ≤ j
    · have h3 : ¬ (k ≤ j ∧ j < k + bs.length) := by omega
      rw [hn (.inr h2), if_neg h3]
      simp [h1, h2]
    · have h3 : k ≤ j ∧ j < k + bs.length := by omega
      rw [if_pos h3] at hc ⊢
      simp only [h1, h2, decide_false, Bool.false_eq_true, if_false, Option.none_or, Option.or_none]
      exact hc

/-- A write leaves every byte outside it as it was. -/
theorem byte_setBytes_ne (s : State) (k : Nat) (bs : List Byte) (j : Nat) (h : j < k ∨ k + bs.length ≤ j) :
    (s.setBytes k bs).byte j = s.byte j := by
  rw [byte_setBytes, if_neg (by omega)]

/-- The bytes read back where they were written. -/
theorem bytes_setBytes (s : State) (k : Nat) (bs : List Byte) : (s.setBytes k bs).bytes k bs.length = bs := by
  apply List.ext_getElem
  · simp [State.bytes]
  · intro i h1 h2
    simp only [State.bytes, List.getElem_map, List.getElem_range]
    rw [byte_setBytes, if_pos (by omega), Nat.add_sub_cancel_left, List.getD_eq_getElem?_getD, List.getElem?_eq_getElem h2]
    rfl

end Sys2Proof.Machine
end

