-- ==== Sys2Proof/Laws/State.lean ====
section
/-!
SUPPORT. One lemma per field of the state and update: what an update leaves, and what it sets. No later proof unfolds a record
update.
-/
namespace Sys2Proof.Machine

/-! `State.setBytes` -/

@[simp] theorem State.setBytes_full (s : State) (k : Nat) (bs : List Byte) : (s.setBytes k bs).full = s.full := rfl
@[simp] theorem State.setBytes_poison (s : State) (k : Nat) (bs : List Byte) : (s.setBytes k bs).poison = s.poison := rfl
@[simp] theorem State.setBytes_cores (s : State) (k : Nat) (bs : List Byte) : (s.setBytes k bs).cores = s.cores := rfl
@[simp] theorem State.setBytes_ctxs (s : State) (k : Nat) (bs : List Byte) : (s.setBytes k bs).ctxs = s.ctxs := rfl
@[simp] theorem State.setBytes_flights (s : State) (k : Nat) (bs : List Byte) : (s.setBytes k bs).flights = s.flights := rfl
@[simp] theorem State.setBytes_waiters (s : State) (k : Nat) (bs : List Byte) : (s.setBytes k bs).waiters = s.waiters := rfl
@[simp] theorem State.setBytes_notes (s : State) (k : Nat) (bs : List Byte) : (s.setBytes k bs).notes = s.notes := rfl
@[simp] theorem State.setBytes_dirs (s : State) (k : Nat) (bs : List Byte) : (s.setBytes k bs).dirs = s.dirs := rfl
@[simp] theorem State.setBytes_tlbs (s : State) (k : Nat) (bs : List Byte) : (s.setBytes k bs).tlbs = s.tlbs := rfl
@[simp] theorem State.setBytes_written (s : State) (k : Nat) (bs : List Byte) : (s.setBytes k bs).written = s.written := rfl
@[simp] theorem State.setBytes_faults (s : State) (k : Nat) (bs : List Byte) : (s.setBytes k bs).faults = s.faults := rfl
@[simp] theorem State.setBytes_faultSeq (s : State) (k : Nat) (bs : List Byte) : (s.setBytes k bs).faultSeq = s.faultSeq := rfl
@[simp] theorem State.setBytes_reverse (s : State) (k : Nat) (bs : List Byte) : (s.setBytes k bs).reverse = s.reverse := rfl
@[simp] theorem State.setBytes_pieces (s : State) (k : Nat) (bs : List Byte) : (s.setBytes k bs).pieces = s.pieces := rfl
@[simp] theorem State.setBytes_hostLines (s : State) (k : Nat) (bs : List Byte) : (s.setBytes k bs).hostLines = s.hostLines := rfl
@[simp] theorem State.setBytes_unwritten (s : State) (k : Nat) (bs : List Byte) : (s.setBytes k bs).unwritten = s.unwritten := rfl
@[simp] theorem State.setBytes_notices (s : State) (k : Nat) (bs : List Byte) : (s.setBytes k bs).notices = s.notices := rfl
@[simp] theorem State.setBytes_manage (s : State) (k : Nat) (bs : List Byte) : (s.setBytes k bs).manage = s.manage := rfl
@[simp] theorem State.setBytes_env (s : State) (k : Nat) (bs : List Byte) : (s.setBytes k bs).env = s.env := rfl
@[simp] theorem State.setBytes_iss (s : State) (k : Nat) (bs : List Byte) : (s.setBytes k bs).iss = s.iss := rfl

/-! `State.setNum` -/

@[simp] theorem State.setNum_full (s : State) (k n v : Nat) : (s.setNum k n v).full = s.full := rfl
@[simp] theorem State.setNum_poison (s : State) (k n v : Nat) : (s.setNum k n v).poison = s.poison := rfl
@[simp] theorem State.setNum_cores (s : State) (k n v : Nat) : (s.setNum k n v).cores = s.cores := rfl
@[simp] theorem State.setNum_ctxs (s : State) (k n v : Nat) : (s.setNum k n v).ctxs = s.ctxs := rfl
@[simp] theorem State.setNum_flights (s : State) (k n v : Nat) : (s.setNum k n v).flights = s.flights := rfl
@[simp] theorem State.setNum_waiters (s : State) (k n v : Nat) : (s.setNum k n v).waiters = s.waiters := rfl
@[simp] theorem State.setNum_notes (s : State) (k n v : Nat) : (s.setNum k n v).notes = s.notes := rfl
@[simp] theorem State.setNum_dirs (s : State) (k n v : Nat) : (s.setNum k n v).dirs = s.dirs := rfl
@[simp] theorem State.setNum_tlbs (s : State) (k n v : Nat) : (s.setNum k n v).tlbs = s.tlbs := rfl
@[simp] theorem State.setNum_written (s : State) (k n v : Nat) : (s.setNum k n v).written = s.written := rfl
@[simp] theorem State.setNum_faults (s : State) (k n v : Nat) : (s.setNum k n v).faults = s.faults := rfl
@[simp] theorem State.setNum_faultSeq (s : State) (k n v : Nat) : (s.setNum k n v).faultSeq = s.faultSeq := rfl
@[simp] theorem State.setNum_reverse (s : State) (k n v : Nat) : (s.setNum k n v).reverse = s.reverse := rfl
@[simp] theorem State.setNum_pieces (s : State) (k n v : Nat) : (s.setNum k n v).pieces = s.pieces := rfl
@[simp] theorem State.setNum_hostLines (s : State) (k n v : Nat) : (s.setNum k n v).hostLines = s.hostLines := rfl
@[simp] theorem State.setNum_unwritten (s : State) (k n v : Nat) : (s.setNum k n v).unwritten = s.unwritten := rfl
@[simp] theorem State.setNum_notices (s : State) (k n v : Nat) : (s.setNum k n v).notices = s.notices := rfl
@[simp] theorem State.setNum_manage (s : State) (k n v : Nat) : (s.setNum k n v).manage = s.manage := rfl
@[simp] theorem State.setNum_env (s : State) (k n v : Nat) : (s.setNum k n v).env = s.env := rfl
@[simp] theorem State.setNum_iss (s : State) (k n v : Nat) : (s.setNum k n v).iss = s.iss := rfl

/-! `State.setTag` -/

@[simp] theorem State.setTag_mem (s : State) (k : Nat) (b : Bool) : (s.setTag k b).mem = s.mem := rfl
@[simp] theorem State.setTag_poison (s : State) (k : Nat) (b : Bool) : (s.setTag k b).poison = s.poison := rfl
@[simp] theorem State.setTag_cores (s : State) (k : Nat) (b : Bool) : (s.setTag k b).cores = s.cores := rfl
@[simp] theorem State.setTag_ctxs (s : State) (k : Nat) (b : Bool) : (s.setTag k b).ctxs = s.ctxs := rfl
@[simp] theorem State.setTag_flights (s : State) (k : Nat) (b : Bool) : (s.setTag k b).flights = s.flights := rfl
@[simp] theorem State.setTag_waiters (s : State) (k : Nat) (b : Bool) : (s.setTag k b).waiters = s.waiters := rfl
@[simp] theorem State.setTag_notes (s : State) (k : Nat) (b : Bool) : (s.setTag k b).notes = s.notes := rfl
@[simp] theorem State.setTag_dirs (s : State) (k : Nat) (b : Bool) : (s.setTag k b).dirs = s.dirs := rfl
@[simp] theorem State.setTag_tlbs (s : State) (k : Nat) (b : Bool) : (s.setTag k b).tlbs = s.tlbs := rfl
@[simp] theorem State.setTag_written (s : State) (k : Nat) (b : Bool) : (s.setTag k b).written = s.written := rfl
@[simp] theorem State.setTag_faults (s : State) (k : Nat) (b : Bool) : (s.setTag k b).faults = s.faults := rfl
@[simp] theorem State.setTag_faultSeq (s : State) (k : Nat) (b : Bool) : (s.setTag k b).faultSeq = s.faultSeq := rfl
@[simp] theorem State.setTag_reverse (s : State) (k : Nat) (b : Bool) : (s.setTag k b).reverse = s.reverse := rfl
@[simp] theorem State.setTag_pieces (s : State) (k : Nat) (b : Bool) : (s.setTag k b).pieces = s.pieces := rfl
@[simp] theorem State.setTag_hostCopies (s : State) (k : Nat) (b : Bool) : (s.setTag k b).hostCopies = s.hostCopies := rfl
@[simp] theorem State.setTag_hostLines (s : State) (k : Nat) (b : Bool) : (s.setTag k b).hostLines = s.hostLines := rfl
@[simp] theorem State.setTag_unwritten (s : State) (k : Nat) (b : Bool) : (s.setTag k b).unwritten = s.unwritten := rfl
@[simp] theorem State.setTag_notices (s : State) (k : Nat) (b : Bool) : (s.setTag k b).notices = s.notices := rfl
@[simp] theorem State.setTag_manage (s : State) (k : Nat) (b : Bool) : (s.setTag k b).manage = s.manage := rfl
@[simp] theorem State.setTag_env (s : State) (k : Nat) (b : Bool) : (s.setTag k b).env = s.env := rfl
@[simp] theorem State.setTag_iss (s : State) (k : Nat) (b : Bool) : (s.setTag k b).iss = s.iss := rfl

/-! `State.setPoison` -/

@[simp] theorem State.setPoison_mem (s : State) (k : Nat) (b : Bool) : (s.setPoison k b).mem = s.mem := rfl
@[simp] theorem State.setPoison_full (s : State) (k : Nat) (b : Bool) : (s.setPoison k b).full = s.full := rfl
@[simp] theorem State.setPoison_cores (s : State) (k : Nat) (b : Bool) : (s.setPoison k b).cores = s.cores := rfl
@[simp] theorem State.setPoison_ctxs (s : State) (k : Nat) (b : Bool) : (s.setPoison k b).ctxs = s.ctxs := rfl
@[simp] theorem State.setPoison_flights (s : State) (k : Nat) (b : Bool) : (s.setPoison k b).flights = s.flights := rfl
@[simp] theorem State.setPoison_waiters (s : State) (k : Nat) (b : Bool) : (s.setPoison k b).waiters = s.waiters := rfl
@[simp] theorem State.setPoison_notes (s : State) (k : Nat) (b : Bool) : (s.setPoison k b).notes = s.notes := rfl
@[simp] theorem State.setPoison_dirs (s : State) (k : Nat) (b : Bool) : (s.setPoison k b).dirs = s.dirs := rfl
@[simp] theorem State.setPoison_tlbs (s : State) (k : Nat) (b : Bool) : (s.setPoison k b).tlbs = s.tlbs := rfl
@[simp] theorem State.setPoison_written (s : State) (k : Nat) (b : Bool) : (s.setPoison k b).written = s.written := rfl
@[simp] theorem State.setPoison_faults (s : State) (k : Nat) (b : Bool) : (s.setPoison k b).faults = s.faults := rfl
@[simp] theorem State.setPoison_faultSeq (s : State) (k : Nat) (b : Bool) : (s.setPoison k b).faultSeq = s.faultSeq := rfl
@[simp] theorem State.setPoison_reverse (s : State) (k : Nat) (b : Bool) : (s.setPoison k b).reverse = s.reverse := rfl
@[simp] theorem State.setPoison_pieces (s : State) (k : Nat) (b : Bool) : (s.setPoison k b).pieces = s.pieces := rfl
@[simp] theorem State.setPoison_hostCopies (s : State) (k : Nat) (b : Bool) : (s.setPoison k b).hostCopies = s.hostCopies := rfl
@[simp] theorem State.setPoison_hostLines (s : State) (k : Nat) (b : Bool) : (s.setPoison k b).hostLines = s.hostLines := rfl
@[simp] theorem State.setPoison_unwritten (s : State) (k : Nat) (b : Bool) : (s.setPoison k b).unwritten = s.unwritten := rfl
@[simp] theorem State.setPoison_notices (s : State) (k : Nat) (b : Bool) : (s.setPoison k b).notices = s.notices := rfl
@[simp] theorem State.setPoison_manage (s : State) (k : Nat) (b : Bool) : (s.setPoison k b).manage = s.manage := rfl
@[simp] theorem State.setPoison_env (s : State) (k : Nat) (b : Bool) : (s.setPoison k b).env = s.env := rfl
@[simp] theorem State.setPoison_iss (s : State) (k : Nat) (b : Bool) : (s.setPoison k b).iss = s.iss := rfl

/-! `State.setCore` -/

@[simp] theorem State.setCore_mem (s : State) (c : Nat) (k : Core) : (s.setCore c k).mem = s.mem := rfl
@[simp] theorem State.setCore_full (s : State) (c : Nat) (k : Core) : (s.setCore c k).full = s.full := rfl
@[simp] theorem State.setCore_poison (s : State) (c : Nat) (k : Core) : (s.setCore c k).poison = s.poison := rfl
@[simp] theorem State.setCore_ctxs (s : State) (c : Nat) (k : Core) : (s.setCore c k).ctxs = s.ctxs := rfl
@[simp] theorem State.setCore_flights (s : State) (c : Nat) (k : Core) : (s.setCore c k).flights = s.flights := rfl
@[simp] theorem State.setCore_waiters (s : State) (c : Nat) (k : Core) : (s.setCore c k).waiters = s.waiters := rfl
@[simp] theorem State.setCore_notes (s : State) (c : Nat) (k : Core) : (s.setCore c k).notes = s.notes := rfl
@[simp] theorem State.setCore_dirs (s : State) (c : Nat) (k : Core) : (s.setCore c k).dirs = s.dirs := rfl
@[simp] theorem State.setCore_tlbs (s : State) (c : Nat) (k : Core) : (s.setCore c k).tlbs = s.tlbs := rfl
@[simp] theorem State.setCore_written (s : State) (c : Nat) (k : Core) : (s.setCore c k).written = s.written := rfl
@[simp] theorem State.setCore_faults (s : State) (c : Nat) (k : Core) : (s.setCore c k).faults = s.faults := rfl
@[simp] theorem State.setCore_faultSeq (s : State) (c : Nat) (k : Core) : (s.setCore c k).faultSeq = s.faultSeq := rfl
@[simp] theorem State.setCore_reverse (s : State) (c : Nat) (k : Core) : (s.setCore c k).reverse = s.reverse := rfl
@[simp] theorem State.setCore_pieces (s : State) (c : Nat) (k : Core) : (s.setCore c k).pieces = s.pieces := rfl
@[simp] theorem State.setCore_hostCopies (s : State) (c : Nat) (k : Core) : (s.setCore c k).hostCopies = s.hostCopies := rfl
@[simp] theorem State.setCore_hostLines (s : State) (c : Nat) (k : Core) : (s.setCore c k).hostLines = s.hostLines := rfl
@[simp] theorem State.setCore_unwritten (s : State) (c : Nat) (k : Core) : (s.setCore c k).unwritten = s.unwritten := rfl
@[simp] theorem State.setCore_notices (s : State) (c : Nat) (k : Core) : (s.setCore c k).notices = s.notices := rfl
@[simp] theorem State.setCore_manage (s : State) (c : Nat) (k : Core) : (s.setCore c k).manage = s.manage := rfl
@[simp] theorem State.setCore_env (s : State) (c : Nat) (k : Core) : (s.setCore c k).env = s.env := rfl
@[simp] theorem State.setCore_iss (s : State) (c : Nat) (k : Core) : (s.setCore c k).iss = s.iss := rfl

/-! `State.modCore` -/

@[simp] theorem State.modCore_mem (s : State) (c : Nat) (f : Core → Core) : (s.modCore c f).mem = s.mem := rfl
@[simp] theorem State.modCore_full (s : State) (c : Nat) (f : Core → Core) : (s.modCore c f).full = s.full := rfl
@[simp] theorem State.modCore_poison (s : State) (c : Nat) (f : Core → Core) : (s.modCore c f).poison = s.poison := rfl
@[simp] theorem State.modCore_ctxs (s : State) (c : Nat) (f : Core → Core) : (s.modCore c f).ctxs = s.ctxs := rfl
@[simp] theorem State.modCore_flights (s : State) (c : Nat) (f : Core → Core) : (s.modCore c f).flights = s.flights := rfl
@[simp] theorem State.modCore_waiters (s : State) (c : Nat) (f : Core → Core) : (s.modCore c f).waiters = s.waiters := rfl
@[simp] theorem State.modCore_notes (s : State) (c : Nat) (f : Core → Core) : (s.modCore c f).notes = s.notes := rfl
@[simp] theorem State.modCore_dirs (s : State) (c : Nat) (f : Core → Core) : (s.modCore c f).dirs = s.dirs := rfl
@[simp] theorem State.modCore_tlbs (s : State) (c : Nat) (f : Core → Core) : (s.modCore c f).tlbs = s.tlbs := rfl
@[simp] theorem State.modCore_written (s : State) (c : Nat) (f : Core → Core) : (s.modCore c f).written = s.written := rfl
@[simp] theorem State.modCore_faults (s : State) (c : Nat) (f : Core → Core) : (s.modCore c f).faults = s.faults := rfl
@[simp] theorem State.modCore_faultSeq (s : State) (c : Nat) (f : Core → Core) : (s.modCore c f).faultSeq = s.faultSeq := rfl
@[simp] theorem State.modCore_reverse (s : State) (c : Nat) (f : Core → Core) : (s.modCore c f).reverse = s.reverse := rfl
@[simp] theorem State.modCore_pieces (s : State) (c : Nat) (f : Core → Core) : (s.modCore c f).pieces = s.pieces := rfl
@[simp] theorem State.modCore_hostCopies (s : State) (c : Nat) (f : Core → Core) : (s.modCore c f).hostCopies = s.hostCopies := rfl
@[simp] theorem State.modCore_hostLines (s : State) (c : Nat) (f : Core → Core) : (s.modCore c f).hostLines = s.hostLines := rfl
@[simp] theorem State.modCore_unwritten (s : State) (c : Nat) (f : Core → Core) : (s.modCore c f).unwritten = s.unwritten := rfl
@[simp] theorem State.modCore_notices (s : State) (c : Nat) (f : Core → Core) : (s.modCore c f).notices = s.notices := rfl
@[simp] theorem State.modCore_manage (s : State) (c : Nat) (f : Core → Core) : (s.modCore c f).manage = s.manage := rfl
@[simp] theorem State.modCore_env (s : State) (c : Nat) (f : Core → Core) : (s.modCore c f).env = s.env := rfl
@[simp] theorem State.modCore_iss (s : State) (c : Nat) (f : Core → Core) : (s.modCore c f).iss = s.iss := rfl

/-! `State.setSlot` -/

@[simp] theorem State.setSlot_mem (s : State) (c t : Nat) (l : Slot) : (s.setSlot c t l).mem = s.mem := rfl
@[simp] theorem State.setSlot_full (s : State) (c t : Nat) (l : Slot) : (s.setSlot c t l).full = s.full := rfl
@[simp] theorem State.setSlot_poison (s : State) (c t : Nat) (l : Slot) : (s.setSlot c t l).poison = s.poison := rfl
@[simp] theorem State.setSlot_ctxs (s : State) (c t : Nat) (l : Slot) : (s.setSlot c t l).ctxs = s.ctxs := rfl
@[simp] theorem State.setSlot_flights (s : State) (c t : Nat) (l : Slot) : (s.setSlot c t l).flights = s.flights := rfl
@[simp] theorem State.setSlot_waiters (s : State) (c t : Nat) (l : Slot) : (s.setSlot c t l).waiters = s.waiters := rfl
@[simp] theorem State.setSlot_notes (s : State) (c t : Nat) (l : Slot) : (s.setSlot c t l).notes = s.notes := rfl
@[simp] theorem State.setSlot_dirs (s : State) (c t : Nat) (l : Slot) : (s.setSlot c t l).dirs = s.dirs := rfl
@[simp] theorem State.setSlot_tlbs (s : State) (c t : Nat) (l : Slot) : (s.setSlot c t l).tlbs = s.tlbs := rfl
@[simp] theorem State.setSlot_written (s : State) (c t : Nat) (l : Slot) : (s.setSlot c t l).written = s.written := rfl
@[simp] theorem State.setSlot_faults (s : State) (c t : Nat) (l : Slot) : (s.setSlot c t l).faults = s.faults := rfl
@[simp] theorem State.setSlot_faultSeq (s : State) (c t : Nat) (l : Slot) : (s.setSlot c t l).faultSeq = s.faultSeq := rfl
@[simp] theorem State.setSlot_reverse (s : State) (c t : Nat) (l : Slot) : (s.setSlot c t l).reverse = s.reverse := rfl
@[simp] theorem State.setSlot_pieces (s : State) (c t : Nat) (l : Slot) : (s.setSlot c t l).pieces = s.pieces := rfl
@[simp] theorem State.setSlot_hostCopies (s : State) (c t : Nat) (l : Slot) : (s.setSlot c t l).hostCopies = s.hostCopies := rfl
@[simp] theorem State.setSlot_hostLines (s : State) (c t : Nat) (l : Slot) : (s.setSlot c t l).hostLines = s.hostLines := rfl
@[simp] theorem State.setSlot_unwritten (s : State) (c t : Nat) (l : Slot) : (s.setSlot c t l).unwritten = s.unwritten := rfl
@[simp] theorem State.setSlot_notices (s : State) (c t : Nat) (l : Slot) : (s.setSlot c t l).notices = s.notices := rfl
@[simp] theorem State.setSlot_manage (s : State) (c t : Nat) (l : Slot) : (s.setSlot c t l).manage = s.manage := rfl
@[simp] theorem State.setSlot_env (s : State) (c t : Nat) (l : Slot) : (s.setSlot c t l).env = s.env := rfl
@[simp] theorem State.setSlot_iss (s : State) (c t : Nat) (l : Slot) : (s.setSlot c t l).iss = s.iss := rfl

/-! `State.modSlot` -/

@[simp] theorem State.modSlot_mem (s : State) (c t : Nat) (f : Slot → Slot) : (s.modSlot c t f).mem = s.mem := rfl
@[simp] theorem State.modSlot_full (s : State) (c t : Nat) (f : Slot → Slot) : (s.modSlot c t f).full = s.full := rfl
@[simp] theorem State.modSlot_poison (s : State) (c t : Nat) (f : Slot → Slot) : (s.modSlot c t f).poison = s.poison := rfl
@[simp] theorem State.modSlot_ctxs (s : State) (c t : Nat) (f : Slot → Slot) : (s.modSlot c t f).ctxs = s.ctxs := rfl
@[simp] theorem State.modSlot_flights (s : State) (c t : Nat) (f : Slot → Slot) : (s.modSlot c t f).flights = s.flights := rfl
@[simp] theorem State.modSlot_waiters (s : State) (c t : Nat) (f : Slot → Slot) : (s.modSlot c t f).waiters = s.waiters := rfl
@[simp] theorem State.modSlot_notes (s : State) (c t : Nat) (f : Slot → Slot) : (s.modSlot c t f).notes = s.notes := rfl
@[simp] theorem State.modSlot_dirs (s : State) (c t : Nat) (f : Slot → Slot) : (s.modSlot c t f).dirs = s.dirs := rfl
@[simp] theorem State.modSlot_tlbs (s : State) (c t : Nat) (f : Slot → Slot) : (s.modSlot c t f).tlbs = s.tlbs := rfl
@[simp] theorem State.modSlot_written (s : State) (c t : Nat) (f : Slot → Slot) : (s.modSlot c t f).written = s.written := rfl
@[simp] theorem State.modSlot_faults (s : State) (c t : Nat) (f : Slot → Slot) : (s.modSlot c t f).faults = s.faults := rfl
@[simp] theorem State.modSlot_faultSeq (s : State) (c t : Nat) (f : Slot → Slot) : (s.modSlot c t f).faultSeq = s.faultSeq := rfl
@[simp] theorem State.modSlot_reverse (s : State) (c t : Nat) (f : Slot → Slot) : (s.modSlot c t f).reverse = s.reverse := rfl
@[simp] theorem State.modSlot_pieces (s : State) (c t : Nat) (f : Slot → Slot) : (s.modSlot c t f).pieces = s.pieces := rfl
@[simp] theorem State.modSlot_hostCopies (s : State) (c t : Nat) (f : Slot → Slot) : (s.modSlot c t f).hostCopies = s.hostCopies := rfl
@[simp] theorem State.modSlot_hostLines (s : State) (c t : Nat) (f : Slot → Slot) : (s.modSlot c t f).hostLines = s.hostLines := rfl
@[simp] theorem State.modSlot_unwritten (s : State) (c t : Nat) (f : Slot → Slot) : (s.modSlot c t f).unwritten = s.unwritten := rfl
@[simp] theorem State.modSlot_notices (s : State) (c t : Nat) (f : Slot → Slot) : (s.modSlot c t f).notices = s.notices := rfl
@[simp] theorem State.modSlot_manage (s : State) (c t : Nat) (f : Slot → Slot) : (s.modSlot c t f).manage = s.manage := rfl
@[simp] theorem State.modSlot_env (s : State) (c t : Nat) (f : Slot → Slot) : (s.modSlot c t f).env = s.env := rfl
@[simp] theorem State.modSlot_iss (s : State) (c t : Nat) (f : Slot → Slot) : (s.modSlot c t f).iss = s.iss := rfl

/-! `State.modCur` -/

@[simp] theorem State.modCur_mem (s : State) (f : Slot → Slot) : (s.modCur f).mem = s.mem := rfl
@[simp] theorem State.modCur_full (s : State) (f : Slot → Slot) : (s.modCur f).full = s.full := rfl
@[simp] theorem State.modCur_poison (s : State) (f : Slot → Slot) : (s.modCur f).poison = s.poison := rfl
@[simp] theorem State.modCur_ctxs (s : State) (f : Slot → Slot) : (s.modCur f).ctxs = s.ctxs := rfl
@[simp] theorem State.modCur_flights (s : State) (f : Slot → Slot) : (s.modCur f).flights = s.flights := rfl
@[simp] theorem State.modCur_waiters (s : State) (f : Slot → Slot) : (s.modCur f).waiters = s.waiters := rfl
@[simp] theorem State.modCur_notes (s : State) (f : Slot → Slot) : (s.modCur f).notes = s.notes := rfl
@[simp] theorem State.modCur_dirs (s : State) (f : Slot → Slot) : (s.modCur f).dirs = s.dirs := rfl
@[simp] theorem State.modCur_tlbs (s : State) (f : Slot → Slot) : (s.modCur f).tlbs = s.tlbs := rfl
@[simp] theorem State.modCur_written (s : State) (f : Slot → Slot) : (s.modCur f).written = s.written := rfl
@[simp] theorem State.modCur_faults (s : State) (f : Slot → Slot) : (s.modCur f).faults = s.faults := rfl
@[simp] theorem State.modCur_faultSeq (s : State) (f : Slot → Slot) : (s.modCur f).faultSeq = s.faultSeq := rfl
@[simp] theorem State.modCur_reverse (s : State) (f : Slot → Slot) : (s.modCur f).reverse = s.reverse := rfl
@[simp] theorem State.modCur_pieces (s : State) (f : Slot → Slot) : (s.modCur f).pieces = s.pieces := rfl
@[simp] theorem State.modCur_hostCopies (s : State) (f : Slot → Slot) : (s.modCur f).hostCopies = s.hostCopies := rfl
@[simp] theorem State.modCur_hostLines (s : State) (f : Slot → Slot) : (s.modCur f).hostLines = s.hostLines := rfl
@[simp] theorem State.modCur_unwritten (s : State) (f : Slot → Slot) : (s.modCur f).unwritten = s.unwritten := rfl
@[simp] theorem State.modCur_notices (s : State) (f : Slot → Slot) : (s.modCur f).notices = s.notices := rfl
@[simp] theorem State.modCur_manage (s : State) (f : Slot → Slot) : (s.modCur f).manage = s.manage := rfl
@[simp] theorem State.modCur_env (s : State) (f : Slot → Slot) : (s.modCur f).env = s.env := rfl
@[simp] theorem State.modCur_iss (s : State) (f : Slot → Slot) : (s.modCur f).iss = s.iss := rfl

/-! `State.modHere` -/

@[simp] theorem State.modHere_mem (s : State) (f : Core → Core) : (s.modHere f).mem = s.mem := rfl
@[simp] theorem State.modHere_full (s : State) (f : Core → Core) : (s.modHere f).full = s.full := rfl
@[simp] theorem State.modHere_poison (s : State) (f : Core → Core) : (s.modHere f).poison = s.poison := rfl
@[simp] theorem State.modHere_ctxs (s : State) (f : Core → Core) : (s.modHere f).ctxs = s.ctxs := rfl
@[simp] theorem State.modHere_flights (s : State) (f : Core → Core) : (s.modHere f).flights = s.flights := rfl
@[simp] theorem State.modHere_waiters (s : State) (f : Core → Core) : (s.modHere f).waiters = s.waiters := rfl
@[simp] theorem State.modHere_notes (s : State) (f : Core → Core) : (s.modHere f).notes = s.notes := rfl
@[simp] theorem State.modHere_dirs (s : State) (f : Core → Core) : (s.modHere f).dirs = s.dirs := rfl
@[simp] theorem State.modHere_tlbs (s : State) (f : Core → Core) : (s.modHere f).tlbs = s.tlbs := rfl
@[simp] theorem State.modHere_written (s : State) (f : Core → Core) : (s.modHere f).written = s.written := rfl
@[simp] theorem State.modHere_faults (s : State) (f : Core → Core) : (s.modHere f).faults = s.faults := rfl
@[simp] theorem State.modHere_faultSeq (s : State) (f : Core → Core) : (s.modHere f).faultSeq = s.faultSeq := rfl
@[simp] theorem State.modHere_reverse (s : State) (f : Core → Core) : (s.modHere f).reverse = s.reverse := rfl
@[simp] theorem State.modHere_pieces (s : State) (f : Core → Core) : (s.modHere f).pieces = s.pieces := rfl
@[simp] theorem State.modHere_hostCopies (s : State) (f : Core → Core) : (s.modHere f).hostCopies = s.hostCopies := rfl
@[simp] theorem State.modHere_hostLines (s : State) (f : Core → Core) : (s.modHere f).hostLines = s.hostLines := rfl
@[simp] theorem State.modHere_unwritten (s : State) (f : Core → Core) : (s.modHere f).unwritten = s.unwritten := rfl
@[simp] theorem State.modHere_notices (s : State) (f : Core → Core) : (s.modHere f).notices = s.notices := rfl
@[simp] theorem State.modHere_manage (s : State) (f : Core → Core) : (s.modHere f).manage = s.manage := rfl
@[simp] theorem State.modHere_env (s : State) (f : Core → Core) : (s.modHere f).env = s.env := rfl
@[simp] theorem State.modHere_iss (s : State) (f : Core → Core) : (s.modHere f).iss = s.iss := rfl

/-! `State.setCtx` -/

@[simp] theorem State.setCtx_mem (s : State) (n : Nat) (x : Ctx) : (s.setCtx n x).mem = s.mem := rfl
@[simp] theorem State.setCtx_full (s : State) (n : Nat) (x : Ctx) : (s.setCtx n x).full = s.full := rfl
@[simp] theorem State.setCtx_poison (s : State) (n : Nat) (x : Ctx) : (s.setCtx n x).poison = s.poison := rfl
@[simp] theorem State.setCtx_cores (s : State) (n : Nat) (x : Ctx) : (s.setCtx n x).cores = s.cores := rfl
@[simp] theorem State.setCtx_flights (s : State) (n : Nat) (x : Ctx) : (s.setCtx n x).flights = s.flights := rfl
@[simp] theorem State.setCtx_waiters (s : State) (n : Nat) (x : Ctx) : (s.setCtx n x).waiters = s.waiters := rfl
@[simp] theorem State.setCtx_notes (s : State) (n : Nat) (x : Ctx) : (s.setCtx n x).notes = s.notes := rfl
@[simp] theorem State.setCtx_dirs (s : State) (n : Nat) (x : Ctx) : (s.setCtx n x).dirs = s.dirs := rfl
@[simp] theorem State.setCtx_tlbs (s : State) (n : Nat) (x : Ctx) : (s.setCtx n x).tlbs = s.tlbs := rfl
@[simp] theorem State.setCtx_written (s : State) (n : Nat) (x : Ctx) : (s.setCtx n x).written = s.written := rfl
@[simp] theorem State.setCtx_faults (s : State) (n : Nat) (x : Ctx) : (s.setCtx n x).faults = s.faults := rfl
@[simp] theorem State.setCtx_faultSeq (s : State) (n : Nat) (x : Ctx) : (s.setCtx n x).faultSeq = s.faultSeq := rfl
@[simp] theorem State.setCtx_reverse (s : State) (n : Nat) (x : Ctx) : (s.setCtx n x).reverse = s.reverse := rfl
@[simp] theorem State.setCtx_pieces (s : State) (n : Nat) (x : Ctx) : (s.setCtx n x).pieces = s.pieces := rfl
@[simp] theorem State.setCtx_hostCopies (s : State) (n : Nat) (x : Ctx) : (s.setCtx n x).hostCopies = s.hostCopies := rfl
@[simp] theorem State.setCtx_hostLines (s : State) (n : Nat) (x : Ctx) : (s.setCtx n x).hostLines = s.hostLines := rfl
@[simp] theorem State.setCtx_unwritten (s : State) (n : Nat) (x : Ctx) : (s.setCtx n x).unwritten = s.unwritten := rfl
@[simp] theorem State.setCtx_notices (s : State) (n : Nat) (x : Ctx) : (s.setCtx n x).notices = s.notices := rfl
@[simp] theorem State.setCtx_manage (s : State) (n : Nat) (x : Ctx) : (s.setCtx n x).manage = s.manage := rfl
@[simp] theorem State.setCtx_env (s : State) (n : Nat) (x : Ctx) : (s.setCtx n x).env = s.env := rfl
@[simp] theorem State.setCtx_iss (s : State) (n : Nat) (x : Ctx) : (s.setCtx n x).iss = s.iss := rfl

/-! `State.modCtx` -/

@[simp] theorem State.modCtx_mem (s : State) (n : Nat) (f : Ctx → Ctx) : (s.modCtx n f).mem = s.mem := rfl
@[simp] theorem State.modCtx_full (s : State) (n : Nat) (f : Ctx → Ctx) : (s.modCtx n f).full = s.full := rfl
@[simp] theorem State.modCtx_poison (s : State) (n : Nat) (f : Ctx → Ctx) : (s.modCtx n f).poison = s.poison := rfl
@[simp] theorem State.modCtx_cores (s : State) (n : Nat) (f : Ctx → Ctx) : (s.modCtx n f).cores = s.cores := rfl
@[simp] theorem State.modCtx_flights (s : State) (n : Nat) (f : Ctx → Ctx) : (s.modCtx n f).flights = s.flights := rfl
@[simp] theorem State.modCtx_waiters (s : State) (n : Nat) (f : Ctx → Ctx) : (s.modCtx n f).waiters = s.waiters := rfl
@[simp] theorem State.modCtx_notes (s : State) (n : Nat) (f : Ctx → Ctx) : (s.modCtx n f).notes = s.notes := rfl
@[simp] theorem State.modCtx_dirs (s : State) (n : Nat) (f : Ctx → Ctx) : (s.modCtx n f).dirs = s.dirs := rfl
@[simp] theorem State.modCtx_tlbs (s : State) (n : Nat) (f : Ctx → Ctx) : (s.modCtx n f).tlbs = s.tlbs := rfl
@[simp] theorem State.modCtx_written (s : State) (n : Nat) (f : Ctx → Ctx) : (s.modCtx n f).written = s.written := rfl
@[simp] theorem State.modCtx_faults (s : State) (n : Nat) (f : Ctx → Ctx) : (s.modCtx n f).faults = s.faults := rfl
@[simp] theorem State.modCtx_faultSeq (s : State) (n : Nat) (f : Ctx → Ctx) : (s.modCtx n f).faultSeq = s.faultSeq := rfl
@[simp] theorem State.modCtx_reverse (s : State) (n : Nat) (f : Ctx → Ctx) : (s.modCtx n f).reverse = s.reverse := rfl
@[simp] theorem State.modCtx_pieces (s : State) (n : Nat) (f : Ctx → Ctx) : (s.modCtx n f).pieces = s.pieces := rfl
@[simp] theorem State.modCtx_hostCopies (s : State) (n : Nat) (f : Ctx → Ctx) : (s.modCtx n f).hostCopies = s.hostCopies := rfl
@[simp] theorem State.modCtx_hostLines (s : State) (n : Nat) (f : Ctx → Ctx) : (s.modCtx n f).hostLines = s.hostLines := rfl
@[simp] theorem State.modCtx_unwritten (s : State) (n : Nat) (f : Ctx → Ctx) : (s.modCtx n f).unwritten = s.unwritten := rfl
@[simp] theorem State.modCtx_notices (s : State) (n : Nat) (f : Ctx → Ctx) : (s.modCtx n f).notices = s.notices := rfl
@[simp] theorem State.modCtx_manage (s : State) (n : Nat) (f : Ctx → Ctx) : (s.modCtx n f).manage = s.manage := rfl
@[simp] theorem State.modCtx_env (s : State) (n : Nat) (f : Ctx → Ctx) : (s.modCtx n f).env = s.env := rfl
@[simp] theorem State.modCtx_iss (s : State) (n : Nat) (f : Ctx → Ctx) : (s.modCtx n f).iss = s.iss := rfl

/-! `State.modIss` -/

@[simp] theorem State.modIss_mem (s : State) (f : Issue → Issue) : (s.modIss f).mem = s.mem := rfl
@[simp] theorem State.modIss_full (s : State) (f : Issue → Issue) : (s.modIss f).full = s.full := rfl
@[simp] theorem State.modIss_poison (s : State) (f : Issue → Issue) : (s.modIss f).poison = s.poison := rfl
@[simp] theorem State.modIss_cores (s : State) (f : Issue → Issue) : (s.modIss f).cores = s.cores := rfl
@[simp] theorem State.modIss_ctxs (s : State) (f : Issue → Issue) : (s.modIss f).ctxs = s.ctxs := rfl
@[simp] theorem State.modIss_flights (s : State) (f : Issue → Issue) : (s.modIss f).flights = s.flights := rfl
@[simp] theorem State.modIss_waiters (s : State) (f : Issue → Issue) : (s.modIss f).waiters = s.waiters := rfl
@[simp] theorem State.modIss_notes (s : State) (f : Issue → Issue) : (s.modIss f).notes = s.notes := rfl
@[simp] theorem State.modIss_dirs (s : State) (f : Issue → Issue) : (s.modIss f).dirs = s.dirs := rfl
@[simp] theorem State.modIss_tlbs (s : State) (f : Issue → Issue) : (s.modIss f).tlbs = s.tlbs := rfl
@[simp] theorem State.modIss_written (s : State) (f : Issue → Issue) : (s.modIss f).written = s.written := rfl
@[simp] theorem State.modIss_faults (s : State) (f : Issue → Issue) : (s.modIss f).faults = s.faults := rfl
@[simp] theorem State.modIss_faultSeq (s : State) (f : Issue → Issue) : (s.modIss f).faultSeq = s.faultSeq := rfl
@[simp] theorem State.modIss_reverse (s : State) (f : Issue → Issue) : (s.modIss f).reverse = s.reverse := rfl
@[simp] theorem State.modIss_pieces (s : State) (f : Issue → Issue) : (s.modIss f).pieces = s.pieces := rfl
@[simp] theorem State.modIss_hostCopies (s : State) (f : Issue → Issue) : (s.modIss f).hostCopies = s.hostCopies := rfl
@[simp] theorem State.modIss_hostLines (s : State) (f : Issue → Issue) : (s.modIss f).hostLines = s.hostLines := rfl
@[simp] theorem State.modIss_unwritten (s : State) (f : Issue → Issue) : (s.modIss f).unwritten = s.unwritten := rfl
@[simp] theorem State.modIss_notices (s : State) (f : Issue → Issue) : (s.modIss f).notices = s.notices := rfl
@[simp] theorem State.modIss_manage (s : State) (f : Issue → Issue) : (s.modIss f).manage = s.manage := rfl
@[simp] theorem State.modIss_env (s : State) (f : Issue → Issue) : (s.modIss f).env = s.env := rfl

/-! `State.modManage` -/

@[simp] theorem State.modManage_mem (s : State) (f : Manage → Manage) : (s.modManage f).mem = s.mem := rfl
@[simp] theorem State.modManage_full (s : State) (f : Manage → Manage) : (s.modManage f).full = s.full := rfl
@[simp] theorem State.modManage_poison (s : State) (f : Manage → Manage) : (s.modManage f).poison = s.poison := rfl
@[simp] theorem State.modManage_cores (s : State) (f : Manage → Manage) : (s.modManage f).cores = s.cores := rfl
@[simp] theorem State.modManage_ctxs (s : State) (f : Manage → Manage) : (s.modManage f).ctxs = s.ctxs := rfl
@[simp] theorem State.modManage_flights (s : State) (f : Manage → Manage) : (s.modManage f).flights = s.flights := rfl
@[simp] theorem State.modManage_waiters (s : State) (f : Manage → Manage) : (s.modManage f).waiters = s.waiters := rfl
@[simp] theorem State.modManage_notes (s : State) (f : Manage → Manage) : (s.modManage f).notes = s.notes := rfl
@[simp] theorem State.modManage_dirs (s : State) (f : Manage → Manage) : (s.modManage f).dirs = s.dirs := rfl
@[simp] theorem State.modManage_tlbs (s : State) (f : Manage → Manage) : (s.modManage f).tlbs = s.tlbs := rfl
@[simp] theorem State.modManage_written (s : State) (f : Manage → Manage) : (s.modManage f).written = s.written := rfl
@[simp] theorem State.modManage_faults (s : State) (f : Manage → Manage) : (s.modManage f).faults = s.faults := rfl
@[simp] theorem State.modManage_faultSeq (s : State) (f : Manage → Manage) : (s.modManage f).faultSeq = s.faultSeq := rfl
@[simp] theorem State.modManage_reverse (s : State) (f : Manage → Manage) : (s.modManage f).reverse = s.reverse := rfl
@[simp] theorem State.modManage_pieces (s : State) (f : Manage → Manage) : (s.modManage f).pieces = s.pieces := rfl
@[simp] theorem State.modManage_hostCopies (s : State) (f : Manage → Manage) : (s.modManage f).hostCopies = s.hostCopies := rfl
@[simp] theorem State.modManage_hostLines (s : State) (f : Manage → Manage) : (s.modManage f).hostLines = s.hostLines := rfl
@[simp] theorem State.modManage_unwritten (s : State) (f : Manage → Manage) : (s.modManage f).unwritten = s.unwritten := rfl
@[simp] theorem State.modManage_notices (s : State) (f : Manage → Manage) : (s.modManage f).notices = s.notices := rfl
@[simp] theorem State.modManage_env (s : State) (f : Manage → Manage) : (s.modManage f).env = s.env := rfl
@[simp] theorem State.modManage_iss (s : State) (f : Manage → Manage) : (s.modManage f).iss = s.iss := rfl

/-! `State.ended` -/

@[simp] theorem State.ended_mem (s : State) (o : Out) : (s.ended o).mem = s.mem := rfl
@[simp] theorem State.ended_full (s : State) (o : Out) : (s.ended o).full = s.full := rfl
@[simp] theorem State.ended_poison (s : State) (o : Out) : (s.ended o).poison = s.poison := rfl
@[simp] theorem State.ended_cores (s : State) (o : Out) : (s.ended o).cores = s.cores := rfl
@[simp] theorem State.ended_ctxs (s : State) (o : Out) : (s.ended o).ctxs = s.ctxs := rfl
@[simp] theorem State.ended_flights (s : State) (o : Out) : (s.ended o).flights = s.flights := rfl
@[simp] theorem State.ended_waiters (s : State) (o : Out) : (s.ended o).waiters = s.waiters := rfl
@[simp] theorem State.ended_notes (s : State) (o : Out) : (s.ended o).notes = s.notes := rfl
@[simp] theorem State.ended_dirs (s : State) (o : Out) : (s.ended o).dirs = s.dirs := rfl
@[simp] theorem State.ended_tlbs (s : State) (o : Out) : (s.ended o).tlbs = s.tlbs := rfl
@[simp] theorem State.ended_written (s : State) (o : Out) : (s.ended o).written = s.written := rfl
@[simp] theorem State.ended_faults (s : State) (o : Out) : (s.ended o).faults = s.faults := rfl
@[simp] theorem State.ended_faultSeq (s : State) (o : Out) : (s.ended o).faultSeq = s.faultSeq := rfl
@[simp] theorem State.ended_reverse (s : State) (o : Out) : (s.ended o).reverse = s.reverse := rfl
@[simp] theorem State.ended_pieces (s : State) (o : Out) : (s.ended o).pieces = s.pieces := rfl
@[simp] theorem State.ended_hostCopies (s : State) (o : Out) : (s.ended o).hostCopies = s.hostCopies := rfl
@[simp] theorem State.ended_hostLines (s : State) (o : Out) : (s.ended o).hostLines = s.hostLines := rfl
@[simp] theorem State.ended_unwritten (s : State) (o : Out) : (s.ended o).unwritten = s.unwritten := rfl
@[simp] theorem State.ended_notices (s : State) (o : Out) : (s.ended o).notices = s.notices := rfl
@[simp] theorem State.ended_manage (s : State) (o : Out) : (s.ended o).manage = s.manage := rfl
@[simp] theorem State.ended_env (s : State) (o : Out) : (s.ended o).env = s.env := rfl

/-! `State.tick` -/

@[simp] theorem State.tick_mem (s : State) : s.tick.2.mem = s.mem := rfl
@[simp] theorem State.tick_full (s : State) : s.tick.2.full = s.full := rfl
@[simp] theorem State.tick_poison (s : State) : s.tick.2.poison = s.poison := rfl
@[simp] theorem State.tick_cores (s : State) : s.tick.2.cores = s.cores := rfl
@[simp] theorem State.tick_ctxs (s : State) : s.tick.2.ctxs = s.ctxs := rfl
@[simp] theorem State.tick_flights (s : State) : s.tick.2.flights = s.flights := rfl
@[simp] theorem State.tick_waiters (s : State) : s.tick.2.waiters = s.waiters := rfl
@[simp] theorem State.tick_notes (s : State) : s.tick.2.notes = s.notes := rfl
@[simp] theorem State.tick_dirs (s : State) : s.tick.2.dirs = s.dirs := rfl
@[simp] theorem State.tick_tlbs (s : State) : s.tick.2.tlbs = s.tlbs := rfl
@[simp] theorem State.tick_written (s : State) : s.tick.2.written = s.written := rfl
@[simp] theorem State.tick_faults (s : State) : s.tick.2.faults = s.faults := rfl
@[simp] theorem State.tick_faultSeq (s : State) : s.tick.2.faultSeq = s.faultSeq := rfl
@[simp] theorem State.tick_reverse (s : State) : s.tick.2.reverse = s.reverse := rfl
@[simp] theorem State.tick_pieces (s : State) : s.tick.2.pieces = s.pieces := rfl
@[simp] theorem State.tick_hostCopies (s : State) : s.tick.2.hostCopies = s.hostCopies := rfl
@[simp] theorem State.tick_hostLines (s : State) : s.tick.2.hostLines = s.hostLines := rfl
@[simp] theorem State.tick_unwritten (s : State) : s.tick.2.unwritten = s.unwritten := rfl
@[simp] theorem State.tick_notices (s : State) : s.tick.2.notices = s.notices := rfl
@[simp] theorem State.tick_manage (s : State) : s.tick.2.manage = s.manage := rfl
@[simp] theorem State.tick_iss (s : State) : s.tick.2.iss = s.iss := rfl

/-! What the updates set. -/

@[simp] theorem State.core_setCore (s : State) (c d : Nat) (k : Core) :
    (s.setCore c k).core d = if d = c then k else s.core d := by
  simp [State.core, State.setCore]

@[simp] theorem State.core_modCore (s : State) (c d : Nat) (f : Core → Core) :
    (s.modCore c f).core d = if d = c then f (s.core c) else s.core d := by
  simp [State.modCore]

@[simp] theorem Core.slot_setSlot (k : Core) (t u : Nat) (l : Slot) :
    (k.setSlot t l).slot u = if u = t then l else k.slot u := by
  simp [Core.slot, Core.setSlot]

@[simp] theorem State.core_setSlot (s : State) (c t d : Nat) (l : Slot) :
    (s.setSlot c t l).core d = if d = c then (s.core c).setSlot t l else s.core d := by
  simp [State.setSlot]

@[simp] theorem State.slot_setSlot (s : State) (c t d u : Nat) (l : Slot) :
    (s.setSlot c t l).slot d u = if d = c ∧ u = t then l else s.slot d u := by
  by_cases h : d = c
  · subst h; simp [State.slot]
  · simp [State.slot, h]

@[simp] theorem State.slot_modSlot (s : State) (c t d u : Nat) (f : Slot → Slot) :
    (s.modSlot c t f).slot d u = if d = c ∧ u = t then f (s.slot c t) else s.slot d u := by
  simp [State.modSlot]

@[simp] theorem State.ctx_setCtx (s : State) (n m : Nat) (x : Ctx) :
    (s.setCtx n x).ctx m = if m = n then x else s.ctx m := by
  simp [State.ctx, State.setCtx]

@[simp] theorem State.ctx_modCtx (s : State) (n m : Nat) (f : Ctx → Ctx) :
    (s.modCtx n f).ctx m = if m = n then f (s.ctx n) else s.ctx m := by
  simp [State.modCtx]

@[simp] theorem State.setBytes_hostCopies (s : State) (k : Nat) (bs : List Byte) :
    (s.setBytes k bs).hostCopies = displaced s.hostCopies k bs.length := rfl
@[simp] theorem State.setNum_hostCopies (s : State) (k n v : Nat) :
    (s.setNum k n v).hostCopies = displaced s.hostCopies k (toBytes n v).length := rfl
@[simp] theorem State.modIss_iss (s : State) (f : Issue → Issue) : (s.modIss f).iss = f s.iss := rfl
@[simp] theorem State.modManage_manage (s : State) (f : Manage → Manage) : (s.modManage f).manage = f s.manage := rfl
@[simp] theorem State.ended_iss (s : State) (o : Out) : (s.ended o).iss = { s.iss with out := o } := rfl
@[simp] theorem State.tick_fst (s : State) : s.tick.1 = s.env.fresh := rfl
@[simp] theorem State.tick_env (s : State) : s.tick.2.env = { s.env with fresh := s.env.fresh + 1 } := rfl

/-! A core keeps its other fields when a slot is set. -/

@[simp] theorem Core.setSlot_regs (k : Core) (t : Nat) (l : Slot) : (k.setSlot t l).regs = k.regs := rfl
@[simp] theorem Core.setSlot_empty (k : Core) (t : Nat) (l : Slot) : (k.setSlot t l).empty = k.empty := rfl
@[simp] theorem Core.setSlot_spad (k : Core) (t : Nat) (l : Slot) : (k.setSlot t l).spad = k.spad := rfl
@[simp] theorem Core.setSlot_vgroup (k : Core) (t : Nat) (l : Slot) : (k.setSlot t l).vgroup = k.vgroup := rfl
@[simp] theorem Core.setSlot_msglim (k : Core) (t : Nat) (l : Slot) : (k.setSlot t l).msglim = k.msglim := rfl
@[simp] theorem Core.setSlot_cyc (k : Core) (t : Nat) (l : Slot) : (k.setSlot t l).cyc = k.cyc := rfl
@[simp] theorem Core.setSlot_busy (k : Core) (t : Nat) (l : Slot) : (k.setSlot t l).busy = k.busy := rfl
@[simp] theorem Core.setSlot_lastSlot (k : Core) (t : Nat) (l : Slot) : (k.setSlot t l).lastSlot = k.lastSlot := rfl
@[simp] theorem Core.setSlot_issued (k : Core) (t : Nat) (l : Slot) : (k.setSlot t l).issued = k.issued := rfl
@[simp] theorem Core.setSlot_gated (k : Core) (t : Nat) (l : Slot) : (k.setSlot t l).gated = k.gated := rfl
@[simp] theorem Core.setSlot_mbox (k : Core) (t : Nat) (l : Slot) : (k.setSlot t l).mbox = k.mbox := rfl
@[simp] theorem Core.setSlot_claim (k : Core) (t : Nat) (l : Slot) : (k.setSlot t l).claim = k.claim := rfl
@[simp] theorem Core.setSlot_writer (k : Core) (t : Nat) (l : Slot) : (k.setSlot t l).writer = k.writer := rfl
@[simp] theorem Core.setSlot_segs (k : Core) (t : Nat) (l : Slot) : (k.setSlot t l).segs = k.segs := rfl
@[simp] theorem Core.setSlot_table0 (k : Core) (t : Nat) (l : Slot) : (k.setSlot t l).table0 = k.table0 := rfl
@[simp] theorem Core.setSlot_table1 (k : Core) (t : Nat) (l : Slot) : (k.setSlot t l).table1 = k.table1 := rfl
@[simp] theorem Core.setSlot_accs (k : Core) (t : Nat) (l : Slot) : (k.setSlot t l).accs = k.accs := rfl
@[simp] theorem Core.setSlot_rings (k : Core) (t : Nat) (l : Slot) : (k.setSlot t l).rings = k.rings := rfl
@[simp] theorem Core.setSlot_mma (k : Core) (t : Nat) (l : Slot) : (k.setSlot t l).mma = k.mma := rfl
@[simp] theorem Core.setSlot_newTable (k : Core) (t : Nat) (l : Slot) : (k.setSlot t l).newTable = k.newTable := rfl
@[simp] theorem Core.setSlot_queue (k : Core) (t : Nat) (l : Slot) : (k.setSlot t l).queue = k.queue := rfl
@[simp] theorem Core.setSlot_station (k : Core) (t : Nat) (l : Slot) : (k.setSlot t l).station = k.station := rfl
@[simp] theorem Core.setSlot_chans (k : Core) (t : Nat) (l : Slot) : (k.setSlot t l).chans = k.chans := rfl
@[simp] theorem Core.setSlot_kept (k : Core) (t : Nat) (l : Slot) : (k.setSlot t l).kept = k.kept := rfl
@[simp] theorem Core.setSlot_matches_ (k : Core) (t : Nat) (l : Slot) : (k.setSlot t l).matches_ = k.matches_ := rfl
@[simp] theorem Core.setSlot_table (k : Core) (t : Nat) (l : Slot) : (k.setSlot t l).table = k.table := rfl
@[simp] theorem Core.setSlot_packets (k : Core) (t : Nat) (l : Slot) : (k.setSlot t l).packets = k.packets := rfl
@[simp] theorem Core.setSlot_lines (k : Core) (t : Nat) (l : Slot) : (k.setSlot t l).lines = k.lines := rfl
@[simp] theorem Core.setSlot_heldCtx (k : Core) (t : Nat) (l : Slot) : (k.setSlot t l).heldCtx = k.heldCtx := rfl
@[simp] theorem Core.setSlot_absent (k : Core) (t : Nat) (l : Slot) : (k.setSlot t l).absent = k.absent := rfl
@[simp] theorem Core.setSlot_spare (k : Core) (t : Nat) (l : Slot) : (k.setSlot t l).spare = k.spare := rfl
@[simp] theorem Core.setSlot_errors (k : Core) (t : Nat) (l : Slot) : (k.setSlot t l).errors = k.errors := rfl

/-! The bundle in issue names the same core, slot and context after an update of another field. -/

@[simp] theorem State.core_ended (s : State) (o : Out) (c : Nat) : (s.ended o).core c = s.core c := rfl
@[simp] theorem State.slot_ended (s : State) (o : Out) (c t : Nat) : (s.ended o).slot c t = s.slot c t := rfl
@[simp] theorem State.core_modIss (s : State) (f : Issue → Issue) (c : Nat) : (s.modIss f).core c = s.core c := rfl
@[simp] theorem State.slot_modIss (s : State) (f : Issue → Issue) (c t : Nat) : (s.modIss f).slot c t = s.slot c t := rfl
@[simp] theorem State.core_setBytes (s : State) (k : Nat) (bs : List Byte) (c : Nat) : (s.setBytes k bs).core c = s.core c := rfl
@[simp] theorem State.slot_setBytes (s : State) (k : Nat) (bs : List Byte) (c t : Nat) : (s.setBytes k bs).slot c t = s.slot c t := rfl
@[simp] theorem State.core_setCtx (s : State) (n : Nat) (x : Ctx) (c : Nat) : (s.setCtx n x).core c = s.core c := rfl
@[simp] theorem State.slot_setCtx (s : State) (n : Nat) (x : Ctx) (c t : Nat) : (s.setCtx n x).slot c t = s.slot c t := rfl
@[simp] theorem State.core_modCtx (s : State) (n : Nat) (f : Ctx → Ctx) (c : Nat) : (s.modCtx n f).core c = s.core c := rfl
@[simp] theorem State.slot_modCtx (s : State) (n : Nat) (f : Ctx → Ctx) (c t : Nat) : (s.modCtx n f).slot c t = s.slot c t := rfl
@[simp] theorem State.ctx_setCore (s : State) (c : Nat) (k : Core) (n : Nat) : (s.setCore c k).ctx n = s.ctx n := rfl
@[simp] theorem State.ctx_modCore (s : State) (c : Nat) (f : Core → Core) (n : Nat) : (s.modCore c f).ctx n = s.ctx n := rfl
@[simp] theorem State.ctx_modSlot (s : State) (c t : Nat) (f : Slot → Slot) (n : Nat) : (s.modSlot c t f).ctx n = s.ctx n := rfl
@[simp] theorem State.ctx_ended (s : State) (o : Out) (n : Nat) : (s.ended o).ctx n = s.ctx n := rfl
@[simp] theorem State.cur_modCur (s : State) (f : Slot → Slot) : (s.modCur f).cur = f s.cur := by
  simp [State.cur, State.modCur]
@[simp] theorem State.cur_modIss_out (s : State) (o : Out) : (s.ended o).cur = s.cur := rfl
@[simp] theorem State.byte_modCore (s : State) (c : Nat) (f : Core → Core) (k : Nat) : (s.modCore c f).byte k = s.byte k := rfl
@[simp] theorem State.byte_modSlot (s : State) (c t : Nat) (f : Slot → Slot) (k : Nat) : (s.modSlot c t f).byte k = s.byte k := rfl
@[simp] theorem State.byte_modCtx (s : State) (n : Nat) (f : Ctx → Ctx) (k : Nat) : (s.modCtx n f).byte k = s.byte k := rfl
@[simp] theorem State.byte_ended (s : State) (o : Out) (k : Nat) : (s.ended o).byte k = s.byte k := rfl

end Sys2Proof.Machine
end

