-- ==== Sys2Proof/Laws/Caches.lean ====
section
/-!
SUPPORT. What the caches, the directories and the translation of an access can do: each operation changes no register, no thread, no byte
of memory and no context.
-/
namespace Sys2Proof.Machine

theorem CachesOnly.refl (s : State) : CachesOnly s s := ⟨fun _ => rfl, rfl, rfl, rfl, rfl, rfl, rfl, rfl, rfl, rfl⟩

theorem CachesOnly.trans {s t u : State} (h : CachesOnly s t) (k : CachesOnly t u) : CachesOnly s u :=
  ⟨fun c => (k.cores c).trans (h.cores c), k.mem.trans h.mem, k.full.trans h.full, k.poison.trans h.poison, k.ctxs.trans h.ctxs,
    k.flights.trans h.flights, k.waiters.trans h.waiters, k.faults.trans h.faults, k.env.trans h.env, k.iss.trans h.iss⟩

/-- A change of a core's lines. -/
theorem cachesOnly_modCore (s : State) (c : Nat) (f : List Line → List Line) :
    CachesOnly s (s.modCore c fun k => { k with lines := f k.lines }) := by
  refine ⟨fun d => ?_, rfl, rfl, rfl, rfl, rfl, rfl, rfl, rfl, rfl⟩
  by_cases h : d = c
  · subst h; simp [State.modCore, State.setCore, State.core]
  · simp [State.modCore, State.setCore, State.core, h]

theorem cachesOnly_foldl {α : Type} (f : State → α → State) (hf : ∀ s a, CachesOnly s (f s a)) :
    ∀ (l : List α) (s : State), CachesOnly s (l.foldl f s)
  | [], s => .refl s
  | a :: l, s => (hf s a).trans (cachesOnly_foldl f hf l (f s a))

theorem cachesOnly_setDir (s : State) (x line : Nat) (d : Dir) : CachesOnly s (s.setDir x line d) :=
  ⟨fun _ => rfl, rfl, rfl, rfl, rfl, rfl, rfl, rfl, rfl, rfl⟩

theorem cachesOnly_traceMsg (s : State) (x line kind core mask : Nat) : CachesOnly s (traceMsg s x line kind core mask) := by
  unfold traceMsg; split
  · exact ⟨fun _ => rfl, rfl, rfl, rfl, rfl, rfl, rfl, rfl, rfl, rfl⟩
  · exact .refl s

theorem cachesOnly_setWritten (s : State) (home x va : Nat) : CachesOnly s (setWritten s home x va) := by
  unfold setWritten; split
  · exact .refl s
  · exact ⟨fun _ => rfl, rfl, rfl, rfl, rfl, rfl, rfl, rfl, rfl, rfl⟩

theorem cachesOnly_backInvalidate (s : State) (x line key : Nat) : CachesOnly s (backInvalidate s x line key) := by
  unfold backInvalidate; dsimp only
  refine CachesOnly.trans (t := if s.hostCopies.contains (key / 128) then traceMsg s x line 13 8192 0 else s) ?_
    ⟨fun _ => rfl, rfl, rfl, rfl, rfl, rfl, rfl, rfl, rfl, rfl⟩
  split
  · exact cachesOnly_traceMsg ..
  · exact .refl s

theorem cachesOnly_install (s : State) (x va : Nat) (p : Place) : CachesOnly s (install s x va p) := by
  unfold install; split
  · exact ⟨fun _ => rfl, rfl, rfl, rfl, rfl, rfl, rfl, rfl, rfl, rfl⟩
  · exact .refl s

theorem cachesOnly_dropLine (s : State) (c x line : Nat) : CachesOnly s (dropLine s c x line) := by
  refine cachesOnly_foldl _ (fun t k => ?_) _ s
  split
  · exact cachesOnly_modCore t k _
  · exact .refl t

theorem cachesOnly_wordsHome (s : State) (x line mask : Nat) : CachesOnly s (wordsHome s x line mask) := by
  unfold wordsHome accepted; split
  · exact ⟨fun _ => rfl, rfl, rfl, rfl, rfl, rfl, rfl, rfl, rfl, rfl⟩
  · exact .refl s

theorem cachesOnly_keepOld (s : State) (x va n key : Nat) : CachesOnly s (keepOld s x va n key) := by
  refine cachesOnly_foldl _ (fun t i => ?_) _ s
  split
  · exact .refl t
  · exact ⟨fun _ => rfl, rfl, rfl, rfl, rfl, rfl, rfl, rfl, rfl, rfl⟩

theorem cachesOnly_endRegistration (s : State) (c x line : Nat) : CachesOnly s (endRegistration s c x line) := by
  unfold endRegistration
  exact (((cachesOnly_traceMsg ..).trans (cachesOnly_wordsHome ..)).trans (cachesOnly_setDir ..)).trans (cachesOnly_dropLine ..)

theorem cachesOnly_placeLine (s : State) (c : Nat) (l : Line) : CachesOnly s (placeLine s c l) := by
  refine ⟨fun d => ?_, rfl, rfl, rfl, rfl, rfl, rfl, rfl, rfl, rfl⟩
  by_cases h : d = c
  · subst h; simp [placeLine, State.modCore, State.setCore, State.core]
  · simp [placeLine, State.modCore, State.setCore, State.core, h]

theorem cachesOnly_spoilFills (s : State) (all : Bool) (mine : Nat → Bool) (x : Nat) (here : Nat → Bool) :
    CachesOnly s (spoilFills s all mine x here) := by
  refine ⟨fun _ => rfl, rfl, rfl, rfl, rfl, ?_, rfl, rfl, rfl, rfl⟩
  simp only [spoilFills, List.map_map]
  refine List.map_congr_left fun f _ => ?_
  exact (apply_ite Flight.plain _ _ _).trans (ite_self _)

theorem cachesOnly_takeNotice (s : State) (c x line : Nat) : CachesOnly s (takeNotice s c x line) := by
  unfold takeNotice
  exact ((cachesOnly_spoilFills ..).trans (cachesOnly_setDir ..)).trans (cachesOnly_traceMsg ..)

theorem cachesOnly_tick (s : State) : CachesOnly s s.tick.2 := ⟨fun _ => rfl, rfl, rfl, rfl, rfl, rfl, rfl, rfl, rfl, rfl⟩

theorem cachesOnly_sendNotice (s : State) (c x line : Nat) : CachesOnly s (sendNotice s c x line) := by
  unfold sendNotice
  split
  · refine (cachesOnly_tick s).trans ((cachesOnly_spoilFills s.tick.2 false (· == c) x (· == line)).trans ?_)
    exact ⟨fun _ => rfl, rfl, rfl, rfl, rfl, rfl, rfl, rfl, rfl, rfl⟩
  · exact cachesOnly_takeNotice ..

theorem cachesOnly_dropClean (s : State) (c : Nat) (l : Line) : CachesOnly s (dropClean s c l) := by
  unfold dropClean
  exact (cachesOnly_modCore s c (·.filter (· != l))).trans (cachesOnly_sendNotice ..)

theorem cachesOnly_evictLine (s : State) (c : Nat) (l : Line) : CachesOnly s (evictLine s c l) := by
  unfold evictLine; split
  · exact cachesOnly_endRegistration ..
  · split
    · exact (cachesOnly_modCore s c (·.filter (· != l))).trans (cachesOnly_placeLine ..)
    · exact cachesOnly_dropClean ..

theorem cachesOnly_addLine (s : State) (c : Nat) (l : Line) : CachesOnly s (addLine s c l) := by
  unfold addLine
  refine CachesOnly.trans ?_ (cachesOnly_placeLine _ c l)
  split
  · split
    · exact .refl s
    · exact cachesOnly_evictLine ..
  · exact .refl s

theorem cachesOnly_clearReaders (s : State) (x line : Nat) : CachesOnly s (clearReaders s x line) := by
  unfold clearReaders
  exact ((cachesOnly_spoilFills ..).trans (cachesOnly_setDir ..)).trans (cachesOnly_traceMsg ..)

theorem cachesOnly_invalidated (s : State) (c x line : Nat) : CachesOnly s (invalidated s c x line) := by
  unfold invalidated
  exact (cachesOnly_spoilFills ..).trans (cachesOnly_dropLine ..)

theorem cachesOnly_traceInvalidations (s : State) (x line requester : Nat) : CachesOnly s (traceInvalidations s x line requester) :=
  cachesOnly_foldl _ (fun t c => cachesOnly_traceMsg t x line 9 c 0) _ s

theorem cachesOnly_invalidateReaders (s : State) (x line requester : Nat) : CachesOnly s (invalidateReaders s x line requester) := by
  unfold invalidateReaders
  exact ((cachesOnly_traceInvalidations s x line requester).trans (cachesOnly_foldl _ (fun t c =>
    (cachesOnly_invalidated t c x line).trans (cachesOnly_traceMsg ..)) _ _)).trans (cachesOnly_clearReaders ..)

theorem cachesOnly_recallOne (s : State) (c x line mask : Nat) : CachesOnly s (recallOne s c x line mask) := by
  unfold recallOne; dsimp only; split
  · exact .refl s
  · split
    · exact (cachesOnly_traceMsg ..).trans (cachesOnly_endRegistration ..)
    · exact ((((cachesOnly_traceMsg ..).trans (cachesOnly_wordsHome ..)).trans (cachesOnly_setDir ..)).trans
        (cachesOnly_modCore _ _ (List.map _))).trans (cachesOnly_traceMsg ..)

theorem cachesOnly_recallWords (s : State) (x line mask but : Nat) : CachesOnly s (recallWords s x line mask but) := by
  refine cachesOnly_foldl _ (fun t g => ?_) _ s
  split
  · exact .refl t
  · exact cachesOnly_recallOne ..

theorem cachesOnly_traceReads (s : State) (c x : Nat) (va : Word) (n : Nat) : CachesOnly s (traceReads s c x va n) := by
  unfold traceReads; split
  · exact .refl s
  · exact cachesOnly_foldl _ (fun t q => cachesOnly_traceMsg ..) _ s

theorem cachesOnly_touchLoad (s : State) (c x va n : Nat) (p : Place) : CachesOnly s (touchLoad s c x va n p) := by
  unfold touchLoad; dsimp only; split
  · exact .refl s
  split
  · exact cachesOnly_traceMsg ..
  · exact (((cachesOnly_setDir ..).trans (cachesOnly_traceMsg ..)).trans (cachesOnly_traceMsg ..)).trans (cachesOnly_addLine ..)

theorem cachesOnly_registerWords (s : State) (c x va n : Nat) (p : Place) : CachesOnly s (registerWords s c x va n p) := by
  unfold registerWords; dsimp only
  refine CachesOnly.trans ?_ (cachesOnly_traceMsg ..)
  refine CachesOnly.trans ?_ (cachesOnly_addLine ..)
  refine CachesOnly.trans ?_ (cachesOnly_backInvalidate ..)
  refine CachesOnly.trans ?_ (cachesOnly_keepOld ..)
  refine CachesOnly.trans ?_ (cachesOnly_setDir ..)
  refine CachesOnly.trans ?_ (cachesOnly_dropLine ..)
  split
  · exact (cachesOnly_recallWords ..).trans (cachesOnly_recallOne ..)
  · exact cachesOnly_recallWords ..

theorem cachesOnly_touchHome (s : State) (c x va n : Nat) (p : Place) : CachesOnly s (touchHome s c x va n p) := by
  unfold touchHome; split
  · dsimp only
    have h := (((cachesOnly_setWritten s p.home x va).trans (cachesOnly_traceMsg _ x (va / 128) 11 c (wordMask va n))).trans
      (cachesOnly_invalidateReaders _ x (va / 128) 8192)).trans
      ((cachesOnly_recallWords _ x (va / 128) (wordMask va n) 8192).trans (cachesOnly_backInvalidate _ x (va / 128) p.key))
    split
    · exact h
    · exact h.trans (cachesOnly_keepOld ..)
  · exact .refl s

theorem cachesOnly_touchStore (s : State) (c x va n : Nat) (p : Place) : CachesOnly s (touchStore s c x va n p) := by
  unfold touchStore; split
  · exact cachesOnly_backInvalidate ..
  split
  · exact cachesOnly_touchHome ..
  · exact (((cachesOnly_setWritten ..).trans (cachesOnly_traceMsg ..)).trans (cachesOnly_invalidateReaders ..)).trans
      (cachesOnly_registerWords ..)

/-- A moved split keeps the canonical form of memory (R191). -/
theorem moveSplit_wf (s : State) (c new : Nat) (h : Memory.wf s.mem = true) : Memory.wf (moveSplit s c new).mem = true := by
  simp only [moveSplit]
  split
  · exact h
  · refine (congrArg (fun m => Memory.wf m) (cachesOnly_foldl _ (fun t l => ?_) _ _).mem).trans (shiftKeys_wf _ _ _ _ _ h)
    split
    · exact cachesOnly_endRegistration t c l.ctx l.line
    · exact cachesOnly_dropClean t c l

/-! Loads of a bundle. -/

theorem SameButLoads.trans {s t u : State} (h : SameButLoads s t) (k : SameButLoads t u) : SameButLoads s u :=
  ⟨k.1.trans h.1, k.2.1.trans h.2.1, k.2.2.1.trans h.2.2.1, k.2.2.2.1.trans h.2.2.2.1,
    fun c => (k.2.2.2.2.1 c).trans (h.2.2.2.2.1 c),
    fun c t => (k.2.2.2.2.2 c t).trans (h.2.2.2.2.2 c t)⟩

theorem SameButLoads.refl (s : State) : SameButLoads s s := ⟨rfl, rfl, rfl, rfl, fun _ => rfl, fun _ _ => rfl⟩

theorem CachesOnly.sameButLoads {s u : State} (h : CachesOnly s u) : SameButLoads s u := by
  refine ⟨h.mem, h.ctxs, h.iss, h.env, fun c => congrArg (fun k : Core => { k with slots := [] }) (h.cores c), fun c t => ?_⟩
  have : u.slot c t = s.slot c t := by
    have := congrArg Core.slots (h.cores c)
    simp only [State.slot, Core.slot]
    rw [show (u.core c).slots = (s.core c).slots from this]
  rw [this]

/-- A change of what the bundle keeps of its loads. -/
theorem sameButLoads_modCur (s : State) (f : Slot → Slot) (hf : ∀ l, { f l with reply := none, part := [] } = { l with reply := none, part := [] }) :
    SameButLoads s (s.modCur f) := by
  refine ⟨rfl, rfl, rfl, rfl, fun c => ?_, fun c t => ?_⟩
  · by_cases h : c = s.iss.core
    · subst h; simp [State.modCur, State.modSlot, State.setSlot, State.modCore, State.setCore, State.core, Core.setSlot]
    · simp [State.modCur, State.modSlot, State.setSlot, State.modCore, State.setCore, State.core, h]
  · unfold State.modCur; rw [State.slot_modSlot]
    split
    · rename_i h; obtain ⟨rfl, rfl⟩ := h; exact hf _
    · rfl

/-- A load of the bundle in issue changes the caches alone (R110, R193). -/
theorem threadLoad_keeps {s u : State} {va : Word} {n : Nat} {bs : List Byte} (h : threadLoad s va n = .ok (bs, u)) : SameButLoads s u := by
  unfold threadLoad at h
  split at h
  · cases h; exact sameButLoads_modCur _ _ fun _ => rfl
  · split at h
    · unfold loadNow at h
      split at h
      · cases h
      · split at h
        · cases h
        · split at h
          · cases h
          · cases h
            split
            · exact ((cachesOnly_install ..).trans (cachesOnly_touchLoad ..)).sameButLoads
            · exact .refl s
    · cases h

/-- Gathered loads change nothing but the caches and what the bundle keeps of its loads (R249, R257). -/
theorem gatherLoads_keeps {s u : State} {z : Nat} {vas : List Word} {bs : List Byte} (h : gatherLoads s z vas = .ok (bs, u)) :
    SameButLoads s u := by
  simp only [gatherLoads] at h
  generalize vas.drop (s.cur.part.length / z) = l at h
  generalize s.cur.part = p at h
  induction l generalizing s p with
  | nil => cases h; exact .refl _
  | cons a l ih =>
    rw [List.foldlM_cons] at h
    cases hl : threadLoad s a z with
    | error e => simp only [hl] at h; cases h
    | ok q =>
      simp only [hl] at h
      exact ((threadLoad_keeps hl).trans (sameButLoads_modCur q.2 (fun l => { l with part := p ++ q.1 }) fun _ => rfl)).trans (ih _ h)

/-! A read changes nothing but the management processor's trace (R217). -/

/-- A traced message. -/
theorem traceMsg_manage (s : State) (x line kind core mask : Nat) : ∃ m, traceMsg s x line kind core mask = { s with manage := m } := by
  unfold traceMsg
  split <;> exact ⟨_, rfl⟩

/-- A trace of read requests. -/
theorem traceReads_manage (s : State) (c x : Nat) (va : Word) (n : Nat) : ∃ m, traceReads s c x va n = { s with manage := m } := by
  unfold traceReads
  split
  · exact ⟨_, rfl⟩
  · suffices ∀ (l : List (Nat × Nat)) (t : State), (∃ m, t = { s with manage := m }) → ∃ m, l.foldl (fun t q =>
        traceMsg t x (q.1 / 128) (if elsewhereReg t c x q.1 q.2 then 7 else 6) c (wordMask q.1 q.2)) t = { s with manage := m } from
      this _ s ⟨_, rfl⟩
    intro l
    induction l with
    | nil => exact fun t h => h
    | cons q l ih =>
      rintro t ⟨m, rfl⟩
      obtain ⟨k, hk⟩ := traceMsg_manage { s with manage := m } x (q.1 / 128) (if elsewhereReg { s with manage := m } c x q.1 q.2 then 7 else 6) c
        (wordMask q.1 q.2)
      exact ih _ ⟨k, hk⟩

/-- A range that the bundle in issue has read. -/
theorem readRange_manage {s u : State} {va : Word} {n : Nat} {g : Rights} {bs : List Byte} (h : readRange s va n g = .ok (bs, u)) :
    ∃ m, u = { s with manage := m } := by
  unfold readRange at h
  split at h
  · cases h
  · cases h; exact traceReads_manage ..

/-- Several ranges that the bundle in issue has read. -/
theorem readRanges_manage {s u : State} {l : List (Nat × Nat)} {bs : List (List Byte)} (h : readRanges s l = .ok (bs, u)) :
    ∃ m, u = { s with manage := m } := by
  induction l generalizing s u bs with
  | nil => cases h; exact ⟨_, rfl⟩
  | cons p l ih =>
    simp only [readRanges] at h
    split at h
    · cases h
    · rename_i hr
      split at h
      · cases h
      · rename_i hq
        cases h
        obtain ⟨m, rfl⟩ := readRange_manage hr
        obtain ⟨k, hk⟩ := ih hq
        exact ⟨k, hk⟩

end Sys2Proof.Machine
end

