-- ==== Sys2Proof/Laws/Decode.lean ====
section
/-!
SUPPORT. The fields of encoded words: what the decoder reads from a word that the encoder has packed (R29 to R53). A round trip of an
instruction cites the lemma of its form.
-/
namespace Sys2Proof

/-- A mark as a bit. -/
theorem bit_lt (b : Bool) : bit b < 2 := by cases b <;> decide

/-- A bit as a mark. -/
@[simp] theorem mark_bit (b : Bool) : mark (bit b) = b := by cases b <;> rfl

/-- The fields of a word of three registers. -/
theorem wRRR_fields {op d a b sa sb fn : Nat} (h1 : op < 64) (h2 : d < 128) (h3 : a < 128) (h4 : b < 128) (h5 : sa < 2) (h6 : sb < 2) (h7 : fn < 4) :
  fOp (wRRR op d a b sa sb fn) = op ∧ fD (wRRR op d a b sa sb fn) = d ∧ fA (wRRR op d a b sa sb fn) = a ∧ fB (wRRR op d a b sa sb fn) = b
  ∧ fSa (wRRR op d a b sa sb fn) = sa ∧ fSb (wRRR op d a b sa sb fn) = sb ∧ fFn (wRRR op d a b sa sb fn) = fn
    ∧ wRRR op d a b sa sb fn < 2147483648 := by
  unfold fOp fD fA fB fSa fSb fFn wRRR; omega

/-- The fields of an extended literal. -/
theorem wLit_fields {sub ty md var : Nat} (h1 : sub < 1024) (h2 : ty < 16) (h3 : md < 16) (h4 : var < 16384) :
  lSub (wLit sub ty md var) = sub ∧ lTy (wLit sub ty md var) = ty ∧ lMd (wLit sub ty md var) = md ∧ lVar (wLit sub ty md var) = var
    ∧ wLit sub ty md var < 4294967296 := by
  unfold lSub lTy lMd lVar wLit; omega

/-- The fields of a word with an immediate. -/
theorem wRRI_fields {op d a sa imm : Nat} (h1 : op < 64) (h2 : d < 128) (h3 : a < 128) (h5 : sa < 2) (h7 : imm < 1024) :
  fOp (wRRI op d a sa imm) = op ∧ fD (wRRI op d a sa imm) = d ∧ fA (wRRI op d a sa imm) = a ∧ fSai (wRRI op d a sa imm) = sa
    ∧ fImm (wRRI op d a sa imm) = imm ∧ wRRI op d a sa imm < 2147483648 := by
  unfold fOp fD fA fSai fImm wRRI; omega

/-- A signed field of 10 bits. -/
theorem sext_usext_10 {i : Int} (h : sfit 9 i = true) : sext 10 (usext 10 i) = i ∧ usext 10 i < 1024 := by
  simp [sfit] at h; unfold sext usext; simp; omega

/-- A signed field of 11 bits. -/
theorem sext_usext_11 {i : Int} (h : sfit 10 i = true) : sext 11 (usext 11 i) = i ∧ usext 11 i < 2048 := by
  simp [sfit] at h; unfold sext usext; simp; omega

/-- A signed field of 18 bits. -/
theorem sext_usext_18 {i : Int} (h : sfit 17 i = true) : sext 18 (usext 18 i) = i ∧ usext 18 i < 262144 := by
  simp [sfit] at h; unfold sext usext; simp; omega

/-- A signed field of 8 bits. -/
theorem sext_usext_8 {i : Int} (h : sfit 7 i = true) : sext 8 (usext 8 i) = i ∧ usext 8 i < 256 := by
  simp [sfit] at h; unfold sext usext; simp; omega

/-- The fields of an extended A-class bundle. -/
theorem eXA_fields {sub d : Nat} {a b : Src} {ty md var : Nat} {p} (hd : d < 128) (ha : a.r < 128) (hb : b.r < 128) (h1 : sub < 256)
    (h2 : ty < 16) (h3 : md < 16) (h4 : var < 16384)
  (h : eXA sub d a b ty md var = some p) : candidate p.1 p.2 = candXA p.1 p.2 ∧ p.1 < 2147483648 ∧ p.2 < 4294967296 ∧ fD p.1 = d
    ∧ srcA p.1 = a ∧ srcB p.1 = b ∧ lSub p.2 = sub ∧ lTy p.2 = ty ∧ lMd p.2 = md ∧ lVar p.2 = var := by
  simp only [eXA, Option.some.injEq] at h; subst h
  obtain ⟨r1, r2, r3, r4, r5, r6, r7, r8⟩ := wRRR_fields (op := 31) (fn := 0) (by omega) hd ha hb (bit_lt a.bang) (bit_lt b.bang) (by omega)
  obtain ⟨l1, l2, l3, l4, l5⟩ := wLit_fields (by omega : sub < 1024) h2 h3 h4
  simp only [eR3, srcA, srcB, r2, r3, r4, r5, r6, r8, l1, l2, l3, l4, l5, mark_bit, and_self, and_true]
  simp [candidate, r1]

/-- The fields of an extended C-class bundle. -/
theorem eXC_fields {sub d : Nat} {a b : Src} {ty md var : Nat} {p} (hd : d < 128) (ha : a.r < 128) (hb : b.r < 128) (h1 : sub < 1024)
    (h2 : ty < 16) (h3 : md < 16) (h4 : var < 16384)
  (h : eXC sub d a b ty md var = some p) : candidate p.1 p.2 = (if sub < 256 then candXC1 p.1 p.2 else candXC2 p.1 p.2) ∧ p.1 < 2147483648
    ∧ p.2 < 4294967296 ∧ fD p.1 = d ∧ srcA p.1 = a ∧ srcB p.1 = b ∧ lSub p.2 = sub ∧ lTy p.2 = ty ∧ lMd p.2 = md ∧ lVar p.2 = var := by
  simp only [eXC, Option.some.injEq] at h; subst h
  obtain ⟨r1, r2, r3, r4, r5, r6, r7, r8⟩ := wRRR_fields (op := 63) (fn := 0) (by omega) hd ha hb (bit_lt a.bang) (bit_lt b.bang) (by omega)
  obtain ⟨l1, l2, l3, l4, l5⟩ := wLit_fields (by omega : sub < 1024) h2 h3 h4
  simp only [eR3, srcA, srcB, r2, r3, r4, r5, r6, r8, l1, l2, l3, l4, l5, mark_bit, and_self, and_true]
  simp [candidate, r1, l1]

/-- The fields of an encoded word of three registers. -/
theorem eR3_fields {op fn d : Nat} {a b : Src} {p} (ho : op < 64) (hd : d < 128) (ha : a.r < 128) (hb : b.r < 128) (hf : fn < 4)
    (h : eW (eR3 op fn d a b) = some p) :
  p.2 = 0 ∧ p.1 < 2147483648 ∧ fOp p.1 = op ∧ fD p.1 = d ∧ srcA p.1 = a ∧ srcB p.1 = b ∧ fFn p.1 = fn ∧ fB p.1 = b.r := by
  simp only [eW, Option.some.injEq] at h; subst h
  obtain ⟨r1, r2, r3, r4, r5, r6, r7, r8⟩ := wRRR_fields ho hd ha hb (bit_lt a.bang) (bit_lt b.bang) hf
  simp only [eR3, srcA, srcB, r1, r2, r3, r4, r5, r6, r7, r8, mark_bit]; simp

/-- The fields of an encoded word of two registers. -/
theorem eR2_fields {op fn d b : Nat} {a : Src} {p} (ho : op < 64) (hd : d < 128) (ha : a.r < 128) (hb : b < 128) (hf : fn < 4)
    (h : eW (eR2 op fn d a b) = some p) :
  p.2 = 0 ∧ p.1 < 2147483648 ∧ fOp p.1 = op ∧ fD p.1 = d ∧ srcA p.1 = a ∧ fB p.1 = b ∧ fFn p.1 = fn := by
  simp only [eW, Option.some.injEq] at h; subst h
  obtain ⟨r1, r2, r3, r4, r5, r6, r7, r8⟩ := wRRR_fields (sb := 0) ho hd ha hb (bit_lt a.bang) (by omega) hf
  simp only [eR2, srcA, r1, r2, r3, r4, r5, r7, r8, mark_bit]; simp

/-- The fields of an encoded word with an immediate. -/
theorem eI_fields {op d imm : Nat} {a : Src} {p} (ho : op < 64) (hd : d < 128) (ha : a.r < 128) (hf : imm < 1024) (h : eW (eI op d a imm) = some p) :
  p.2 = 0 ∧ p.1 < 2147483648 ∧ fOp p.1 = op ∧ fD p.1 = d ∧ srcI p.1 = a ∧ fImm p.1 = imm := by
  simp only [eW, Option.some.injEq] at h; subst h
  obtain ⟨r1, r2, r3, r4, r5, r6⟩ := wRRI_fields ho hd ha (bit_lt a.bang) hf
  simp only [eI, srcI, r1, r2, r3, r4, r5, r6, mark_bit]; simp

/-- The codes of types, relations and other named fields are read back. -/
theorem FTy_code (t : FTy) : FTy.ofCode t.code = some t ∧ t.code < 16 ∧ FTy.ofFn t.fn = t ∧ t.fn < 2 := by cases t <;> decide
theorem VTy_code (t : VTy) : VTy.ofCode t.code = some t ∧ t.code < 16 := by cases t <;> decide
theorem ITy_code (t : ITy) : ITy.ofCode t.code = some t ∧ t.code < 16 := by cases t <;> decide
theorem Rel_code (t : Rel) : Rel.ofCode t.code = some t ∧ t.code < 16 := by cases t <;> decide
theorem RedOp_code (t : RedOp) : RedOp.ofCode t.code = some t ∧ t.code < 16 := by cases t <;> decide
theorem ScanOp_code (t : ScanOp) : ScanOp.ofCode t.code = some t ∧ t.code < 16 := by cases t <;> decide
theorem Scope_code (t : Scope) : Scope.ofCode t.code = some t ∧ t.code < 8 := by cases t <;> decide
theorem Level_code (t : Level) : Level.ofCode t.code = some t ∧ t.code < 16 := by cases t <;> decide
theorem Preset_code (t : Preset) : Preset.ofCode t.code = some t ∧ t.code < 16 ∧ t.code ≠ 0 := by cases t <;> decide
theorem Shape_code (t : Shape) : Shape.ofCode t.code = some t ∧ t.code < 16 := by cases t <;> decide
theorem MForm_code (t : MForm) : MForm.ofCode t.code = some t ∧ t.code < 8 := by cases t <;> decide
theorem Fmt_code (t : Fmt) : Fmt.ofCode t.code = some t ∧ t.code < 16 ∧ t.code ≠ 0 := by cases t <;> decide
theorem Rnd_code (t : Rnd) : Rnd.ofCode t.code = some t ∧ t.code < 8 := by cases t <;> decide

/-- The formats of a conversion are read back from its literal. -/
theorem conv_ofLit {pair ov} {c : Conv} (h : c.ok pair ov = true) : c.ty < 16 ∧ c.var < 16384
    ∧ ∀ l, lTy l = c.ty → lVar l = c.var → Conv.ofLit pair l = some c := by
  cases c with
  | pend => exact ⟨by decide, by decide, fun l h1 h2 => by simp [Conv.ofLit, h1, h2, Conv.ty, Conv.var]⟩
  | lit d a o r t =>
    simp [Conv.ok] at h
    obtain ⟨f1, f2, f3⟩ := Fmt_code d
    obtain ⟨g1, g2, g3⟩ := Fmt_code a
    obtain ⟨r1, r2⟩ := Rnd_code r
    have b1 := bit_lt o; have b2 := bit_lt t
    refine ⟨f2, ?_, fun l h1 h2 => ?_⟩
    · simp [Conv.var]; omega
    · simp only [Conv.ty] at h1; simp only [Conv.var] at h2
      have e1 : lVar l / 1024 % 16 = a.code := by omega
      have e2 : lVar l / 64 % 8 = r.code := by omega
      have e3 : lVar l / 512 % 2 = bit o := by omega
      have e4 : lVar l / 32 % 2 = bit t := by omega
      simp [Conv.ofLit, h1, f1, f3, e1, e2, e3, e4, g1, r1, h.1]

/-- The mode of an atomic is read back from its literal. -/
theorem atomMode_ofLit {m : AtomMode} (h : m.ok = true) : m.md < 4 ∧ m.var < 16384
    ∧ ∀ l, lMd l = m.md → lVar l = m.var → AtomMode.ofLit l = some m := by
  obtain ⟨s1, s2⟩ := Scope_code m.scope
  obtain ⟨x1, x2⟩ := sext_usext_11 h
  have b1 := bit_lt m.acq; have b2 := bit_lt m.rel
  refine ⟨by simp [AtomMode.md]; omega, by simp [AtomMode.var]; omega, fun l h1 h2 => ?_⟩
  simp only [AtomMode.md] at h1; simp only [AtomMode.var] at h2
  have e1 : lVar l / 2048 % 8 = m.scope.code := by omega
  have e2 : lVar l % 2048 = usext 11 m.off := by omega
  have e3 : lMd l % 2 = bit m.acq := by omega
  have e4 : lMd l / 2 % 2 = bit m.rel := by omega
  have e5 : lMd l < 4 := by omega
  simp [AtomMode.ofLit, e1, e2, e3, e4, e5, s1, x1]

end Sys2Proof
end

