-- ==== Sys2Proof/Laws/Issue.lean ====
section
/-!
SUPPORT. What the frame of every instruction does: a bundle that passes the checks runs its body and retires; what a write of a
register and a retirement change.
-/
namespace Sys2Proof.Machine

theorem beyond_none {size : Nat} {f : Field} (h : ∀ r ∈ f.regs, r < size) : f.beyond size = none := by
  unfold Field.regs at h
  unfold Field.beyond
  split
  · rename_i hv
    rw [if_pos hv] at h
    have := h (8 * f.n + 7) (List.mem_map.2 ⟨7, by simp, rfl⟩)
    simp [this]
  · rename_i hv
    rw [if_neg hv] at h
    have := h f.n (by simp)
    simp [this]

theorem windowFails_none {s : State} {i : Instr} (hr : ∀ f ∈ regFields i, ∀ r ∈ f.regs, r < s.size)
    (ha : ∀ n, accField i = some n → n < s.cur.accs.length) : windowFails s i = none := by
  unfold windowFails
  have : (regFields i).findSome? (·.beyond s.size) = none := by
    rw [List.findSome?_eq_none_iff]
    exact fun f hf => beyond_none (hr f hf)
  rw [this]
  cases h : accField i with
  | none => rfl
  | some n => simp [ha n h]

theorem mem_foldl_insN (l a : List Nat) (r : Nat) : r ∈ l.foldl insN a ↔ r ∈ a ∨ r ∈ l := by
  induction l generalizing a with
  | nil => simp
  | cons x t ih => rw [List.foldl_cons, ih, mem_insN, List.mem_cons, or_assoc, or_left_comm]

theorem emptyBangs_nil {s : State} {i : Instr} (h : ∀ r ∈ syncRegs i, isEmpty s r = false) : emptyBangs s [i] = [] := by
  unfold emptyBangs
  rw [List.filter_eq_nil_iff]
  intro r hr
  rw [mem_foldl_insN] at hr
  simp only [List.flatMap_cons, List.flatMap_nil, List.append_nil, List.not_mem_nil, false_or] at hr
  simp [h r hr]

/-- A bundle that is clear passes the checks of R42. -/
theorem checks_ok {s : State} {i : Instr} (h : Clear s i) : checks s [i] = .ok () := by
  unfold checks
  simp [h.legal, h.allowed, windowFails_none h.regsIn h.accIn, h.served, emptyBangs_nil h.full, h.steady]

/-- A bundle that passes the checks and whose body answers `t` finishes from `t`. -/
theorem guard_next {s t : State} {i : Instr} {body : Act} (h : Runs s i) (hb : body s = .ok t) :
    guard i body s = .next (finish s i t) := by
  have hc : (if s.iss.passed then (.ok () : Except Stop Unit) else checks s [i]) = .ok () := by
    rcases h.checked with hp | hp
    · simp [hp]
    · simp [checks_ok hp]
  unfold guard runBundle
  rw [if_pos h.wf, if_pos h.ready, hc]
  simp [hb, finish]

/-- A bundle that passes the checks and whose body stops, stops so. -/
theorem guard_stop {s : State} {i : Instr} {body : Act} {e : Stop} (h : Runs s i) (hb : body s = .error e) :
    guard i body s = .next (stopped true s e) := by
  have hc : (if s.iss.passed then (.ok () : Except Stop Unit) else checks s [i]) = .ok () := by
    rcases h.checked with hp | hp
    · simp [hp]
    · simp [checks_ok hp]
  unfold guard runBundle
  rw [if_pos h.wf, if_pos h.ready, hc]
  simp [hb]

/-- An event that names agents which exist happens. -/
theorem event_next {ok : Bool} {f : State → State} {s : State} (h : ok = true) : event ok f s = .next (f s) := by
  simp [event, h]

/-! What a write of an entry and a retirement change. -/

theorem entry_setEntry (s : State) (c e : Nat) (v : Word) (d x : Nat) :
    (setEntry s c e v).entry d x = if d = c ∧ x = e then v else s.entry d x := by
  unfold State.entry setEntry
  by_cases h : d = c
  · subst h; simp
  · simp [h]

theorem emptyAt_setEntry (s : State) (c e : Nat) (v : Word) (d x : Nat) :
    (setEntry s c e v).emptyAt d x = (s.emptyAt d x && !(decide (d = c) && decide (x = e))) := by
  unfold State.emptyAt setEntry
  by_cases h : d = c
  · subst h
    by_cases hx : x = e <;> simp [hx]
  · simp [h]

theorem slot_setEntry (s : State) (c e : Nat) (v : Word) (d u : Nat) : (setEntry s c e v).slot d u = s.slot d u := by
  unfold State.slot Core.slot setEntry
  by_cases h : d = c
  · subst h; simp
  · simp [h]

theorem bare_setEntry (s : State) (c e : Nat) (v : Word) (d : Nat) : ((setEntry s c e v).core d).bare = (s.core d).bare := by
  unfold setEntry
  by_cases h : d = c
  · subst h; simp [Core.bare]
  · simp [h]

theorem outside_setEntry (s : State) (c e : Nat) (v : Word) : (setEntry s c e v).outside = s.outside := rfl

/-- The writes of a list of window registers, in order. -/
def wxs (s : State) (ws : List (Nat × Word)) : State := ws.foldl (fun t w => wx t w.1 w.2) s

theorem wx_eq_wxs (s : State) (d : Nat) (v : Word) : wx s d v = wxs s [(d, v)] := rfl

theorem wv_eq_wxs (s : State) (k : Nat) (v : List Lane) : wv s k v = wxs s (vecWrites k v) := by
  simp only [wv, wxs, vecWrites, List.foldl_map]

theorem wxs_append (s : State) (a b : List (Nat × Word)) : wxs s (a ++ b) = wxs (wxs s a) b := by
  simp [wxs]

/-- A write of a register keeps everything but its entry. -/
theorem wx_keeps (s : State) (n : Nat) (v : Word) :
    (wx s n v).outside = s.outside ∧ (∀ c u, (wx s n v).slot c u = s.slot c u)
      ∧ (∀ c, ((wx s n v).core c).bare = (s.core c).bare) := by
  unfold wx
  split
  · exact ⟨rfl, fun _ _ => rfl, fun _ => rfl⟩
  · exact ⟨outside_setEntry _ _ _ _, fun _ _ => slot_setEntry _ _ _ _ _ _, fun _ => bare_setEntry _ _ _ _ _⟩

theorem outside_iss {s t : State} (h : t.outside = s.outside) : t.iss = s.iss := by
  have := congrArg State.iss h
  exact this

theorem cur_congr {s t : State} (ho : t.outside = s.outside) (hs : ∀ c u, t.slot c u = s.slot c u) : t.cur = s.cur := by
  unfold State.cur
  rw [outside_iss ho, hs]

theorem base_congr {s t : State} (ho : t.outside = s.outside) (hs : ∀ c u, t.slot c u = s.slot c u) : t.base = s.base := by
  unfold State.base
  rw [cur_congr ho hs, outside_iss ho]

theorem wxs_keeps (ws : List (Nat × Word)) (s : State) :
    (wxs s ws).outside = s.outside ∧ (∀ c u, (wxs s ws).slot c u = s.slot c u)
      ∧ (∀ c, ((wxs s ws).core c).bare = (s.core c).bare) := by
  induction ws generalizing s with
  | nil => exact ⟨rfl, fun _ _ => rfl, fun _ => rfl⟩
  | cons w t ih =>
    obtain ⟨h1, h2, h3⟩ := ih (wx s w.1 w.2)
    obtain ⟨k1, k2, k3⟩ := wx_keeps s w.1 w.2
    exact ⟨h1.trans k1, fun c u => (h2 c u).trans (k2 c u), fun c => (h3 c).trans (k3 c)⟩

theorem entry_wx (s : State) (n : Nat) (v : Word) (c e : Nat) :
    (wx s n v).entry c e = if n ≠ 0 ∧ c = s.iss.core ∧ e = s.base + n then v else s.entry c e := by
  unfold wx
  by_cases h : n = 0
  · simp [h]
  · rw [if_neg h, entry_setEntry]; simp [h]

theorem emptyAt_wx (s : State) (n : Nat) (v : Word) (c e : Nat) :
    (wx s n v).emptyAt c e = (s.emptyAt c e && !(decide (n ≠ 0) && (decide (c = s.iss.core) && decide (e = s.base + n)))) := by
  unfold wx
  by_cases h : n = 0
  · simp [h]
  · rw [if_neg h, emptyAt_setEntry]; simp [h]

/-- The registers that a list of writes names, but x0, are distinct. -/
def distinctRegs (ws : List (Nat × Word)) : Prop := ((ws.map (·.1)).filter (· != 0)).Nodup

theorem look_writtenEntries_none (base : Nat) (ws : List (Nat × Word)) (r : Nat)
    (h : r ∉ (ws.map (·.1)).filter (· != 0)) : look (writtenEntries base ws) (base + r) = none := by
  apply look_none
  intro p hp
  simp only [writtenEntries, List.mem_map, List.mem_filter] at hp
  obtain ⟨w, ⟨hw, h0⟩, rfl⟩ := hp
  intro he
  apply h
  rw [List.mem_filter]
  have : w.1 = r := by simpa using he
  subst this
  exact ⟨List.mem_map.2 ⟨w, hw, rfl⟩, h0⟩

theorem entry_wxs (ws : List (Nat × Word)) (s : State) (h : distinctRegs ws) (c e : Nat) :
    (wxs s ws).entry c e = if c = s.iss.core then (look (writtenEntries s.base ws) e).getD (s.entry c e) else s.entry c e := by
  induction ws generalizing s with
  | nil => simp [wxs, writtenEntries, look]
  | cons w t ih =>
    have hk := wx_keeps s w.1 w.2
    have hb := base_congr hk.1 hk.2.1
    have hi := outside_iss hk.1
    show (wxs (wx s w.1 w.2) t).entry c e = _
    unfold distinctRegs at h
    by_cases h0 : w.1 = 0
    · have hx : wx s w.1 w.2 = s := by simp [wx, h0]
      rw [hx, ih s (by unfold distinctRegs; simpa [h0] using h)]
      simp [writtenEntries, h0]
    · rw [List.map_cons, List.filter_cons_of_pos (by simpa using h0), List.nodup_cons] at h
      rw [ih (wx s w.1 w.2) h.2, hb, hi, entry_wx]
      have hwe : writtenEntries s.base (w :: t) = (s.base + w.1, w.2) :: writtenEntries s.base t := by
        simp [writtenEntries, h0]
      rw [hwe, look]
      by_cases hc : c = s.iss.core
      · by_cases he : s.base + w.1 = e
        · subst he
          simp [hc, h0, look_writtenEntries_none s.base t w.1 h.1]
        · simp [hc, he, Ne.symm he]
      · simp [hc]

theorem emptyAt_wxs (ws : List (Nat × Word)) (s : State) (c e : Nat) :
    (wxs s ws).emptyAt c e = true ↔
      s.emptyAt c e = true ∧ ¬ (c = s.iss.core ∧ (look (writtenEntries s.base ws) e).isSome) := by
  induction ws generalizing s with
  | nil => simp [wxs, writtenEntries, look]
  | cons w t ih =>
    have hk := wx_keeps s w.1 w.2
    have hb := base_congr hk.1 hk.2.1
    have hi := outside_iss hk.1
    show (wxs (wx s w.1 w.2) t).emptyAt c e = true ↔ _
    rw [ih, hb, hi, emptyAt_wx]
    by_cases h0 : w.1 = 0
    · simp [h0, writtenEntries]
    · have hwe : writtenEntries s.base (w :: t) = (s.base + w.1, w.2) :: writtenEntries s.base t := by
        simp [writtenEntries, h0]
      rw [hwe, look]
      by_cases hc : c = s.iss.core
      · by_cases he : s.base + w.1 = e
        · subst he; simp [hc, h0]
        · simp [hc, he, Ne.symm he]
      · simp [hc]

/-! Retirement (R25, R104). -/

theorem emptyReg_keeps (s : State) (n : Nat) :
    (emptyReg s n).outside = s.outside ∧ (∀ c u, (emptyReg s n).slot c u = s.slot c u)
      ∧ (∀ c, ((emptyReg s n).core c).bare = (s.core c).bare) ∧ (∀ c e, (emptyReg s n).entry c e = s.entry c e) := by
  refine ⟨rfl, fun c u => ?_, fun c => ?_, fun c e => ?_⟩
  · unfold State.slot Core.slot emptyReg State.modHere
    by_cases h : c = s.iss.core
    · subst h; simp
    · simp [h]
  · unfold emptyReg State.modHere
    by_cases h : c = s.iss.core
    · subst h; simp [Core.bare]
    · simp [h]
  · unfold State.entry emptyReg State.modHere
    by_cases h : c = s.iss.core
    · subst h; simp
    · simp [h]

theorem emptyAt_emptyReg (s : State) (n c e : Nat) :
    (emptyReg s n).emptyAt c e = true ↔ (c = s.iss.core ∧ e = s.base + n) ∨ s.emptyAt c e = true := by
  unfold State.emptyAt emptyReg State.modHere
  by_cases h : c = s.iss.core
  · subst h; simp
  · simp [h]

theorem emptyRegs_keeps (rs : List Nat) (s : State) :
    (rs.foldl emptyReg s).outside = s.outside ∧ (∀ c u, (rs.foldl emptyReg s).slot c u = s.slot c u)
      ∧ (∀ c, ((rs.foldl emptyReg s).core c).bare = (s.core c).bare)
      ∧ (∀ c e, (rs.foldl emptyReg s).entry c e = s.entry c e) := by
  induction rs generalizing s with
  | nil => exact ⟨rfl, fun _ _ => rfl, fun _ => rfl, fun _ _ => rfl⟩
  | cons r t ih =>
    obtain ⟨a, b, c, d⟩ := ih (emptyReg s r)
    obtain ⟨a', b', c', d'⟩ := emptyReg_keeps s r
    exact ⟨a.trans a', fun x y => (b x y).trans (b' x y), fun x => (c x).trans (c' x), fun x y => (d x y).trans (d' x y)⟩

theorem emptyAt_emptyRegs (rs : List Nat) (s : State) (c e : Nat) :
    (rs.foldl emptyReg s).emptyAt c e = true ↔ (c = s.iss.core ∧ ∃ r ∈ rs, e = s.base + r) ∨ s.emptyAt c e = true := by
  induction rs generalizing s with
  | nil => simp
  | cons r t ih =>
    obtain ⟨a', b', c', d'⟩ := emptyReg_keeps s r
    rw [List.foldl_cons, ih, outside_iss a', base_congr a' b', emptyAt_emptyReg]
    constructor
    · rintro (⟨hc, x, hx, he⟩ | ⟨hc, he⟩ | h)
      · exact .inl ⟨hc, x, List.mem_cons_of_mem _ hx, he⟩
      · exact .inl ⟨hc, r, List.mem_cons_self, he⟩
      · exact .inr h
    · rintro (⟨hc, x, hx, he⟩ | h)
      · rcases List.mem_cons.1 hx with rfl | hx
        · exact .inr (.inl ⟨hc, he⟩)
        · exact .inl ⟨hc, x, hx, he⟩
      · exact .inr (.inr h)

/-- What the retirement of a lone bundle changes: the full/empty bits of the registers named with `!` and not written, and the
pending prefix of a consumer. -/
theorem retire_spec (t : State) (i : Instr) :
    (retire t [i]).outside = t.outside
      ∧ (∀ c e, (retire t [i]).entry c e = t.entry c e)
      ∧ (∀ c, ((retire t [i]).core c).bare = (t.core c).bare)
      ∧ (∀ c u, (retire t [i]).slot c u =
          if c = t.iss.core ∧ u = t.iss.slot then
            (if (consumer i).isNone then t.cur else { t.cur with st := { t.cur.st with pp := false } })
          else t.slot c u)
      ∧ (∀ c e, (retire t [i]).emptyAt c e = true ↔
          (c = t.iss.core ∧ ∃ r ∈ syncRegs i, r ∉ i.writes ∧ e = t.base + r) ∨ t.emptyAt c e = true) := by
  let rs := ([i].flatMap syncRegs).filter (fun r => !([i].flatMap Instr.writes).contains r)
  have hu : emptySync t [i] = rs.foldl emptyReg t := rfl
  obtain ⟨k1, k2, k3, k4⟩ := emptyRegs_keeps rs t
  have k5 := emptyAt_emptyRegs rs t
  have kc := cur_congr k1 k2
  have ki := outside_iss k1
  have hrs : ∀ r, r ∈ rs ↔ r ∈ syncRegs i ∧ r ∉ i.writes := by
    intro r; simp [rs]
  have hemp : ∀ c e, (rs.foldl emptyReg t).emptyAt c e = true ↔
      (c = t.iss.core ∧ ∃ r ∈ syncRegs i, r ∉ i.writes ∧ e = t.base + r) ∨ t.emptyAt c e = true := by
    intro c e
    rw [k5]
    constructor
    · rintro (⟨hc, r, hr, he⟩ | h)
      · exact .inl ⟨hc, r, ((hrs r).1 hr).1, ((hrs r).1 hr).2, he⟩
      · exact .inr h
    · rintro (⟨hc, r, h1, h2, he⟩ | h)
      · exact .inl ⟨hc, r, (hrs r).2 ⟨h1, h2⟩, he⟩
      · exact .inr h
  unfold retire consume
  rw [hu]
  cases hcons : (consumer i).isSome with
  | false =>
    have hn : (consumer i).isNone = true := by simpa [Option.isNone_iff_eq_none] using hcons
    rw [if_neg (by simp [hcons])]
    refine ⟨k1, k4, k3, fun c u => ?_, hemp⟩
    rw [k2, hn]
    by_cases h : c = t.iss.core ∧ u = t.iss.slot
    · rw [if_pos h, h.1, h.2]; rfl
    · rw [if_neg h]
  | true =>
    have hn : (consumer i).isNone = false := by
      cases h : consumer i <;> simp_all
    rw [if_pos (by simp [hcons]), hn]
    have hm : ∀ (x : State) (f : Slot → Slot), (x.modCur f).outside = x.outside := fun _ _ => rfl
    refine ⟨(hm _ _).trans k1, fun c e => ?_, fun c => ?_, fun c u => ?_, fun c e => ?_⟩
    · rw [← k4]
      unfold State.entry State.modCur State.modSlot
      by_cases h : c = (rs.foldl emptyReg t).iss.core
      · subst h; simp
      · simp [h]
    · rw [← k3]
      unfold State.modCur State.modSlot
      by_cases h : c = (rs.foldl emptyReg t).iss.core
      · subst h; simp [Core.bare, Core.setSlot]
      · simp [h]
    · unfold State.modCur
      rw [State.slot_modSlot, ki]
      have : (rs.foldl emptyReg t).slot t.iss.core t.iss.slot = t.cur := k2 _ _
      by_cases h : c = t.iss.core ∧ u = t.iss.slot
      · rw [if_pos h, if_pos h, this]; rfl
      · rw [if_neg h, if_neg h, k2]
    · rw [← hemp]
      unfold State.emptyAt State.modCur State.modSlot
      by_cases h : c = (rs.foldl emptyReg t).iss.core
      · subst h; simp
      · simp [h]

/-- The part of an instruction's effect that its body makes before it writes registers: it leaves the registers, the full/empty bits,
the window and the place of the bundle in issue. -/
structure Prepares (s u : State) (f : Slot → Slot) (g : Core → Core) (o : State → State) : Prop where
  outside : u.outside = (o s).outside
  here : u.iss.core = s.iss.core ∧ u.iss.slot = s.iss.slot
  base : u.base = s.base
  mine : u.cur = f s.cur
  slots : ∀ c k, ¬ (c = s.iss.core ∧ k = s.iss.slot) → u.slot c k = s.slot c k
  cores : ∀ c, (u.core c).bare = if c = s.iss.core then (g (s.core c)).bare else (s.core c).bare
  entry : ∀ c e, u.entry c e = s.entry c e
  empty : ∀ c e, u.emptyAt c e = s.emptyAt c e

theorem Prepares.refl (s : State) : Prepares s s id id id :=
  ⟨rfl, ⟨rfl, rfl⟩, rfl, rfl, fun _ _ _ => rfl, fun _ => by simp, fun _ _ => rfl, fun _ _ => rfl⟩

/-- An instruction's effect: what its body prepares, its register writes, and its retirement. -/
theorem finish_effect {s u : State} {f : Slot → Slot} {g : Core → Core} {o : State → State} (h : Prepares s u f g o) (i : Instr)
    (ws : List (Nat × Word)) (hd : distinctRegs ws) : Changes s (finish s i (wxs u ws)) i ws f g o := by
  obtain ⟨k1, k2, k3⟩ := wxs_keeps ws u
  have hi := outside_iss k1
  have hc := cur_congr k1 k2
  have hb := base_congr k1 k2
  have he : ∀ c e, (wxs u ws).entry c e =
      if c = s.iss.core then (look (writtenEntries s.base ws) e).getD (s.entry c e) else s.entry c e := by
    intro c e; rw [entry_wxs ws u hd, h.here.1, h.base, h.entry]
  have hm : ∀ c e, (wxs u ws).emptyAt c e = true ↔
      s.emptyAt c e = true ∧ ¬ (c = s.iss.core ∧ (look (writtenEntries s.base ws) e).isSome) := by
    intro c e; rw [emptyAt_wxs, h.here.1, h.base, h.empty]
  unfold finish
  cases hp : s.iss.pair with
  | true =>
    rw [if_pos rfl]
    refine ⟨⟨he, fun c e => ?_⟩, ?_, fun c k hk => (k2 c k).trans (h.slots c k hk), fun c => (k3 c).trans (h.cores c), k1.trans h.outside⟩
    · rw [hm]; simp [hp]
    · rw [hc, h.mine]; simp [retiredSlot, hp]
  | false =>
    rw [if_neg (by simp)]
    obtain ⟨r1, r2, r3, r4, r5⟩ := retire_spec (wxs u ws) i
    refine ⟨⟨fun c e => ?_, fun c e => ?_⟩, ?_, fun c k hk => ?_, fun c => ((r3 c).trans (k3 c)).trans (h.cores c), (r1.trans k1).trans h.outside⟩
    · rw [r2, he]
    · rw [r5, hm, hi, hb, h.here.1, h.base]; simp [hp]
    · unfold State.cur
      rw [r4, outside_iss r1, if_pos ⟨rfl, rfl⟩, hc, h.mine]
      unfold retiredSlot
      simp only [hp, Bool.false_or]
      rfl
    · rw [r4, hi, h.here.1, h.here.2, if_neg hk, k2, h.slots c k hk]

/-- An instruction whose effect is a list of register writes changes nothing else (R22, R25, R79, R104). -/
theorem finish_writes (s : State) (i : Instr) (ws : List (Nat × Word)) (hd : distinctRegs ws) :
    Changes s (finish s i (wxs s ws)) i ws id id id :=
  finish_effect (Prepares.refl s) i ws hd

theorem distinct_one (d : Nat) (v : Word) : distinctRegs [(d, v)] := by
  unfold distinctRegs
  exact List.Pairwise.filter _ (by simp)

theorem distinct_vec (k : Nat) (v : List Lane) : distinctRegs (vecWrites k v) := by
  unfold distinctRegs vecWrites
  apply List.Pairwise.filter
  rw [List.map_map]
  exact List.Pairwise.map _ (fun a b h => by simpa using h) (List.nodup_range (n := 8))

theorem distinct_vec2 (k : Nat) (v w : List Lane) : distinctRegs (vecWrites k v ++ vecWrites (k + 1) w) := by
  unfold distinctRegs vecWrites
  apply List.Pairwise.filter
  rw [List.map_append, List.map_map, List.map_map]
  refine List.pairwise_append.2 ⟨List.Pairwise.map _ (fun a b h => by simpa using h) (List.nodup_range (n := 8)),
    List.Pairwise.map _ (fun a b h => by simpa using h) (List.nodup_range (n := 8)), ?_⟩
  intro a ha b hb
  simp at ha hb
  omega

/-- An instruction whose body prepares `u` and then writes registers. -/
theorem does_of {s u : State} {i : Instr} {body : Act} {ws : List (Nat × Word)} {f : Slot → Slot} {g : Core → Core} {o : State → State}
    (he : exec i s = guard i body s) (hb : Runs s i → body s = .ok (wxs u ws)) (hp : Runs s i → Prepares s u f g o)
    (hd : distinctRegs ws) : Does s i ws f g o :=
  fun h => ⟨_, he.trans (guard_next h (hb h)), finish_effect (hp h) i ws hd⟩

theorem gives_setX {s : State} {i : Instr} {d : Nat} {f : State → Word} (he : exec i s = guard i (setX d f) s) {v : Word}
    (hv : Runs s i → f s = v) : Gives s i [(d, v)] :=
  does_of he (fun h => by rw [← hv h]; rfl) (fun _ => Prepares.refl s) (distinct_one d v)

theorem gives_setV {s : State} {i : Instr} {d : Nat} {f : State → List Lane} (he : exec i s = guard i (setV d f) s)
    {v : List Lane} (hv : Runs s i → f s = v) : Gives s i (vecWrites d v) :=
  does_of he (fun h => by rw [← hv h, ← wv_eq_wxs]; rfl) (fun _ => Prepares.refl s) (distinct_vec d v)

/-- A body that stops with a trap makes its bundle trap. -/
theorem traps_of {s : State} {i : Instr} {body : Act} {code info : Nat} {tval : Word} (he : exec i s = guard i body s)
    (hb : Runs s i → body s = .error (.trap code info tval)) : Traps s i code info tval :=
  fun h => he.trans (guard_stop h (hb h))

/-- A body that answers a state completes the instruction in it. -/
theorem ends_of {s t : State} {i : Instr} {body : Act} (he : exec i s = guard i body s) (hb : Runs s i → body s = .ok t) : Ends s i t :=
  fun h => he.trans (guard_next h (hb h))

/-- A body that waits makes its thread wait. -/
theorem waits_of {s t : State} {i : Instr} {body : Act} {w : Wait} (he : exec i s = guard i body s)
    (hb : Runs s i → body s = .error (.wait w t)) : Waits s i w t :=
  fun h => he.trans (guard_stop h (hb h))

/-- A body that writes one register gives its value. -/
theorem gives_of {s : State} {i : Instr} {d : Nat} {v : Word} {body : Act} (he : exec i s = guard i body s)
    (hb : Runs s i → body s = .ok (wx s d v)) : Gives s i [(d, v)] :=
  does_of he (u := s) (fun h => hb h) (fun _ => Prepares.refl s) (distinct_one d v)

/-- An event that names agents of the part happens. -/
theorem happens_of {s t : State} {i : Instr} {ok : Bool} {f : State → State} (he : exec i s = event ok f s) (hok : ok = true)
    (hf : f s = t) : Happens s i t := by
  rw [Happens, he, event_next hok, hf]

theorem slotOk_of {c t : Nat} (hc : c < 8192) (ht : t < 64) : slotOk c t = true := by simp [slotOk, coreCount, hc, ht]

/-- A release goes on once its thread has no store without an acknowledgement and no failed one (R109, R121). -/
theorem drained_ok {s : State} (h : Drained s) : drained s = .ok s := by
  obtain ⟨h1, h2⟩ := h
  simp [drained, h1, h2]

/-- A release waits for the acknowledgements of its thread's stores. -/
theorem drained_wait {s : State} (h : s.cur.unack ≠ 0) : drained s = .error (.wait (.retry .unbounded) s) := by
  simp [drained, h]

/-! Preparations that change one part of the state. -/

/-- A change of the thread's slot that keeps its window. -/
theorem prepares_modCur (s : State) (f : Slot → Slot) (hw : (f s.cur).wbase = s.cur.wbase) (hl : (f s.cur).wlim = s.cur.wlim) :
    Prepares s (s.modCur f) f id id := by
  refine ⟨rfl, ⟨rfl, rfl⟩, ?_, by simp, fun c k h => ?_, fun c => ?_, fun c e => ?_, fun c e => ?_⟩
  · show (winOf s.iss.slot (s.modCur f).cur).1 = (winOf s.iss.slot s.cur).1
    simp [winOf, hw, hl]
  · unfold State.modCur; rw [State.slot_modSlot, if_neg h]
  · unfold State.modCur State.modSlot
    by_cases h : c = s.iss.core
    · subst h; simp [Core.bare, Core.setSlot]
    · simp [h]
  · unfold State.entry State.modCur State.modSlot
    by_cases h : c = s.iss.core
    · subst h; simp
    · simp [h]
  · unfold State.emptyAt State.modCur State.modSlot
    by_cases h : c = s.iss.core
    · subst h; simp
    · simp [h]

/-- A change of the issuing core that keeps its registers and slots. -/
theorem prepares_modHere (s : State) (g : Core → Core) (hr : (g s.here).regs = s.here.regs) (hm : (g s.here).empty = s.here.empty)
    (hs : (g s.here).slots = s.here.slots) : Prepares s (s.modHere g) id g id := by
  have hslot : ∀ c k, (s.modHere g).slot c k = s.slot c k := by
    intro c k
    unfold State.slot Core.slot State.modHere
    by_cases h : c = s.iss.core
    · subst h; simp only [State.core_modCore, if_true]; show lookD (g s.here).slots k _ = _; rw [hs]; rfl
    · simp [h]
  have hcur : (s.modHere g).cur = s.cur := hslot _ _
  refine ⟨rfl, ⟨rfl, rfl⟩, ?_, hcur, fun c k _ => hslot c k, fun c => ?_, fun c e => ?_, fun c e => ?_⟩
  · show (winOf s.iss.slot (s.modHere g).cur).1 = (winOf s.iss.slot s.cur).1
    rw [hcur]
  · unfold State.modHere
    by_cases h : c = s.iss.core
    · subst h; simp
    · simp [h]
  · unfold State.entry State.modHere
    by_cases h : c = s.iss.core
    · subst h; simp only [State.core_modCore, if_true]; show lookD (g s.here).regs e _ = _; rw [hr]; rfl
    · simp [h]
  · unfold State.emptyAt State.modHere
    by_cases h : c = s.iss.core
    · subst h; simp only [State.core_modCore, if_true]; show (g s.here).empty.contains e = _; rw [hm]; rfl
    · simp [h]

/-- A change of the state outside its cores that keeps the bundle in issue where it is. -/
theorem prepares_outside (s : State) (o : State → State) (hc : (o s).cores = s.cores) (h1 : (o s).iss.core = s.iss.core)
    (h2 : (o s).iss.slot = s.iss.slot) : Prepares s (o s) id id o := by
  have hcore : ∀ c, (o s).core c = s.core c := fun c => by unfold State.core; rw [hc]
  have hslot : ∀ c k, (o s).slot c k = s.slot c k := fun c k => by unfold State.slot; rw [hcore]
  have hcur : (o s).cur = s.cur := by unfold State.cur; rw [h1, h2, hslot]
  refine ⟨rfl, ⟨h1, h2⟩, ?_, hcur, fun c k _ => hslot c k, fun c => by simp [hcore], fun c e => ?_, fun c e => ?_⟩
  · unfold State.base; rw [hcur, h2]
  · unfold State.entry; rw [hcore]
  · unfold State.emptyAt; rw [hcore]

/-- Two preparations in turn. -/
theorem Prepares.trans {s u v : State} {f f' : Slot → Slot} {g g' : Core → Core} {o o' : State → State} (h : Prepares s u f g o)
    (k : Prepares u v f' g' o') (hg : ∀ c, (g' (u.core c)).bare = (g' (g (s.core c))).bare)
    (ho : (o' u).outside = (o' (o s)).outside) : Prepares s v (f' ∘ f) (g' ∘ g) (o' ∘ o) := by
  refine ⟨k.outside.trans ho, ⟨k.here.1.trans h.here.1, k.here.2.trans h.here.2⟩, k.base.trans h.base, ?_, fun c n hn => ?_,
    fun c => ?_, fun c e => (k.entry c e).trans (h.entry c e), fun c e => (k.empty c e).trans (h.empty c e)⟩
  · rw [k.mine, h.mine]; rfl
  · rw [k.slots c n (by rw [h.here.1, h.here.2]; exact hn), h.slots c n hn]
  · rw [k.cores c, h.here.1]
    by_cases hc : c = s.iss.core
    · rw [if_pos hc, if_pos hc, hg]; rfl
    · rw [if_neg hc, if_neg hc, h.cores c, if_neg hc]

end Sys2Proof.Machine
end

