-- ==== Sys2Proof/Tests/Slice0.lean ====
section
/-!
SUPPORT. The model's own tests: words written out from the encodings of R26 to R53, what meets the hypotheses of each statement, ill-formed
terms and refused words, and the values that the spec works out.
-/
open Sys2Proof Sys2Proof.Machine
namespace Sys2Proof.Tests

/-- Each word decodes to its instruction, and the instruction has that word. -/
def meansEach (l : List (Nat × Instr)) : Bool :=
  l.all fun p => encode p.2 == some p.1 && (match decodeBundle p.1 with | .ok (.lone i) => i == p.2 | _ => false)

/-- R29, R36: majors 0x00 to 0x07. -/
def wordsInteger : List (Nat × Instr) :=
  [
    (0x0000000080041FF0, .add 1 ⟨3, false⟩ ⟨127, false⟩),
    (0x0000000080082FE1, .sub 2 ⟨5, false⟩ ⟨126, false⟩),
    (0x00000000800C3FD2, .and 3 ⟨7, false⟩ ⟨125, false⟩),
    (0x0000000080104FC3, .or 4 ⟨9, false⟩ ⟨124, false⟩),
    (0x0000000082145FB0, .xor 5 ⟨11, false⟩ ⟨123, false⟩),
    (0x0000000082186FA1, .andn 6 ⟨13, false⟩ ⟨122, false⟩),
    (0x00000000821C7F92, .shl 7 ⟨15, false⟩ ⟨121, false⟩),
    (0x0000000082208F83, .shr 8 ⟨17, false⟩ ⟨120, false⟩),
    (0x0000000084249F70, .sra 9 ⟨19, false⟩ ⟨119, false⟩),
    (0x000000008428AF61, .rot 10 ⟨21, false⟩ ⟨118, false⟩),
    (0x00000000842CBF52, .min 11 ⟨23, false⟩ ⟨117, false⟩),
    (0x000000008430CF43, .max 12 ⟨25, false⟩ ⟨116, false⟩),
    (0x000000008634DF30, .minn 13 ⟨27, false⟩ ⟨115, false⟩),
    (0x000000008638EF21, .maxn 14 ⟨29, false⟩ ⟨114, false⟩),
    (0x00000000863CFF12, .slt 15 ⟨31, false⟩ ⟨113, false⟩),
    (0x0000000086410F03, .sltn 16 ⟨33, false⟩ ⟨112, false⟩),
    (0x0000000088451EF0, .seq 17 ⟨35, false⟩ ⟨111, false⟩),
    (0x0000000088492EE1, .sel 18 ⟨37, false⟩ ⟨110, false⟩),
    (0x00000000884D3ED2, .mul 19 ⟨39, false⟩ ⟨109, false⟩),
    (0x0000000088514EC3, .mulh 20 ⟨41, false⟩ ⟨108, false⟩),
    (0x000000008A555EB0, .mulhn 21 ⟨43, false⟩ ⟨107, false⟩),
    (0x000000008C596EA0, .div 22 ⟨45, false⟩ ⟨106, false⟩),
    (0x000000008C5D7E91, .divn 23 ⟨47, false⟩ ⟨105, false⟩),
    (0x000000008C618E82, .rem 24 ⟨49, false⟩ ⟨104, false⟩),
    (0x000000008C659E73, .remn 25 ⟨51, false⟩ ⟨103, false⟩),
    (0x0000000080143078, .add 5 ⟨6, true⟩ ⟨7, false⟩),
    (0x0000000080143075, .sub 5 ⟨6, false⟩ ⟨7, true⟩),
    (0x000000008BFE0009, .popc 127 ⟨64, true⟩),
    (0x000000008BFE000A, .clz 127 ⟨64, true⟩),
    (0x000000008BFE000B, .mov 127 ⟨64, true⟩)] ++
  [
    (0x000000008E143070, .addsh 5 ⟨6, false⟩ ⟨7, false⟩ 1),
    (0x000000008E143073, .addsh 5 ⟨6, false⟩ ⟨7, false⟩ 4)]

theorem test_decode_integer : meansEach wordsInteger = true := by decide

/-- R33, R36 notes 2 and 3, R39: majors 0x08 to 0x10. -/
def wordsImmediate : List (Nat × Instr) :=
  [
    (0x0000000090245200, .addImm 9 ⟨10, false⟩ (-512)),
    (0x00000000922451FF, .andImm 9 ⟨10, false⟩ (511)),
    (0x00000000942453FF, .orImm 9 ⟨10, false⟩ (-1)),
    (0x0000000096245100, .xorImm 9 ⟨10, false⟩ (256)),
    (0x00000000982453FD, .mulImm 9 ⟨10, false⟩ (-3)),
    (0x000000009A04143F, .shlImm 1 ⟨2, true⟩ 63),
    (0x000000009A041501, .shrImm 1 ⟨2, true⟩ 1),
    (0x000000009A041620, .sraImm 1 ⟨2, true⟩ 32),
    (0x000000009A041705, .rotImm 1 ⟨2, true⟩ 5),
    (0x000000009C0C2080, .sltImm 3 ⟨4, false⟩ (-128)),
    (0x000000009C0C21FF, .sltnImm 3 ⟨4, false⟩ 255),
    (0x000000009C0C227F, .seqImm 3 ⟨4, false⟩ 127),
    (0x000000009E1E0000, .movImm 7 (-131072)),
    (0x01500100A0140003, .li 5 3 0x01500100),
    (0x80000001A019FFFF, .liN 6 0xFFFF 0x80000001),
    (0x00000000A0168000, .liHi 5 0x8000)]

theorem test_decode_immediate : meansEach wordsImmediate = true := by decide

/-- R36 note 4, R49 to R52: the scalar float instructions and the bit fields. -/
def wordsFloat : List (Nat × Instr) :=
  [
    (0x00000000A2041030, .fadd .f64 1 ⟨2, false⟩ ⟨3, false⟩),
    (0x00000000A2041032, .fsub .f64 1 ⟨2, false⟩ ⟨3, false⟩),
    (0x00000000A4041030, .fmul .f64 1 ⟨2, false⟩ ⟨3, false⟩),
    (0x00000000A4041032, .ffma .f64 1 ⟨2, false⟩ ⟨3, false⟩),
    (0x00000000A6041030, .fmin .f64 1 ⟨2, false⟩ ⟨3, false⟩),
    (0x00000000A6041032, .fmax .f64 1 ⟨2, false⟩ ⟨3, false⟩),
    (0x00000000A82C6000, .fneg .f64 11 ⟨12, false⟩),
    (0x00000000A82C6010, .fabs .f64 11 ⟨12, false⟩),
    (0x00000000A82C6020, .fsqrt .f64 11 ⟨12, false⟩),
    (0x00000000A82C6030, .fclass .f64 11 ⟨12, false⟩),
    (0x00040000BE041034, .fdiv .f64 1 ⟨2, false⟩ ⟨3, true⟩),
    (0x00000000A2041031, .fadd .f32 1 ⟨2, false⟩ ⟨3, false⟩),
    (0x00000000A2041033, .fsub .f32 1 ⟨2, false⟩ ⟨3, false⟩),
    (0x00000000A4041031, .fmul .f32 1 ⟨2, false⟩ ⟨3, false⟩),
    (0x00000000A4041033, .ffma .f32 1 ⟨2, false⟩ ⟨3, false⟩),
    (0x00000000A6041031, .fmin .f32 1 ⟨2, false⟩ ⟨3, false⟩),
    (0x00000000A6041033, .fmax .f32 1 ⟨2, false⟩ ⟨3, false⟩),
    (0x00000000A82C6001, .fneg .f32 11 ⟨12, false⟩),
    (0x00000000A82C6011, .fabs .f32 11 ⟨12, false⟩),
    (0x00000000A82C6021, .fsqrt .f32 11 ⟨12, false⟩),
    (0x00000000A82C6031, .fclass .f32 11 ⟨12, false⟩),
    (0x00080000BE041034, .fdiv .f32 1 ⟨2, false⟩ ⟨3, true⟩),
    (0x00480000BE041030, .fcmp .f32 .eq 1 ⟨2, false⟩ ⟨3, false⟩),
    (0x00484000BE041030, .fcmp .f32 .ne 1 ⟨2, false⟩ ⟨3, false⟩),
    (0x00488000BE041030, .fcmp .f32 .lt 1 ⟨2, false⟩ ⟨3, false⟩),
    (0x0048C000BE041030, .fcmp .f32 .le 1 ⟨2, false⟩ ⟨3, false⟩),
    (0x00490000BE041030, .fcmp .f32 .un 1 ⟨2, false⟩ ⟨3, false⟩),
    (0x008C0A00BE143000, .fcvt (.lit .bf16 .f32 true .rne false) 5 ⟨6, false⟩),
    (0x00B40520BE143000, .fcvt (.lit .i64 .f64 false .rna true) 5 ⟨6, false⟩),
    (0x00800000BE143000, .fcvt .pend 5 ⟨6, false⟩)] ++
  [
    (0x00F4003FBE041000, .bfx true 1 ⟨2, false⟩ 63 1),
    (0x00F80FC0BE041000, .bfx false 1 ⟨2, false⟩ 0 64),
    (0x010001C4BE041000, .bfi 1 ⟨2, false⟩ 4 8)]

theorem test_decode_float : meansEach wordsFloat = true := by decide

/-- R36 note 5, R95, R105: the vector instructions and RAND. -/
def wordsVector : List (Nat × Instr) :=
  [
    (0x00000000AA0410F0, .vadd .f32 1 ⟨2, false⟩ ⟨15, false⟩),
    (0x00000000AA0410F1, .vadd .i32 1 ⟨2, false⟩ ⟨15, false⟩),
    (0x00000000AA0410F2, .vsub .f32 1 ⟨2, false⟩ ⟨15, false⟩),
    (0x00000000AA0410F3, .vsub .i32 1 ⟨2, false⟩ ⟨15, false⟩),
    (0x00000000AC0410F0, .vmul .f32 1 ⟨2, false⟩ ⟨15, false⟩),
    (0x00000000AC0410F1, .vmul .i32 1 ⟨2, false⟩ ⟨15, false⟩),
    (0x00000000AC0410F2, .vfma .f32 1 ⟨2, false⟩ ⟨15, false⟩),
    (0x00000000AC0410F3, .vfma .i32 1 ⟨2, false⟩ ⟨15, false⟩),
    (0x00000000AE041030, .vmin .f32 1 ⟨2, false⟩ ⟨3, false⟩),
    (0x00000000AE041031, .vmin .i32 1 ⟨2, false⟩ ⟨3, false⟩),
    (0x00000000AE041032, .vmin .n32 1 ⟨2, false⟩ ⟨3, false⟩),
    (0x00000000B0041030, .vmax .f32 1 ⟨2, false⟩ ⟨3, false⟩),
    (0x00000000B0041031, .vmax .i32 1 ⟨2, false⟩ ⟨3, false⟩),
    (0x00000000B0041032, .vmax .n32 1 ⟨2, false⟩ ⟨3, false⟩),
    (0x00000000B2041030, .vand 1 ⟨2, false⟩ ⟨3, false⟩),
    (0x00000000B2041031, .vor 1 ⟨2, false⟩ ⟨3, false⟩),
    (0x00000000B2041032, .vxor 1 ⟨2, false⟩ ⟨3, false⟩),
    (0x00000000B23C700B, .vmov 15 ⟨14, true⟩),
    (0x00000000B4041030, .vshl 1 ⟨2, false⟩ ⟨3, false⟩),
    (0x00000000B4041031, .vshrN32 1 ⟨2, false⟩ ⟨3, false⟩),
    (0x00000000B4041032, .vshrI32 1 ⟨2, false⟩ ⟨3, false⟩),
    (0x00000000B4041003, .vabs .f32 1 ⟨2, false⟩),
    (0x00000000B4041013, .vabs .i32 1 ⟨2, false⟩),
    (0x00000000B4041103, .vneg .f32 1 ⟨2, false⟩),
    (0x00000000B4041113, .vneg .i32 1 ⟨2, false⟩),
    (0x00000000B4041203, .vexp2 1 ⟨2, false⟩),
    (0x00000000B4041303, .vlog2 1 ⟨2, false⟩),
    (0x00000000B4041403, .vrcp 1 ⟨2, false⟩),
    (0x00000000B4041503, .vrsq 1 ⟨2, false⟩),
    (0x08083040BE041000, .vcvt (.lit .f32 .n16 false .rtz false) 1 ⟨2, false⟩)] ++
  [
    (0x08000000BE041000, .vcvt .pend 1 ⟨2, false⟩),
    (0x0868C000BE041030, .vcmp .n32 .le 1 ⟨2, false⟩ ⟨3, false⟩),
    (0x08800004BE041030, .vsel 1 ⟨2, false⟩ ⟨3, false⟩ 4),
    (0x08E40000BF341000, .vred .i32 .sum 77 ⟨2, false⟩),
    (0x08E44000BF341000, .vred .i32 .max 77 ⟨2, false⟩),
    (0x08E48000BF341000, .vred .i32 .min 77 ⟨2, false⟩),
    (0x09080000BE1C1000, .vscan .f32 .sum 7 ⟨2, false⟩),
    (0x09084000BE1C1000, .vscan .f32 .sumx 7 ⟨2, false⟩),
    (0x09088000BE1C1000, .vscan .f32 .max 7 ⟨2, false⟩),
    (0x09400000BE041030, .vperm 1 ⟨2, false⟩ ⟨3, false⟩),
    (0x09800000BE071800, .vbcast 1 ⟨99, false⟩),
    (0x09E8000FBF8C1000, .vext .n32 99 ⟨2, false⟩ 15),
    (0x0A00000FBE071800, .vins 1 ⟨99, false⟩ 15),
    (0x0A644000BE381030, .vsort .i32 true 14 ⟨2, false⟩ ⟨3, false⟩),
    (0x0A800000BE071800, .viota 1 ⟨99, false⟩),
    (0x0AD80820BE041000, .vquant (.lit .mx .f32 false .rne true) 1 ⟨2, false⟩),
    (0x0B081880BE080800, .vdeq (.lit .f32 .mx false .rdn false) 2 ⟨1, false⟩),
    (0x20000000BE242050, .rand 9 ⟨4, false⟩ ⟨5, false⟩),
    (0x20400000BE242050, .randV 9 ⟨4, false⟩ ⟨5, false⟩)]

theorem test_decode_vector : meansEach wordsVector = true := by decide

/-- R34 to R37, R40: branches, jumps, the control group, control registers, FMT and DTLD. -/
def wordsControl : List (Nat × Instr) :=
  [
    (0x00000000DE1C43FF, .beq 7 ⟨8, false⟩ (-1)),
    (0x00000000E01C47FE, .bne 7 ⟨8, true⟩ (-2)),
    (0x00000000E21C43FD, .blt 7 ⟨8, false⟩ (-3)),
    (0x00000000E41C47FC, .bge 7 ⟨8, true⟩ (-4)),
    (0x00000000E61C43FB, .bltn 7 ⟨8, false⟩ (-5)),
    (0x00000000E81C47FA, .bgen 7 ⟨8, true⟩ (-6)),
    (0x00000000EA1DFFFF, .bz 7 131071),
    (0x00000000EC1FFFFE, .bnz 7 (-2)),
    (0x00000000EE060000, .jal 1 (-131072)),
    (0x00000000F00415FF, .jalr 1 ⟨2, true⟩ 511),
    (0x00000000FA000FFF, .jmpf 0 4095),
    (0x00000000F4000000, .nop),
    (0x00000000F4000004, .drain),
    (0x00000000F4000008, .ifence),
    (0x00000000F4000040, .fence .thread),
    (0x00000000F4000044, .fence .core),
    (0x00000000F4000048, .fence .die),
    (0x00000000F400004C, .fence .package),
    (0x00000000F4000050, .fence .system),
    (0x00000000F4000080, .idle),
    (0x00000000F4000084, .eret),
    (0x00000000F4000088, .bkpt),
    (0x00000000F40000C0, .yield),
    (0x00000000F40000C4, .exit),
    (0x00000000F40000C8, .wmsg),
    (0x00000000F5FC008C, .trap 127),
    (0x00000000F6000000, .csrr 0 (.st)),
    (0x00000000F6040004, .csrr 1 (.trapvec)),
    (0x00000000F6080008, .csrr 2 (.epc)),
    (0x00000000F60C000C, .csrr 3 (.cause))] ++
  [
    (0x00000000F6100010, .csrr 4 (.tval)),
    (0x00000000F6140040, .csrr 5 (.ssplit)),
    (0x00000000F6180044, .csrr 6 (.vgroup)),
    (0x00000000F61C0080, .csrr 7 (.waitlim)),
    (0x00000000F6200084, .csrr 8 (.msglim)),
    (0x00000000F6240088, .csrr 9 (.viewlim)),
    (0x00000000F62800C0, .csrr 10 (.unack)),
    (0x00000000F62C0100, .csrr 11 (.ctxid)),
    (0x00000000F6300104, .csrr 12 (.thid)),
    (0x00000000F6340108, .csrr 13 (.wbase)),
    (0x00000000F638010C, .csrr 14 (.wlim)),
    (0x00000000F63C0140, .csrr 15 (.dtsel)),
    (0x00000000F6400144, .csrr 16 (.prio)),
    (0x00000000F6440180, .csrr 17 (.cyc)),
    (0x00000000F64801C0, .csrr 18 (.mb 0)),
    (0x00000000F64C01CC, .csrr 19 (.mb 3)),
    (0x00000000F60FF811, .csrw 3 .tval 127),
    (0x00000000F60FF812, .csrs 3 .tval 127),
    (0x00000000F60FF813, .csrc 3 .tval 127),
    (0x55208000F8000000, .fmt 0x55208000),
    (0x09800001FE0C2000, .dtldMem 3 ⟨4, false⟩ 1),
    (0x09804000FE0C0000, .dtldPreset 3 .e4m3 0),
    (0x09808000FE0C0000, .dtldPreset 3 .e5m2 0),
    (0x0980C000FE0C0000, .dtldPreset 3 .int8 0),
    (0x09810000FE0C0000, .dtldPreset 3 .e3m4 0)]

theorem test_decode_control : meansEach wordsControl = true := by decide

/-- R33, R37, R115 to R117: loads, stores, block moves, prefetches and atomics. -/
def wordsMemory : List (Nat × Instr) :=
  [
    (0x00000000C0245200, .ldI8 9 ⟨10, false⟩ (-512)),
    (0x00000000C2245200, .ldN8 9 ⟨10, false⟩ (-512)),
    (0x00000000C4245200, .ldI16 9 ⟨10, false⟩ (-512)),
    (0x00000000C6245200, .ldN16 9 ⟨10, false⟩ (-512)),
    (0x00000000C8245200, .ldI32 9 ⟨10, false⟩ (-512)),
    (0x00000000CA245200, .ldN32 9 ⟨10, false⟩ (-512)),
    (0x00000000CC245200, .ldI64 9 ⟨10, false⟩ (-512)),
    (0x00000000CE245200, .stI8 9 ⟨10, false⟩ (-512)),
    (0x00000000D0245200, .stI16 9 ⟨10, false⟩ (-512)),
    (0x00000000D2245200, .stI32 9 ⟨10, false⟩ (-512)),
    (0x00000000D4245200, .stI64 9 ⟨10, false⟩ (-512)),
    (0x00000000D62455FF, .ldv 9 ⟨10, true⟩ 511),
    (0x00000000D8245001, .stv 9 ⟨10, false⟩ 1),
    (0x00000000DA245001, .ldaI64 9 ⟨10, false⟩ 1),
    (0x00000000DC245001, .stlI64 9 ⟨10, false⟩ 1),
    (0x08000000FE0C50B0, .ldmx 3 ⟨10, false⟩ ⟨11, false⟩),
    (0x08400000FE0C50B0, .stmx 3 ⟨10, false⟩ ⟨11, false⟩),
    (0x08800400FE002000, .pfl ⟨4, false⟩ (-1024)),
    (0x08804002FE002000, .pflW ⟨4, false⟩ 2),
    (0x102407FDFE144860, .aadd .i32 ⟨false, false, .thread, -3⟩ 5 ⟨9, false⟩ ⟨6, false⟩),
    (0x10684FFEFE144860, .aand .n32 ⟨true, false, .core, -2⟩ 5 ⟨9, false⟩ ⟨6, false⟩),
    (0x10B497FFFE144860, .aor .i64 ⟨false, true, .die, -1⟩ 5 ⟨9, false⟩ ⟨6, false⟩),
    (0x10F8D800FE144860, .axor .n64 ⟨true, true, .package, 0⟩ 5 ⟨9, false⟩ ⟨6, false⟩),
    (0x11242001FE144860, .amin .i32 ⟨false, false, .system, 1⟩ 5 ⟨9, false⟩ ⟨6, false⟩),
    (0x11684002FE144860, .amax .n32 ⟨true, false, .thread, 2⟩ 5 ⟨9, false⟩ ⟨6, false⟩),
    (0x11B48803FE144860, .aswp .i64 ⟨false, true, .core, 3⟩ 5 ⟨9, false⟩ ⟨6, false⟩),
    (0x11F8D004FE144860, .acas .n64 ⟨true, true, .die, 4⟩ 5 ⟨9, false⟩ ⟨6, false⟩),
    (0x1204A3FFFE144860, .afadd .f64 ⟨false, true, .system, 1023⟩ 5 ⟨9, false⟩ ⟨6, false⟩),
    (0x12081800FE144860, .afadd .f32 ⟨false, false, .package, 0⟩ 5 ⟨9, false⟩ ⟨6, false⟩)]

theorem test_decode_memory : meansEach wordsMemory = true := by decide

/-- R143, R149, R164, R169: saved threads, launches, counters, code segments and messages. -/
def wordsThreads : List (Nat × Instr) :=
  [
    (0x00800000FE2450B0, .tsave 9 ⟨10, false⟩ ⟨11, false⟩),
    (0x00C00000FE2450B0, .tload 9 ⟨10, false⟩ ⟨11, false⟩),
    (0x38000000FE041030, .launch 1 ⟨2, false⟩ ⟨3, false⟩),
    (0x38400000FE041000, .cntrd .thread 1 ⟨2, false⟩),
    (0x38404000FE041000, .cntrd .launch 1 ⟨2, false⟩),
    (0x38408000FE041000, .cntrd .wave 1 ⟨2, false⟩),
    (0x3840C000FE041000, .cntrd .phase 1 ⟨2, false⟩),
    (0x38410000FE041000, .cntrd .job 1 ⟨2, false⟩),
    (0x38800000FE041000, .cntwait .thread 1 ⟨2, false⟩),
    (0x38804000FE041000, .cntwait .launch 1 ⟨2, false⟩),
    (0x38808000FE041000, .cntwait .wave 1 ⟨2, false⟩),
    (0x3880C000FE041000, .cntwait .phase 1 ⟨2, false⟩),
    (0x38810000FE041000, .cntwait .job 1 ⟨2, false⟩),
    (0x38C00000FE041000, .cancel .thread 1 ⟨2, false⟩),
    (0x38C04000FE041000, .cancel .launch 1 ⟨2, false⟩),
    (0x38C08000FE041000, .cancel .wave 1 ⟨2, false⟩),
    (0x38C0C000FE041000, .cancel .phase 1 ⟨2, false⟩),
    (0x38C10000FE041000, .cancel .job 1 ⟨2, false⟩),
    (0x39000004FE180000, .tid 6 4),
    (0x00000007FE001000, .ofetch 7 ⟨2, false⟩),
    (0x00400007FE180000, .ostat 6 7),
    (0x300001F7FE001030, .send ⟨2, false⟩ 3 8 62),
    (0x30400000FE180000, .pmsg 6),
    (0x30800000FE180000, .mstat 6)]

theorem test_decode_threads : meansEach wordsThreads = true := by decide

/-- R188, R200, R208, R211: lines, pages, full/empty words and barriers. -/
def wordsPages : List (Nat × Instr) :=
  [
    (0x20000000FE041030, .wback 1 ⟨2, false⟩ ⟨3, false⟩),
    (0x20400000FE041030, .linv 1 ⟨2, false⟩ ⟨3, false⟩),
    (0x20800000FE041030, .discard 1 ⟨2, false⟩ ⟨3, false⟩),
    (0x20C00000FE041030, .lclr 1 ⟨2, false⟩ ⟨3, false⟩),
    (0x50000000FE041000, .pgharv 1 ⟨2, false⟩),
    (0x50004000FE041000, .pgharvClr 1 ⟨2, false⟩),
    (0x50400000FE041000, .pginvPage 1 ⟨2, false⟩),
    (0x50404000FE040000, .pginvCtx 1),
    (0x50408000FE041000, .pginvRevive 1 ⟨2, false⟩),
    (0x50800000FE041000, .pgwake 1 ⟨2, false⟩),
    (0x50804015FE041000, .pgwakeFatal 1 ⟨2, false⟩ 0x15),
    (0x50C00000FE041000, .pgqry 1 ⟨2, false⟩),
    (0x18000400FE041000, .ldfe 1 ⟨2, false⟩ (-1024)),
    (0x18400001FE041000, .ldf 1 ⟨2, false⟩ 1),
    (0x18800001FE001034, .stfe ⟨2, false⟩ ⟨3, true⟩ 1),
    (0x18C00001FE001030, .stf ⟨2, false⟩ ⟨3, false⟩ 1),
    (0x19000001FE041000, .feclr 1 ⟨2, false⟩ 1),
    (0x19400001FE041000, .festat 1 ⟨2, false⟩ 1),
    (0x40000000FE041030, .binit 1 ⟨2, false⟩ ⟨3, false⟩),
    (0x40400000FE041000, .barv 1 ⟨2, false⟩),
    (0x40800000FE041030, .bexp 1 ⟨2, false⟩ ⟨3, false⟩),
    (0x40C00000FE041030, .bwait 1 ⟨2, false⟩ ⟨3, false⟩),
    (0x41000000FE041030, .btest 1 ⟨2, false⟩ ⟨3, false⟩),
    (0x41400000FE041000, .bcpl 1 ⟨2, false⟩)]

theorem test_decode_pages : meansEach wordsPages = true := by decide

/-- R227, R232, R237: streams and the transfer thread. -/
def wordsTransfers : List (Nat × Instr) :=
  [
    (0x280007FFFE041000, .sbind 1 ⟨2, false⟩ (-1)),
    (0x28400000FE040000, .sunb 1),
    (0x28800000FE041030, .scfgCount 1 2 ⟨3, false⟩),
    (0x28804000FE041030, .scfgSkip 1 2 ⟨3, false⟩),
    (0x28C00000FE041000, .sstat 1 2),
    (0x48000007FE041030, .xsubs 1 ⟨2, false⟩ ⟨3, false⟩ 7),
    (0x48400000FE041000, .xunsub 1 ⟨2, false⟩),
    (0x48800007FE040000, .xwpt 1 7)]

theorem test_decode_transfers : meansEach wordsTransfers = true := by decide

/-- R240, R247 to R257: the matrix unit. -/
def wordsMatrix : List (Nat × Instr) :=
  [
    (0x58080000FE1C0000, .mshape 7 .f32),
    (0x08C80000FE1C1000, .accld 7 .f32 ⟨2, false⟩),
    (0x58240000FE1C0000, .mshape 7 .i32),
    (0x08E40000FE1C1000, .accld 7 .i32 ⟨2, false⟩),
    (0x58040000FE1C0000, .mshape 7 .f64),
    (0x08C40000FE1C1000, .accld 7 .f64 ⟨2, false⟩),
    (0x09000000FE1C1000, .accst 7 ⟨2, false⟩),
    (0x09400000FE3C1030, .tldt 15 ⟨2, false⟩ ⟨3, false⟩),
    (0x58400000FE047800, .rstat 1 15),
    (0x58800000FE047830, .rpopHead 1 15 ⟨3, false⟩),
    (0x58804000FE047830, .rpopTail 1 15 ⟨3, false⟩),
    (0x00000000F208A802, .rcfg 2 ⟨21, false⟩ 2),
    (0x00000000B6041030, .mma .pend 1 2 3 false),
    (0x00000000B61C78E2, .mmaz .pend 7 15 14 false),
    (0x00000000B63C78E3, .mmaz .f64 7 15 14 true),
    (0x00000000B65C78E2, .mmaz .f32 7 15 14 false),
    (0x00000000B67C78E3, .mmaz .bf16 7 15 14 true),
    (0x00000000B69C78E2, .mmaz .f16 7 15 14 false),
    (0x00000000B6BC78E3, .mmaz .code8 7 15 14 true),
    (0x00000000B6DC78E2, .mmaz .mx 7 15 14 false),
    (0x00000000B6FC78E3, .mmaz .i8 7 15 14 true),
    (0x00000000B6DC78E1, .mma .mx 7 15 14 true),
    (0x00000000B83C3834, .accmv 15 7 ⟨3, true⟩),
    (0x00000000B81C0001, .accz 7),
    (0x00000000B80F1802, .mskr 3 ⟨99, false⟩),
    (0x00000000B80F1803, .mskc 3 ⟨99, false⟩)]

theorem test_decode_matrix : meansEach wordsMatrix = true := by decide

/-- R279, R299, R319, R333: cells, handles, the prefix tree, taps and combining. -/
def wordsCells : List (Nat × Instr) :=
  [
    (0x60000000FE041000, .cbind 1 ⟨2, false⟩),
    (0x60400000FE041030, .cedit 1 ⟨2, false⟩ ⟨3, false⟩),
    (0x60800000FE040030, .cunb 1 ⟨3, false⟩),
    (0x60C00400FE041030, .cst 1 ⟨2, false⟩ ⟨3, false⟩ (-1024)),
    (0x61000000FE040000, .cbatch 1),
    (0x61400000FE041000, .cseal 1 ⟨2, false⟩),
    (0x61800010FE301050, .cld 12 ⟨2, false⟩ ⟨5, false⟩ 16),
    (0x61C00010FE301050, .cwr 12 ⟨2, false⟩ ⟨5, false⟩ 16),
    (0x62000000FE000000, .cfin),
    (0x62400000FE0C0000, .cviewNow 3),
    (0x62404000FE0C0000, .cviewFence 3),
    (0x62800000FE000000, .cvend),
    (0x62C00002FE040030, .cstat 1 ⟨3, false⟩ 2),
    (0x70000000FE041030, .hnew 1 ⟨2, false⟩ ⟨3, false⟩),
    (0x70004000FE041030, .hnewKv 1 ⟨2, false⟩ ⟨3, false⟩),
    (0x70400000FE041000, .hweak 1 ⟨2, false⟩),
    (0x70800000FE041000, .hdup 1 ⟨2, false⟩),
    (0x71000000FE041000, .hup 1 ⟨2, false⟩),
    (0x72000000FE041000, .pfxfind 1 ⟨2, false⟩),
    (0x72400000FE041000, .pfxins 1 ⟨2, false⟩),
    (0x72800000FE041000, .pfxdel 1 ⟨2, false⟩),
    (0x70C00000FE001000, .hdrop ⟨2, false⟩),
    (0x714001FFFE041070, .hldw 1 7 ⟨2, false⟩ 511),
    (0x71800000FE001030, .hpri ⟨2, false⟩ ⟨3, false⟩),
    (0x71C00002FE041000, .hinfo 1 ⟨2, false⟩ 2),
    (0x78000000FE041030, .taparm 1 ⟨2, false⟩ ⟨3, false⟩),
    (0x78400000FE040030, .tapoff 1 ⟨3, false⟩),
    (0x78800000FE041030, .taprel 1 ⟨2, false⟩ ⟨3, false⟩),
    (0x78C00000FE041030, .tapkill 1 ⟨2, false⟩ ⟨3, false⟩),
    (0x79000001FE041030, .taprd 1 ⟨2, false⟩ ⟨3, false⟩ 1)] ++
  [
    (0x7C080000FE041030, .cmbmax .f32 1 ⟨2, false⟩ ⟨3, false⟩),
    (0x7C780000FE041030, .cmbsum .n64 1 ⟨2, false⟩ ⟨3, false⟩),
    (0x7C800000FE041040, .cmbrecv 1 4 ⟨2, false⟩)]

theorem test_decode_cells : meansEach wordsCells = true := by decide

/-! A small state, and what shows that hypotheses are met. -/

/-- Steps 3 and 5 to 8 of R42, as a test of one instruction. -/
def clearB (s : State) (i : Instr) : Bool :=
  !illegalNow s i && !privFails s i && (regFields i).all (fun f => f.regs.all fun r => decide (r < s.size))
    && (match accField i with | some n => decide (n < s.cur.accs.length) | none => true)
    && !prefixFails s i && (syncRegs i).all (fun r => !isEmpty s r) && !tableHeld s i

/-- The hypothesis `Runs`, as a test. -/
def runsB (s : State) (i : Instr) : Bool := i.wf && s.cur.phase == .ready && (s.iss.passed || clearB s i)

theorem runs_of {s : State} {i : Instr} (h : runsB s i = true) : Runs s i := by
  simp only [runsB, clearB, Bool.and_eq_true, Bool.or_eq_true, beq_iff_eq, Bool.not_eq_true'] at h
  obtain ⟨⟨h1, h2⟩, h3⟩ := h
  refine ⟨h1, h2, h3.imp id ?_⟩
  rintro ⟨⟨⟨⟨⟨⟨a, b⟩, c⟩, d⟩, e⟩, f⟩, g⟩
  refine ⟨a, b, fun x hx r hr => ?_, fun n hn => ?_, e, fun r hr => ?_, g⟩
  · have := List.all_eq_true.1 (List.all_eq_true.1 c x hx) r hr
    simpa using this
  · rw [hn] at d; simpa using d
  · have := List.all_eq_true.1 f r hr
    simpa using this

/-- An access or a table walk succeeds with a value that passes a test. -/
def got {ε β : Type} (e : Except ε β) (p : β → Bool) : Bool := match e with | .ok b => p b | .error _ => false

/-- A context 1 that runs, with tables that map the first GiB of its addresses to the same place of tier 0 (R181 to R184); its launch 1
holds cores 0 and 1; slot 0 of core 0 holds a privileged thread with the registers `r`, a window of 128 and eight accumulators; `m` is memory
from 0x4000 on. -/
def demoWith (m : List Host.Cell) (r : List (Nat × Word)) : State :=
  let thread : Slot := { phase := .ready, pc := 0x40, st := { pv := true }, trapvec := 0x80, ctx := 1, wlim := 128, launch := 1, uid := 7
                         accs := [0, 1, 2, 3, 4, 5, 6, 7] }
  { mem := [(0x1000, 1), (0x1001, 0x20), (0x1FF8, 1), (0x1FF9, 0x10), (0x2000, 1), (0x2001, 0x30), (0x3000, 0x3F)] ++ m
    cores := [(0, { regs := r, spad := 1, segs := [(0, { st := .landed })], slots := [(0, thread)] }), (1, { spad := 1 })]
    ctxs := [(1, { st := .running, root := 0x1001
                   launches := [(1, { cores := [0, 1], thr := 1, win := 128, acc := 8, scr := 1, total := 2, threads := [(0, 0, 0)] })] })] }

def demo (r : List (Nat × Word)) : State := demoWith [] r

/-- The state after an instruction or event, or the state before it where it stops. -/
def done (i : Instr) (s : State) : State := match exec i s with | .next t => t | _ => s

/-- Each instruction runs in a state. -/
def runsAll (s : State) (l : List Instr) : Bool := l.all (runsB s)

/-- Every condition of a list holds. -/
def meets (l : List Bool) : Bool := l.all id

/-- A register without the mark of a synchronised read. -/
def x (n : Nat) : Src := ⟨n, false⟩

/-! What meets the hypotheses of the statements about registers and control flow. -/

/-- The state with a pending descriptor. -/
def prefixed (l : Lane) (s : State) : State := s.modCur fun m => { m with latch := l, st := { m.st with pp := true } }

/-- The state within a trap handler. -/
def handling (s : State) : State := s.modCur fun m => { m with st := { m.st with te := true }, epc := 0x48 }

theorem witness_IntegerRegisterForms : runsAll (demo [(3, 5)]) (wordsInteger.map (·.2)) = true := by decide

theorem witness_ImmediatesAndFields : runsAll (demo [])
    (wordsImmediate.map (·.2) ++ [.bfx true 1 (x 2) 63 1, .bfx false 127 (x 2) 0 64, .bfi 1 (x 2) 0 64, .bfi 1 (x 2) 63 1, .rand 9 (x 4) (x 5)
      , .randV 15 (x 4) (x 5)]) = true := by decide

theorem witness_ScalarFloat : meets
    [ runsAll (demo []) ((wordsFloat.map (·.2)).filter fun i => match i with | .fcvt .pend _ _ => false | _ => true)
    , let s := demo []
      let own := Conv.lit .bf16 .f32 true .rne true
      meets [runsB s (.fcvt own 5 (x 6)), convFmts fcvtPair s.cur.latch own = some (.bf16, .f32, true, .rne, true)
        , runsB s (.vcvt own 15 (x 6)), convFmts vcvtPair s.cur.latch own = some (.bf16, .f32, true, .rne, true)]
    , let s := prefixed 0x50280000 (demo [])
      meets [runsB s (.fcvt .pend 5 (x 6)), convFmts fcvtPair s.cur.latch .pend = some (.f32, .code8, true, .rne, false)
        , runsB s (.vcvt .pend 5 (x 6)), convFmts vcvtPair s.cur.latch .pend = some (.f32, .code8, true, .rne, false)]
    , let s := prefixed 0x20618000 (demo [])
      meets [runsB s (.vquant .pend 5 (x 14)), convFmts vquantPair s.cur.latch .pend = some (.mx, .f32, false, .rtz, true)]
    , let s := prefixed 0x60200000 (demo [])
      meets [runsB s (.vdeq .pend 14 (x 5)), convFmts vdeqPair s.cur.latch .pend = some (.f32, .mx, false, .rne, false)]] = true := by
  decide

theorem witness_vector : runsAll (demo []) ((wordsVector.map (·.2)).filter fun i => match i with | .vcvt .pend _ _ => false | _ => true) = true := by
  decide

theorem witness_Branches :
    (let s := demo [(7, 5), (8, 5), (9, 4), (20, 0x1000), (21, 0x7FF8), (22, 4)]
     let dest := fun (o : Int) => s.cur.pc + BitVec.ofInt 64 (8 * o)
     let far := fun (r : Nat) (o : Int) => rx s r + BitVec.ofInt 64 (8 * o)
     let inside := fun (v : Word) => decide (v.toNat < 2 ^ 15 ∧ v.toNat / 4096 = s.cur.pc.toNat / 4096)
     meets [inside (dest 503), !inside (dest 504), inside (dest (-8)), !inside (dest (-9)), inside (far 20 (-1)), !inside (far 20 0), !inside (far 21 0)
       , (far 20 (-1)).toNat % 8 = 0, (far 22 0).toNat % 8 = 4
       , runsAll s [.beq 7 (x 8) 503, .beq 7 (x 8) 504, .bne 7 (x 9) (-8), .blt 9 (x 7) 503, .bge 7 (x 8) (-9), .bltn 9 (x 7) 503
           , .bgen 7 (x 8) 503, .bz 30 503, .bz 30 (-9), .bnz 7 503, .jal 1 503, .jal 0 (-9), .jalr 1 (x 20) (-1), .jalr 1 (x 20) 0
           , .jalr 1 (x 22) 0, .jmpf 1 511, .jmpf 1 512, .nop]
       , rx s 7 = rx s 8, rx s 7 ≠ rx s 9, (rx s 9).toInt < (rx s 7).toInt, (rx s 9).toNat < (rx s 7).toNat, rx s 30 = 0
       , (s.here.seg (511 / 512)).st = .landed, (s.here.seg (512 / 512)).st ≠ .landed]) = true := by
  decide +kernel

/-- The entries of a table in which code 1 decodes to 1 and code 0x81 to −1 (R63, R64). -/
def entries : List Lane := [0, 0x1FC00, 0x80000000] ++ List.replicate 126 0 ++ [0x5FC00, 0x40000000] ++ List.replicate 125 0

theorem entries_valid : (Table.image entries).valid = true := by decide +kernel

theorem entries_image :
    (Table.image ((List.range 256).map fun i => BitVec.ofNat 32 (ofBytes (((entries.flatMap fun e => toBytes 4 e.toNat).drop (4 * i)).take 4)))).valid
      = true := by
  have h := lanes_of_bytes entries
  rw [show entries.length = 256 by decide +kernel] at h
  rw [h]
  exact entries_valid

theorem witness_PrefixAndTables :
    (let s := demo [(4, 0x4000), (5, 0x4004)]
     let bytes := entries.flatMap fun e => toBytes 4 e.toNat
     let free := fun (u : State) => meets [u.cur.reply = none, look u.here.newTable 0 = none, look u.here.newTable 1 = none, !mmaReads u.here 1, !mmaReads u.here 0]
     let image := fun (part : List Byte) (p : List Byte → Bool) => let s := s.modCur fun l => { l with part := part }
       meets [s.cur.reply = none, runsB s (.dtldMem 3 (x 4) 0), (rx s 4).toNat % 64 = 0
         , got (gatherLoads s 64 ((List.range 16).map fun i => rx s 4 + BitVec.ofNat 64 (64 * i))) fun q => meets [p q.1, free q.2]]
     let held := s.modHere fun k => { k with newTable := [(1, (5, .preset .int8))] }
     meets [runsAll s [.fmt 0x55208000, .dtldPreset 3 .int8 1, .dtldMem 3 (x 5) 0], free s, image (bytes.take 960) (· == bytes)
       , image ([0, 0, 8] ++ List.replicate 957 0) fun bs =>
           !(Table.image ((List.range 256).map fun i => BitVec.ofNat 32 (ofBytes ((bs.drop (4 * i)).take 4)))).valid
       , held.cur.reply = none, (look held.here.newTable 1).isSome, runsB held (.dtldPreset 3 .e4m3 1), (rx s 5).toNat % 64 = 4]) = true := by
  decide +kernel

theorem witness_TrapEntry : meets
    [ ((demo []).slot 0 0).st.te = false
    , let s := handling (demo [])
      meets [(s.slot 0 0).st.te, !s.isPager (s.ctxOf 0 0) 0 0, !s.isMonitor (s.ctxOf 0 0) 0 0]
    , let s := (handling (demo [])).modCtx 1 fun k => { k with monitorRec := 64, monitor := (0, 63) }
      meets [(s.slot 0 0).st.te, (s.ctx (s.ctxOf 0 0)).monitorRec ≠ 0, !s.isPager (s.ctxOf 0 0) 0 0, !s.isMonitor (s.ctxOf 0 0) 0 0]] = true := by
  decide

theorem witness_TrapInstructions : meets
    [ let s := demo []
      meets [runsAll s [.trap 127, .bkpt], !s.iss.pair, !s.cur.st.te]
    , let s := handling (demo [])
      meets [runsAll s [.trap 0, .bkpt, .eret], s.cur.st.te]
    , let s := (demo []).modCur fun l => { l with cancelled := true }
      meets [runsB s .idle, s.cur.cancelled]
    , let m : Msg := { slot := 0, words := [1], ctx := 1, srcCore := 1, srcSlot := 0, srcUid := 0, counted := false, kind := .plain }
      let s := (demo []).modHere fun k => { k with queue := [m] }
      meets [runsB s .idle, messageReady s]] = true := by
  decide

theorem witness_ChecksInOrder :
    (let ready := fun (s : State) (i : Instr) => meets [s.cur.phase = .ready, !s.iss.passed, i.wf, isRulis i]
     meets
     [ let s := demo []
       meets [ready s (.fcvt .pend 5 (x 6)), illegalNow s (.fcvt .pend 5 (x 6)), ready s .eret, illegalNow s .eret]
     , let s := (demo []).modCur fun l => { l with st := {} }
       let i := Instr.idle
       let j := Instr.csrw 0 .prio 5
       meets [ready s i, !illegalNow s i, !s.priv, privileged i, ready s j, !illegalNow s j, privFails s j]
     , let s := (demo []).modCur fun l => { l with wlim := 70, accs := [0] }
       let beyond := fun (i : Instr) (n : Nat) => meets [ready s i, !illegalNow s i, !privFails s i, windowFails s i = some n]
       meets [beyond (.add 0 (x 69) (x 70)) 70, beyond (.vmov 0 (x 8)) 64, beyond (.accz 1) 0x81]
     , let s := prefixed 0x20600000 (demo [])
       let i := Instr.fcvt .pend 5 (x 6)
       meets [ready s i, !illegalNow s i, !privFails s i, windowFails s i = none, prefixFails s i]
     , let passes := fun (s : State) (i : Instr) => meets [ready s i, !illegalNow s i, !privFails s i, windowFails s i = none, !prefixFails s i]
       let s := (demo []).modHere fun k => { k with empty := [5] }
       let i := Instr.add 1 ⟨5, true⟩ (x 6)
       let m : Stream := { reg := 5, seq := 1, desc := 0x4000, base := 0x5000, second := 0, gth := false, wide := false, size := 4, count := 2, nxt := 1, st := .failed 2 0x5000 }
       let u := s.modCur fun l => { l with streams := [m] }
       let h := (demo []).modHere fun k => { k with newTable := [(0, (1, .preset .int8))] }
       let j := Instr.fcvt (.lit .f32 .code8 false .rne false) 5 (x 6)
       meets [passes s i, emptyBangs s [i] = [5], streamFailure s [5] = none, passes u i, emptyBangs u [i] = [5], streamFailure u [5] = some (2, 0x5000)
         , passes h j, emptyBangs h [j] = [], tableHeld h j]]) = true := by
  decide

/-! What meets the hypotheses of the statements about memory and control registers. -/

/-- An access to an address that R186 allows, in words without poison. -/
def reach (s : State) (va : Word) (n : Nat) (g : Rights) : Bool :=
  got (locate s s.myCtx s.priv va n g) fun p => (poisonedAt s p va n).isNone

/-- An access of the thread of core 0 to 0x4000, or to core 1's scratchpad, at a stage of its way. -/
def access (op : AccOp) (st : Stage) (remote : Bool) : Flight :=
  { id := 1, core := 0, slot := 0, uid := 7, ctx := 1, priv := true, addr := if remote then 0x8000000000100000 else 0x4000, len := 8, op := op, posted := remote, seq := 1
    stage := st, key := if remote then 0 else 0x4000, entry := 0x3F }

/-- A store of core 0 is on its way to core 1's scratchpad. -/
def onPath (s : State) : State := { s with flights := [access (.store [1]) .issued true], env := { s.env with fresh := 2 } }

/-- The port to the host enables CXL.io, CXL.cache and CXL.mem. -/
def linked (s : State) : State := s.modManage fun m => { m with cxlUsable := true }

/-- Accesses travel. -/
def travelling (s : State) : State := { s with env := { s.env with prompt := false } }

/-- The hypotheses `AtOnce`, `Posts` and `Drained`, as tests. -/
def atOnceB (s : State) (va : Word) (n : Nat) (g : Rights) : Bool := meets [s.cur.reply = none
  , s.env.prompt || ownSpad s va || (!g.a && issueOk va && !va.getLsbD 63 && servedHere s s.iss.core s.myCtx va.toNat n (!g.w)), !heldBack s va n g]
def postsB (s : State) (va : Word) (n : Nat) : Bool := meets [s.cur.reply = none, !s.env.prompt, va.getLsbD 63, !ownSpad s va, issueOk va
  , !storeInFlight s s.iss.core s.iss.slot s.cur.uid va.toNat n, decide (s.cur.unack < 65535)]
def drainedB (s : State) : Bool := meets [s.cur.unack = 0, s.cur.failed = none]

/-- A store of the thread was refused at its target, or is on its way. -/
def failing (s : State) : State := s.modCur fun l => { l with failed := some (1, 0x8000000000200000) }
def storing (s : State) : State := s.modCur fun l => { l with unack := 1 }

/-- The hypotheses of `Reports` for each instruction, as a test. -/
def reportsB (s : State) (l : List Instr) : Bool := meets [s.cur.failed = none, (failing s).cur.unack = 0, (failing s).cur.failed.isSome, runsAll (failing s) l]

/-- An address of core 0's own scratchpad (R108). -/
def spad : Word := 0x8000000000000000

/-- The thread has received a reply. -/
def replied (n : Nat) (s : State) : State := s.modCur fun l => { l with reply := some (List.replicate n 0x81) }

/-- The loads, with the bytes that each moves. -/
def loads (r : Nat) (o : Int) : List (Instr × Nat) :=
  [(.ldI8 1 (x r) o, 1), (.ldN8 1 (x r) o, 1), (.ldI16 1 (x r) o, 2), (.ldN16 1 (x r) o, 2), (.ldI32 1 (x r) o, 4), (.ldN32 1 (x r) o, 4)
    , (.ldI64 1 (x r) o, 8), (.ldaI64 1 (x r) o, 8), (.ldv 15 (x r) o, 64)]

/-- The stores, with the bytes that each moves. -/
def stores (r : Nat) (o : Int) : List (Instr × Nat) :=
  [(.stI8 1 (x r) o, 1), (.stI16 1 (x r) o, 2), (.stI32 1 (x r) o, 4), (.stI64 1 (x r) o, 8), (.stv 15 (x r) o, 64), (.stlI64 1 (x r) o, 8)]

theorem witness_Loads :
    (let s := demo [(2, 0x14000), (3, spad), (4, 0x4001)]
     let u := replied
     let near := fun (s : State) (r : Nat) (o : Int) (va : Word) => (loads r o).all fun p =>
       let a := va + BitVec.ofInt 64 (o * p.2)
       meets [runsB s p.1, atOnceB s a p.2 forLoad, reach s a p.2 forLoad]
     let here := got (locate s 1 true 0x14000 8 forLoad) fun p => near (travelling (lineBrought s 0x14000 64 p)) 2 0 0x14000
     meets [near s 2 511 0x14000, near s 2 (-512) 0x14000, near (travelling s) 3 0 spad, here
       , (loads 2 0).all fun p => meets [runsB (u p.2 s) p.1, (u p.2 s).cur.reply = some (List.replicate p.2 0x81)]
       , ((loads 4 0).drop 2).all fun p => meets [runsB s p.1, 0x4001 % p.2 ≠ 0]]) = true := by
  decide +kernel

theorem witness_Stores :
    (let s := demo [(2, 0x14000), (3, spad), (4, 0x4001), (5, 0x8000000000200000)]
     let far := fun (va : Word) (n : Nat) => match locate s s.myCtx s.priv va n forStore with | .error .far => true | _ => false
     let near := fun (r : Nat) (o : Int) (va : Word) (also : Word → Nat → Bool) => (stores r o).all fun p =>
       let a := va + BitVec.ofInt 64 (o * p.2)
       meets [runsB s p.1, atOnceB s a p.2 forStore, also a p.2]
     let posts := let u := travelling (demo [(2, 0x8000000000100000)])
       (stores 2 0).all fun p => meets [runsB u p.1, postsB u 0x8000000000100000 p.2, drainedB u]
     meets [drainedB s, reportsB s [.stlI64 1 (x 2) 0], near 2 511 0x14000 (reach s · · forStore), near 2 (-512) 0x14000 (reach s · · forStore), near 3 0 spad (reach s · · forStore)
       , near 5 0 0x8000000000200000 far, posts
       , (stores 2 0).all fun p => meets [runsB (replied 1 s) p.1, (replied 1 s).cur.reply.isSome]
       , ((stores 4 0).drop 1).all fun p => meets [runsB s p.1, 0x4001 % p.2 ≠ 0]]) = true := by
  decide +kernel

theorem witness_BlockMovesAndFences :
    (let s := demo [(2, 0x4000), (3, 0x4FFF), (4, spad), (5, spad + 0x3FFF), (6, 0x7F00000000000000), (7, 0x8000000000200000), (8, 0x8000000000200020), (9, 0x8000000000100000), (10, 0x8000000000100020)]
     let ready := fun (a b : Nat) => meets [s.cur.reply = none, (rx s a).getLsbD 63 || (atOnce s (rx s a) 32 false && atOnce s (rx s b) 1 false), (rx s a).toNat % 32 = 0, (rx s a).getLsbD 63 = (rx s b).getLsbD 63, [forLoad, forStore].all fun g =>
       meets [!heldBack s (rx s a) 32 g, !heldBack s (rx s b) 1 g], !postedPart s (rx s a), !postedPart s (rx s b)
       , runsB s (.ldmx 15 (x a) (x b)), runsB s (.stmx 15 (x a) (x b))]
     let block := fun (a b : Nat) => meets [ready a b
       , got (locate s s.myCtx s.priv (rx s a) 32 forLoad) fun p => let u := lineBrought s (rx s a) 32 p
           meets [(poisonedAt s p (rx s a) 32).isNone, !heldBack u (rx s b) 1 forLoad, reach u (rx s b) 1 forLoad]
       , got (locate s s.myCtx s.priv (rx s a) 32 forStore) fun p =>
           let w := storeAt (lineOwned s (rx s a) 32 p) p.key (((rv s 15).take 8).flatMap fun l => toBytes 4 l.toNat)
           meets [!heldBack w (rx s b) 1 forStore, got (locate s s.myCtx s.priv (rx s b) 1 forStore) fun q => match locate w w.myCtx w.priv (rx s b) 1 forStore with
             | .ok r => r == q | _ => false]]
     let far := fun (va : Word) => match locate s s.myCtx s.priv va 1 forLoad with | .error _ => true | _ => false
     let away := fun (r n : Nat) => match locate s s.myCtx s.priv (rx s r) n forStore with | .error .far => true | _ => false
     let full := s.modHere fun k => { k with lines := (List.range 8192).map fun i => ⟨1, 1000 + i, .shared, 0, 0, i⟩ }
     let leaves := fun (a b : Nat) (p : State → Bool) => let u := travelling s
       meets [u.cur.reply = none, runsB u (.stmx 15 (x a) (x b)), (rx u a).toNat % 32 = 0, (rx u a).getLsbD 63 = (rx u b).getLsbD 63
         , (partsStop u [(rx u a, ((rv u 15).take 8).flatMap fun l => toBytes 4 l.toNat), (rx u b, toBytes 1 (rlane u 15 8).toNat)] 1).isNone, p u]
     let waits := { s with flights := [access .load .translated false] }
     meets [block 2 3, leaves 9 10 fun u => postedPart u (rx u 9), leaves 4 10 fun u => postedPart u (rx u 10)
       , leaves 2 3 fun u => meets [!(rx u 2).getLsbD 63, !atOnce u (rx u 2) 32 false, !atOnce u (rx u 3) 1 false, decide (u.cur.unack < 65535)]
       , let u := replied 1 s
         meets [runsB u (.stmx 15 (x 2) (x 3)), u.cur.reply.isSome]
       , got (locate s s.myCtx s.priv (rx s 4) 1 forLoad) fun p => !p.glob, runsB s (.pfl (x 4) 0), !behind s 0 1 (rx s 2) 1 forLoad
       , runsB waits (.pfl (x 2) 0), behind waits 0 1 (rx s 2) 1 forLoad, got (locate waits 1 true (rx s 2) 1 forLoad) fun _ => true, block 4 5, ready 7 8, away 7 32, away 8 1, ready 4 8, reach s (rx s 4) 32 forStore, ready 7 5, reach s (rx s 5) 1 forStore
       , cacheRoom s.here, !cacheRoom full.here, runsB full (.pfl (x 2) (-1)), !lineHeld s 1 0x7F, !lineHeld full 1 0x7F, s.cur.unack = 0, runsAll s [.pfl (x 2) (-1), .pflW (x 2) 1023, .pfl (x 6) 0, .drain, .ifence, .fence .thread, .fence .system]
       , got (locate s s.myCtx s.priv (rx s 2 + BitVec.ofInt 64 (-128)) 1 forLoad) fun p => meets [p.glob
           , (poisonedAt s { p with key := p.key - p.key % 128 } 0 128).isNone]
       , far (rx s 6), drainedB s, s.here.segs.all fun g => g.2.st ≠ .fetching, runsAll (storing s) [.drain, .fence .thread]
       , reportsB s ([.drain, .ifence, .launch 1 (x 2) (x 3), .cseal 1 (x 2), .pfxins 1 (x 2), .pfxdel 1 (x 2), .pgharv 1 (x 2), .pgharvClr 1 (x 2)
           , .pginvPage 1 (x 2), .pginvCtx 1, .pginvRevive 1 (x 2), .pgwake 1 (x 2), .pgqry 1 (x 2)] ++ [Scope.core, .die, .package, .system].map .fence)]) = true := by
  decide +kernel

theorem witness_Atomics :
    (let s := demo [(2, 0x14000), (4, 0x14001)]
     let each := fun (m : AtomMode) (r : Nat) => ([ITy.i32, .n32, .i64, .n64].flatMap fun t => [Instr.aadd t m 1 (x r) (x 3), .aand t m 1 (x r) (x 3), .aor t m 1 (x r) (x 3)
       , .axor t m 1 (x r) (x 3), .amin t m 1 (x r) (x 3), .amax t m 1 (x r) (x 3), .aswp t m 1 (x r) (x 3), .acas t m 1 (x r) (x 3)])
         ++ [.afadd .f64 m 1 (x r) (x 3), .afadd .f32 m 1 (x r) (x 3)]
     let rel : AtomMode := ⟨false, true, .thread, 0⟩
     let e := fun (m : AtomMode) (va : Word) =>
       let all := fun (f : ITy → Instr) => meets [runsB s (f .i32), runsB s (f .n32), runsB s (f .i64), runsB s (f .n64)]
       meets [all (.aadd · m 1 (x 2) (x 3)), all (.aand · m 1 (x 2) (x 3)), all (.aor · m 1 (x 2) (x 3)), all (.axor · m 1 (x 2) (x 3))
         , all (.amin · m 1 (x 2) (x 3)), all (.amax · m 1 (x 2) (x 3)), all (.aswp · m 1 (x 2) (x 3)), all (.acas · m 1 (x 2) (x 3))
         , runsB s (.afadd .f64 m 1 (x 2) (x 3)), runsB s (.afadd .f32 m 1 (x 2) (x 3)), reach s va 4 forAtomic, reach s va 8 forAtomic, atOnceB s va 4 forAtomic
         , atOnceB s va 8 forAtomic]
     meets [drainedB s, reportsB s (each rel 2), runsAll (storing s) (each rel 2), (storing s).cur.unack ≠ 0, runsAll s (each rel 4), (rx s 4).toNat % 4 ≠ 0, [4, 8].all fun n =>
           meets [runsAll (replied n s) (each rel 2), (replied n s).cur.reply = some (List.replicate n 0x81)]
       , e ⟨false, false, .package, 0⟩ 0x14000, e ⟨true, true, .system, 1023⟩ 0x15FF8, e ⟨false, true, .thread, -1024⟩ 0x12000])
    = true := by
  decide +kernel

/-- Every control register (R131). -/
def csrs : List Csr :=
  [.st, .trapvec, .epc, .cause, .tval, .ssplit, .vgroup, .waitlim, .msglim, .viewlim, .unack, .ctxid, .thid, .wbase, .wlim, .dtsel, .prio, .cyc]

theorem witness_ControlRegisterReads :
    runsAll (demo []) ((csrs ++ [Csr.mb 0, Csr.mb 3]).map (.csrr 127)) = true := by decide

theorem witness_ControlRegisterWrites :
    (let s := demo [(2, 0x40), (3, 128), (4, 1), (5, 0x700)]
     let pager := { s with iss := { s.iss with slot := 62 } }.setSlot 0 62 { s.cur with phase := .ready }
     let full := s.modHere fun k => { k with claim := some (0, 7), mbox := [(0, 1), (1, 2), (2, 3)] }
     meets [runsAll s ((csrs ++ [Csr.mb 0, Csr.mb 2]).map (.csrw 1 · 4) ++ csrs.map (.csrs 1 · 4) ++ csrs.map (.csrc 1 · 4)), s.priv
       , decide (s.iss.slot < 62), !s.iss.pair, !windowBad s ((rx s 2).toNat % 2048) s.cur.wlim, !windowBad s s.cur.wbase ((rx s 3).toNat % 2048)
       , windowBad s 0x700 s.cur.wlim, windowBad s s.cur.wbase 0, rx s 5 = 0x700, rx s 0 = 0, runsAll s [.csrw 1 .wbase 5, .csrw 1 .wlim 0]
       , scratchHeld s 0, s.here.claim = none, s.cur.shadow = [], look s.here.mbox 2 = none, s.cur.phase = .ready
       , runsAll pager [.csrw 1 .wbase 4, .csrs 1 .wlim 4], runsAll full [.csrw 1 (.mb 3) 4, .csrw 1 (.mb 2) 4], drainedB full
       , runsAll (storing full) [.csrw 1 (.mb 3) 4], (storing full).cur.unack ≠ 0, reportsB full [.csrw 1 (.mb 3) 4], (look full.here.mbox 2).isSome
       , let other := s.modHere fun k => { k with claim := some (5, 9) }
         meets [runsAll other [.csrw 1 (.mb 0) 4], other.here.claim = some (5, 9), ((5, 9) : Nat × Nat) ≠ (other.iss.slot, other.cur.uid)], look full.here.mbox 3 = none
       , runsB s (.csrw 1 (.mb 3) 4), look s.here.mbox 3 = none, full.here.claim = some (full.iss.slot, full.cur.uid), full.cur.shadow = []
       , (List.range 3).all fun j => (look full.here.mbox j).isSome
       , let free := s.setCtx 1 { s.ctx 1 with launches := [] }
         meets [runsB free (.csrw 1 .ssplit 3), !scratchHeld free 0]
       , let user := s.modCur fun l => { l with st := {} }
         meets [!user.priv, runsAll user [.csrs 1 .st 0, .csrw 1 .dtsel 4]]]) = true := by
  decide +kernel

/-! What meets the hypotheses of the statements about threads, messages, pages, full/empty words and barriers. -/

/-- The state with another slot of core 0 in issue, a privileged thread of context 1. -/
def issuing (t : Nat) (s : State) : State :=
  let u := { s with iss := { s.iss with slot := t } }
  u.setSlot 0 t { phase := .ready, pc := 0x40, st := { pv := true }, ctx := 1, uid := 9 }

/-- A thread that belongs to a phase, and one with a work item in hand. -/
def inPhase (s : State) : State := s.modCtx 1 fun k => { k with launches := k.launches.map fun p => (p.1, { p.2 with phase := some 5 }) }
def withItem (i : Item) (s : State) : State := s.modCur fun l => { l with item := some i }

theorem witness_ThreadsAndCounters :
    (let s := demo [(2, 2), (3, 0x8000000000000000)]
     let name := fun (lv : Level) (n : Nat) => counter s lv (rx s n)
     meets [runsAll s ([.yield, .exit, .tid 1 0, .tid 1 1, .tid 1 2, .tid 1 3, .tid 1 4] ++ [Level.thread, .launch, .wave, .phase, .job].flatMap fun l =>
         [.cntrd l 1 (x 2), .cntwait l 1 (x 2), .cancel l 1 (x 2)])
       , !s.iss.pair, drainedB s, runsB (storing s) .exit, reportsB s [.exit]
       , recOpen (name .launch 2) = false, recOpen (name .launch 0), !s.cur.expired, (s.modCur fun l => { l with expired := true }).cur.expired
       , wbits (name .launch 2) 63 61 = 7, wbits (name .launch 0) 63 61 = 0, s.cur.launch = 1, (look (s.ctx 1).launches 1).isSome
       , let u := s.modCtx 1 fun k => { k with launches := k.launches.map fun p => (p.1, { p.2 with st := .complete }) }
         meets [runsB u (.cancel .launch 1 (x 0)), wbits (counter u .launch (rx u 0)) 63 61 = 1]
       , phaseOf (inPhase s) (inPhase s).cur = some 5, runsB (inPhase s) (.tid 1 3)
       , let u := withItem ⟨3, 9, false, [], false⟩ s
         meets [ownWave u.cur = some 9, runsB u (.tid 1 4)]
       , let u := issuing 62 s
         meets [u.cur.launch = 0, ownWave u.cur = none, runsAll u [.tid 1 0, .tid 1 4]]]) = true := by
  decide +kernel

theorem witness_Launches :
    (let m : List Host.Cell := [(0x4003, 0x10), (0x4004, 0x80), (0x4008, 2), (0x4009, 0x80), (0x4020, 1)
       , (0x4043, 0x10), (0x4044, 0x80), (0x4045, 0x10), (0x4049, 0x80), (0x4060, 1)]
     let s := demoWith m [(2, 0x4000), (3, 0x4040), (4, 0x5000)]
     let read := fun (r : Nat) (p : Option (Desc × List Nat) → Bool) => meets [runsB s (.launch 1 (x r) (x 7)), got (readDesc s (rx s r)) fun q => p q.1]
     meets [drainedB s
       , read 2 fun d => match d with | some d => d.2 == [2] && launchStatus s s.myCtx d.1 d.2 == 0 | none => false
       , read 3 fun d => match d with | some d => d.2 == [0] && launchStatus s s.myCtx d.1 d.2 != 0 | none => false
       , read 4 fun d => d.isNone]) = true := by
  decide +kernel

theorem witness_SaveAndRestore :
    (let small := (demo []).modSlot 0 0 fun l => { l with phase := .stopped, wlim := 8, accs := [] }
     let s := (issuing 63 small).modHere fun k => { k with regs := [(8 * 252 + 2, 0x4000), (8 * 252 + 4, 62), (8 * 252 + 5, 1)] }
     let saved := done (.tsave 1 (x 2) (x 3)) s
     let load := fun (u : State) (p : Nat → Bool) => meets [runsB u (.tload 1 (x 2) (x 3)), got (readRange u (rx u 2) 256 forLoad) fun h =>
       meets [headStatus h.2 0 0 h.1 = 0, got (readRange h.2 (rx u 2 + 256) (imageRest h.1) forLoad) fun rest =>
         let i := parseImage h.1 rest.1
         meets [p (loadStatus rest.2 0 i), got (readRanges rest.2 (i.streams.map fun r => (r.1, 32))) fun ds => (rebind i ds.2.env.fresh ds.1).isSome]]]
     let away := (travelling s).modHere fun k => { k with regs := [(8 * 252 + 2, 0x8000000000100000), (8 * 252 + 4, 62), (8 * 252 + 5, 1)] }
     let stored := fun (u : State) (p : Nat → Bool) => meets [runsB u (.tsave 1 (x 2) (x 3)), u.cur.part = [], match storeRange u (rx u 2) (imageOf u 0 0) with
       | .ok v => p v.cur.unack | _ => false]
     meets [s.iss.slot = 63, (rx s 2).toNat % 128 = 0, (rx s 4).toNat % 64 = 62, (rx s 5).toNat % 64 = 1, (rx s 3).toNat % 64 = 0
       , runsAll s [.tsave 1 (x 2) (x 4), .tload 1 (x 2) (x 4), .tsave 1 (x 2) (x 5), .tsave 1 (x 2) (x 3)]
       , (s.slot 0 1).phase ≠ .stopped, (s.slot 0 0).phase = .stopped
       , stored s (· == 0), stored away (· != 0), got (readRange s (rx s 2) 256 forLoad) fun h => headStatus h.2 0 0 h.1 ≠ 0
       , load saved (· == 0), load (saved.modCtx 1 fun k => { k with launches := k.launches.map fun p => (p.1, { p.2 with finished := [0] }) }) (· != 0)]) = true := by
  decide +kernel

/-- An image of a thread with one stream, whose descriptor at 0x6000 is malformed (R143). -/
def streamImage : List Host.Cell :=
  [(0x4000, 0x40), (0x4008, 4), (0x4050, 8), (0x4052, 16)] ++ (List.range 17).map (fun i => (0x4060 + i, 0xFF))
    ++ [(0x40A8, 1), (0x40A9, 16), (0x4141, 0x60), (0x4148, 1), (0x414D, 0x81)]

theorem witness_rebind :
    (let s := (issuing 63 ((demoWith streamImage []).modSlot 0 0 fun _ => {})).modHere fun k => { k with regs := [(8 * 252 + 2, 0x4000)] }
     meets [runsB s (.tload 1 (x 2) (x 3)), got (readRange s (rx s 2) 256 forLoad) fun h =>
       meets [headStatus h.2 0 0 h.1 = 0, got (readRange h.2 (rx s 2 + 256) (imageRest h.1) forLoad) fun rest =>
         let i := parseImage h.1 rest.1
         meets [loadStatus rest.2 0 i = 0, got (readRanges rest.2 (i.streams.map fun r => (r.1, 32))) fun ds => (rebind i ds.2.env.fresh ds.1).isNone]]]) = true := by
  decide +kernel

theorem witness_FetchAndMessages :
    (let note : Msg := { slot := 0, words := [1, 2], ctx := 1, srcCore := 1, srcSlot := 0, srcUid := 0, counted := true, kind := .plain }
     let s := (demo [(2, 0x1FFFFFFFFFFF000), (3, 1), (4, 8191)]).modHere fun k => { k with
       segs := [(0, { st := .landed, holder := some (1, 1) }), (1, { st := .fetching }), (2, { st := .failed 7 }), (7, { holder := some (1, 1) })] }
     let q := s.modHere fun k => { k with queue := [note] }
     let full := s.modHere fun k => { k with queue := List.replicate 31 note }
     let mine := { note with words := (List.range 8).map fun i => rx s (120 + i), srcCore := 0, srcUid := 7, counted := false, seq := 1 }
     meets [mayFetch s 7, mayFetch s 0, !mayFetch s 1, decide ((rx s 2).toNat < 2 ^ 57), (rx s 2).toNat % 4096 = 0
       , runsAll s [.ofetch 7 (x 2), .ofetch 1 (x 2), .ostat 1 0, .ostat 1 1, .ostat 1 2, .ostat 1 3, .send (x 3) 120 8 62, .send (x 4) 127 1 0
           , .send (x 0) 120 8 0, .wmsg, .mstat 1]
       , s.size = 128, drainedB s, rx s 3 ≠ 0, !pathBusy s 0 1, !pathBusy s 0 8191, pathBusy (onPath s) 0 1, drainedB (onPath s), runsB (onPath s) (.send (x 3) 120 8 62)
       , (rx s 4).toNat = 8191, (rx s 0).toNat = s.iss.core, s.here.station = []
       , decide (queueUsed full.here < 32), !refuses full 0 mine, runsB full (.send (x 0) 120 8 0)
       , messageReady q, !messageReady s, runsAll q [.wmsg, .pmsg 1], q.cur.msg = none, q.here.queue.find? (takes 0 7) = some note
       , let u := s.modCur fun l => { l with msg := some note }
         meets [runsB u (.pmsg 1), u.cur.msg = some note]]) = true := by
  decide +kernel

/-- The tables of `demo` with the page dead (R183). -/
def deadDemo (r : List (Nat × Word)) : State := demoWith [(0x3001, 1)] r

theorem witness_LinesAndPages :
    (let s := demo [(2, 0x4000), (3, 0x40000000), (4, 0x40000001), (5, 0x1000), (6, 0x100000000000), (7, 0x700000005)]
     let u := { s with flights := [{ id := 1, core := 1, slot := 0, uid := 1, ctx := 1, priv := true, addr := 0x4000, len := 8, op := .load, posted := false
                                     seq := 1, stage := .granted }] }
     let f : FaultRec := { slice := 7, seq := 5, open_ := true, ctx := 1, va := 0, src := 0, acc := 0, kind := 0, cause := 0, lvl := 0, thid := 0, entry := 0, joined := [] }
     let v := { s with faults := [f] }
     let d := deadDemo [(2, 0x4000)]
     let page := fun (s : State) => let r := pageRange s 1 0x4000; staleRange s 1 r.1 r.2
     let slow := travelling s
     let leaf := harvestLeaf s 1 0x4000
     let last := slow.modCur fun l => { l with part := List.replicate 511 0, leaf := leaf }
     let behind := { s with flights := [access .load .translated false] }
     let lost := s.setPoison 0x3000 true
     let begun := lost.modCur fun l => { l with leaf := leaf }
     let lines := fun (a b : Nat) => [Instr.wback 1 (x a) (x b), .linv 1 (x a) (x b), .lclr 1 (x a) (x b), .discard 1 (x a) (x b)]
     meets [runsAll s (lines 2 4 ++ lines 2 3 ++ lines 0 3 ++ lines 2 5), badRange (rx s 2) (rx s 4) false, badRange (rx s 2) (rx s 4) true
       , !badRange (rx s 2) (rx s 3) false, !badRange (rx s 2) (rx s 5) true, !badRange (rx s 0) (rx s 3) true, drainedB s
       , partlyCovered 0x4000 0x5000 (leaves s 1 0x4000 0x5000), !partlyCovered 0 0x40000000 (leaves s 1 0 0x40000000), !entryInUse s 1 0 0x40000000
       , runsAll s [.pgharv 1 (x 2), .pgharvClr 1 (x 2), .pginvPage 1 (x 2), .pginvCtx 1, .pginvRevive 1 (x 2), .pgwake 1 (x 2), .pgwakeFatal 1 (x 2) 16
           , .pgqry 1 (x 2), .pgharv 1 (x 6), .pginvRevive 1 (x 6)]
       , leafOf s 1 (rx s 6) = none, leafOf s 1 (rx s 2) = some (2, 30, 0x3F), !entryInUse s 1 (page s).1 (page s).2, !entryInUse s 1 0 (2 ^ 57), staleRange s 1 0 (2 ^ 57) = (0, 2 ^ 57)
       , meets [staleRange s 1 0 0x40000000 = (0, 0x40000000), !partlyCovered 0 0x40000000 (leaves u 1 0 0x40000000), entryInUse u 1 0 0x40000000
       , runsB u (.discard 1 (x 0) (x 3)), [slow, last].all fun v => meets [runsAll v [.pgharv 1 (x 2), .pgharvClr 1 (x 2)], drainedB v
           , leafOf v 1 (rx v 2) = some (2, 30, 0x3F)], slow.cur.part = [], slow.cur.leaf = none, leaf.isSome, harvestLeaf s 1 (rx s 6) = none, leaf = some (0x3000, 0x3000, 1, 30), walkLost s 1 (rx s 2) = none, walkLost s 1 (rx s 6) = none
         , groupLost s (rx s 2).toNat 0x3000 0x3000 1 30 = none, (walkLost lost 1 (rx lost 2)).isSome, drainedB lost, (groupLost begun (rx s 2).toNat 0x3000 0x3000 1 30).isSome
         , begun.cur.leaf.isSome, runsB begun (.pgharv 1 (x 2)), runsAll lost [.pgharv 1 (x 2), .pgharvClr 1 (x 2), .pginvRevive 1 (x 2), .pgqry 1 (x 2)]
         , !entryInUse lost 1 (page lost).1 (page lost).2, !selfMapped 0x4000, last.cur.leaf = leaf, last.cur.part.length = 511]
       , let r := lineRange (rx s 2) (rx s 5)
         meets [!linesBehind s 0 1 r.1 r.2, linesBehind behind 0 1 r.1 r.2, runsAll behind (lines 2 5)]
       , entryInUse u 1 (page u).1 (page u).2, runsB u (.pginvPage 1 (x 2)), drainedB u, !eDead 0x3F
       , leafOf d 1 (rx d 2) = some (2, 30, 0x13F), eDead 0x13F, !entryInUse d 1 (page d).1 (page d).2, runsB d (.pginvRevive 1 (x 2)), drainedB d
       , recordOf s 1 (rx s 2) = none, recordOf v 1 (rx v 7) = some f, runsAll v [.pgwake 1 (x 7), .pgwakeFatal 1 (x 7) 21], drainedB v]) = true := by
  decide +kernel

theorem witness_FullEmptyWords :
    (let s := { demo [(2, 0x4000), (3, 0x6000), (4, spad), (5, 0x4004)] with full := [0x4000 / 8, spadKey 0 0 / 8] }
     let d := { deadDemo [(2, 0x4000)] with full := [0x4000 / 8] }
     let at_ := fun (s : State) (va : Word) (g : Rights) (p : Place → Bool) => meets [va.toNat % 8 = 0, !heldBack s va 8 { g with a := true }
       , got (locate s s.myCtx s.priv va 8 g) fun q => meets [q.tagged, p q]]
     let full := fun (va : Word) (q : Place) => (reached s va 8 q).isFull q.key && !q.dead
     let sound := fun (va : Word) (q : Place) => !(reached s va 8 q).isPoison q.key
     meets [s.cur.reply = none, drainedB s, (rx s 5).toNat % 8 ≠ 0
       , runsAll s ([2, 3, 4].flatMap fun r => [.ldfe 1 (x r) 0, .ldf 1 (x r) 0, .stfe (x r) (x 9) 0, .stf (x r) (x 9) 0, .feclr 1 (x r) 0, .festat 1 (x r) 0])
       , runsAll s [.festat 1 (x 5) 0, .ldfe 1 (x 3) (-1024), .ldf 1 (x 2) 1023]
       , [0x4000, spad].all fun va => meets [at_ s va forTagTake fun q => meets [full va q, sound va q, !q.dead]
           , at_ s va forLoad fun q => meets [full va q, sound va q]]
       , at_ s 0x6000 forTagTake fun q => !full 0x6000 q, at_ s 0x6000 forLoad fun q => !full 0x6000 q
       , at_ s 0x6000 forTagWrite fun q => !full 0x6000 q, at_ s 0x4000 forTagWrite fun q => full 0x4000 q
       , at_ d 0x4000 forTagTake (·.dead), runsB d (.feclr 1 (x 2) 0)
       , let fe := fun (r : Nat) => [Instr.ldfe 1 (x r) 0, .ldf 1 (x r) 0, .stfe (x r) (x 9) 0, .stf (x r) (x 9) 0, .feclr 1 (x r) 0, .festat 1 (x r) 0]
         let ill := s.setPoison 0x4000 true
         let host := linked (s.setNum 0x3000 8 0x200000000003F)
         let posting := fun (u : State) => meets [u.cur.reply = none, runsAll u [.stfe (x 2) (x 9) 0, .stf (x 2) (x 9) 0], [0x4000, 0x6000].all fun va => at_ u va forTagWrite fun _ => true]
         meets [[forTagTake, forLoad].all fun g => at_ ill 0x4000 g fun q => meets [(reached ill 0x4000 8 q).isFull q.key, !q.dead, (reached ill 0x4000 8 q).isPoison q.key]
           , runsAll ill (fe 2), [forTagTake, forLoad, forTagWrite].all fun g => meets [!heldBack host 0x4000 8 { g with a := true }
               , got (locate host 1 true 0x4000 8 g) fun q => !q.tagged], host.cur.reply = none, runsAll host (fe 2)
           , posting (storing s), posting (failing s), (storing s).cur.unack ≠ 0]
       , runsAll (replied 8 s) [.stfe (x 2) (x 9) 0, .ldfe 1 (x 2) 0, .ldf 1 (x 2) 0, .bwait 1 (x 2) (x 9), .bcpl 1 (x 2)]]) = true := by
  decide +kernel

theorem witness_Barriers :
    (let m : List Host.Cell := [(0x4000, 1), (0x4003, 2), (0x4007, 0x80), (0x4010, 1), (0x4023, 2), (0x4028, 5), (0x4060, 2), (0x4063, 2)]
     let s := demoWith m [(2, 0x4000), (3, 0x4020), (4, 0x4040), (5, 0xFFFFFF), (6, 0x1000000), (7, 0x7FFFFFFFFFFFFF), (8, 0xFF80000000000000), (9, 1), (10, 0x4060)]
     let ready := fun (va : Word) (g : Rights) (p : Place → Bool) => meets [va.toNat % 32 = 0, !heldBack s va 32 { g with a := true }
       , got (locate s s.myCtx s.priv va 32 g) fun q => meets [q.tagged, (poisonedAt s q va 32).isNone, !q.dead, p q]]
     let bar := fun (s : State) (q : Place) (p : Bar → Bool) => match barAt s q with | some b => p b | none => false
     let u := fun (va : Word) (q : Place) => reached s va 32 q
     meets [drainedB s, s.cur.reply = none, runsAll s ([2, 3, 4].flatMap fun r => [.binit 1 (x r) (x 5), .barv 1 (x r), .bexp 1 (x r) (x 7), .bwait 1 (x r) (x 0)
         , .btest 1 (x r) (x 0), .bcpl 1 (x r)])
       , (rx s 5).toNat = 2 ^ 24 - 1, (rx s 6).toNat = 2 ^ 24, (rx s 7).toInt = 2 ^ 55 - 1, (rx s 8).toInt = -2 ^ 55, rx s 0 = 0
       , runsAll s [.binit 1 (x 2) (x 9), .binit 1 (x 2) (x 0), .binit 1 (x 2) (x 6), .bexp 1 (x 2) (x 8)]
       , ready 0x4000 forBarrier fun q => meets [!barWaiter (u 0x4000 q) q, bar (u 0x4000 q) q fun b =>
           let taken := putBar (u 0x4000 q) (u 0x4000 q).iss.core (u 0x4000 q).myCtx 0x4000 q (completePhase { b with arr := b.arr - 1 })
           meets [b == ⟨2, 1, 0, 1⟩, match parseBar (taken.bytes q.key 32) with | some c => c.passed (BitVec.ofNat 64 b.count) | none => false]]
       , let w : Waiter := { core := 1, slot := 0, uid := 9, ctx := 1, priv := true, va := 0x4000, key := 0x4000, home := 0, dead := false, op := .bwait 1, parked := false, retryAt := none }
         let v := { s with waiters := [w] }
         meets [runsB v (.binit 1 (x 2) (x 5)), drainedB v, !heldBack v 0x4000 32 { forBarrier with a := true }
           , got (locate v v.myCtx v.priv 0x4000 32 forBarrier) fun q => meets [q.tagged, barWaiter (reached v 0x4000 32 q) q]]
       , ready 0x4000 forLoad fun q => meets [bar s q fun b => !b.passed 1, barAt (u 0x4000 q) q == barAt s q], runsB s (.bwait 1 (x 2) (x 9))
       , ready 0x4060 forBarrier fun q => bar (u 0x4060 q) q fun b =>
           let taken := putBar (u 0x4060 q) (u 0x4060 q).iss.core (u 0x4060 q).myCtx 0x4060 q (completePhase { b with arr := b.arr - 1 })
           meets [b == ⟨2, 2, 0, 0⟩, match parseBar (taken.bytes q.key 32) with | some c => !c.passed (BitVec.ofNat 64 b.count) | none => false], runsB s (.bcpl 1 (x 10))
       , let both := fun (r : Nat) => [Instr.binit 1 (x r) (x 5), .barv 1 (x r), .bexp 1 (x r) (x 7), .bwait 1 (x r) (x 0), .btest 1 (x r) (x 0), .bcpl 1 (x r)]
         let at_ := fun (s : State) (p : Place → Bool) => [forBarrier, forLoad].all fun g => meets [!heldBack s 0x4000 32 { g with a := true }
           , got (locate s s.myCtx s.priv 0x4000 32 g) p]
         let ill := s.setPoison 0x4008 true
         let host := linked (s.setNum 0x3000 8 0x200000000003F)
         meets [at_ ill fun q => q.tagged && poisonedAt ill q 0x4000 32 == some 0x4008, ill.cur.reply = none, runsAll ill (both 2), at_ host fun q => !q.tagged
           , runsAll host (both 2), reportsB s (both 2)]
       , ready 0x4020 forBarrier fun q => bar (u 0x4020 q) q (· == ⟨2, 0, 5, 0⟩), ready 0x4040 forBarrier fun q => (barAt (u 0x4040 q) q).isNone
       , ready 0x4040 forLoad fun q => (barAt s q).isNone, ready 0x4000 forLoad fun q => meets [bar s q (·.passed 0), barAt (u 0x4000 q) q == barAt s q]]) = true := by
  decide +kernel

theorem witness_BarrierPhases :
    (let b : Bar := ⟨0xFFFFFF, 0, 0, 2 ^ 62 - 1⟩
     let c : Bar := ⟨1, 1, -2 ^ 55, 0⟩
     meets [b.arr = 0, b.bytes = 0, !decide (c.arr = 0 ∧ c.bytes = 0), decide (b.count < 2 ^ 62), b.passed (BitVec.ofNat 64 (2 ^ 62 - 2)), !b.passed 0x3FFFFFFFFFFFFFFF
       , decide (c.exp < 2 ^ 24 ∧ c.arr ≤ c.exp ∧ 0 < c.exp ∧ -(2 ^ 55 : Int) ≤ c.bytes ∧ c.bytes < 2 ^ 55)]) = true := by
  decide

/-! What meets the hypotheses of the statements about streams, channels and the matrix unit. -/

theorem witness_StreamsAndSubscriptions :
    (let s := demoWith [(0x4001, 0x50), (0x4010, 2), (0x4018, 2)] [(2, 0x4000), (3, 0x4020), (4, 0xFFFF), (5, 0xFFFFF), (6, 0x10000), (7, 1)]
     let m : Stream := { reg := 9, seq := 1, desc := 0x4000, base := 0x5000, second := 0, gth := false, wide := false, size := 4, count := 2, nxt := 1, st := .running }
     let u := s.modCur fun l => { l with streams := [m] }
     let full := s.modCur fun l => { l with streams := [{ m with reg := 10 }, { m with reg := 11 }, { m with reg := 12 }, { m with reg := 13 }] }
     let q : Match := { ctx := 1, tag := 0xFFFF, off := 0, ch := 3 }
     let v := s.modHere fun k => { k with matches_ := [q] }
     let read := fun (s : State) (r : Nat) (p : List Byte → Bool) => meets [runsB s (.sbind 9 (x r) 0), (rx s r).toNat % 32 = 0, got (readRange s (rx s r) 32 forLoad) fun q => p q.1]
     meets [read s 2 fun bs => (parseStream 9 s.env.fresh 0x4000 bs).isSome, read s 3 fun bs => (parseStream 9 s.env.fresh 0x4020 bs).isNone
       , s.cur.stream 9 = none, decide (s.cur.streams.length < 4), read u 2 fun _ => (u.cur.stream 9).isSome, read full 2 fun _ => decide (4 ≤ full.cur.streams.length)
       , runsAll u [.sunb 9, .scfgCount 1 9 (x 7), .scfgSkip 1 9 (x 7), .sstat 1 9], u.cur.stream 9 = some m
       , runsAll s [.sunb 9, .scfgCount 1 9 (x 7), .scfgSkip 1 9 (x 7), .sstat 1 9, .xwpt 1 0, .xwpt 1 7, .xsubs 1 (x 4) (x 5) 3, .xsubs 1 (x 6) (x 5) 3
           , .xunsub 1 (x 6), .xunsub 1 (x 4)]
       , decide ((rx s 4).toNat < 2 ^ 16), decide ((rx s 5).toNat < 2 ^ 20), s.here.matches_ = [], (s.here.chan 3).who = none, decide (2 ^ 16 ≤ (rx s 6).toNat)
       , v.here.matches_.find? (fun k => k.tag == 0xFFFF) = some q, runsB v (.xunsub 1 (x 4)), s.here.matches_.find? (fun k => k.tag == 0xFFFF) = none]) = true := by
  decide +kernel

/-- The bundle in issue has gathered bytes. -/
def gatheredSoFar (n : Nat) (s : State) : State := s.modCur fun l => { l with part := List.replicate n 0 }

/-- The state with accumulator 0 in a shape, its element (0, 0) being 5. -/
def shaped (n : Nat) (s : State) : State := s.modHere fun k => { k with accs := [(0, { shape := n, live := true, el := [(0, 5)] })] }

theorem witness_Accumulators :
    (let s := demo [(2, 0x6000), (3, 0x6004), (4, 15)]
     let stored := fun (s : State) => match storeRows s (accStores (accOfCur s 0) (maskPair s.cur 0) (rx s 2)) with | .ok _ => true | _ => false
     let read := fun (n : Nat) (h : Shape) => let u := gatheredSoFar (64 * n - 64) s
       meets [runsB u (.accld 0 h (x 2)), match gatherLoads u 64 ((List.range n).map fun i => rx s 2 + BitVec.ofNat 64 (64 * i)) with | .ok _ => true | _ => false]
     meets [runsAll s ([.mshape 0 .f32, .mshape 7 .f64, .mskr 0 (x 4), .mskc 3 (x 4), .accmv 0 0 (x 4), .accz 0, .accst 0 (x 2), .accst 0 (x 3)
         , .accld 0 .f32 (x 3)] ++ [Shape.f32, .i32, .f64].map fun h => .accld 0 h (x 2))
       , [1, 2, 3].all fun n => meets [(accOfCur (shaped n s) 0).shape = n, runsAll (shaped n s) [.accmv 0 0 (x 4), .accz 0, .accst 0 (x 2)]]
       , (accOfCur s 0).shape = 0, (rx s 2).toNat % 64 = 0, (rx s 3).toNat % 64 ≠ 0, read 8 .f64, read 16 .f32, read 16 .i32
       , let u := (shaped 1 s).modCur fun l => { l with masks := [(0, ⟨1, 3⟩)] }
         meets [stored u, runsB u (.accst 0 (x 2))]]) = true := by
  decide +kernel

theorem witness_MaskedUpdate :
    (let a : Acc := { shape := 3, el := [(9, 5)] }
     meets [decide (1 < accDim a.shape), unmasked ⟨2, 2⟩ 1 1, !unmasked ⟨2, 2⟩ 1 2, !unmasked ⟨2, 2⟩ 2 1
       , let u := a.update ⟨2, 2⟩ fun _ _ => 7
         meets [u.at 1 1 = 7, u.at 1 2 = 0, u.at 0 1 = 0]]) = true := by
  decide +kernel

/-- Core 0 with two set rings, of f32 tiles of 16 by 4 and of 4 by 16 (R244, R251). -/
def ringed (n : Nat) (s : State) : State := s.modHere fun k => { k with
  rings := [(0, { fmt := 2, cols := 4, rows := 16, cap := 2, base := 0, head := 0, cnt := n }), (1, { fmt := 2, cols := 16, rows := 4, cap := 2, base := 512, head := 0, cnt := n })] }

/-- A matrix operation on rings 0 and 1 that slot 0 has issued, and one that has started on the core. -/
def operation (started done : Bool) : Mop := { seq := 1, fmts := (.f32, .f32, .f32, false), acc := 0, qa := 0, qb := 1, zero := false, started := started, done := done }
def issued (o : Mop) (s : State) : State := s.modCur fun l => { l with mop := some o }
def theRun : MmaRun := { slot := 0, seq := 1, qa := 0, qb := 1, result := { shape := 1 }, doneAt := 32 }
def running (s : State) : State := (issued (operation true false) s).modHere fun k => { k with mma := some theRun }

theorem witness_Rings :
    (let s := demoWith [(0x4002, 0x40), (0x4004, 0x22), (0x4005, 4), (0x6000, 7)] [(2, 0x4000), (3, 0x5000), (4, 1), (5, 3), (6, 0x6000), (7, 64), (8, 0x6001)]
     let u := ringed 1 s
     let f := ringed 2 s
     let ring := fun (s : State) (p : Ring → Bool) => match ringOfCur s 0 with | some r => p r | none => false
     let read := fun (r : Nat) (p : List Byte → Bool) => meets [runsB s (.rcfg 0 (x r) 0), (rx s r).toNat % 16 = 0, got (readRange s (rx s r) 16 forLoad) fun q => p q.1]
     let gathers := fun (s : State) (z : Nat × Nat × Nat) => let u := gatheredSoFar 252 s
       meets [runsB u (.tldt 0 (x 6) (x 7)), u.cur.unack = 0, match gatherLoads (u.modCur fun l => { l with tile := some z }) (ringBytes z.1) (tileAddrs (rx s 6) (rx s 7) z) with
         | .ok _ => true | _ => false]
     let tile := fun (s : State) (r : Ring) => meets [s.cur.tile = none, gathers s r.form]
     let loaded := fun (z : Nat × Nat × Nat) (s : State) => let u := s.modCur fun l => { l with tile := some z }
       meets [u.cur.tile = some z, gathers u z]
     let plain := fun (s : State) => runsAll s [.rstat 1 0, .rpopHead 1 0 (x 4), .rpopTail 1 0 (x 4), .rpopHead 1 0 (x 5), .rpopTail 1 0 (x 5), .tldt 0 (x 6) (x 7)]
     let other := issuing 62 s
     meets [ringScr s 0 0 = 1, read 2 fun bs => (parseRing 1 bs).isSome, read 3 fun bs => (parseRing 1 bs).isNone, !ringBusy s.here 0, plain s, plain u, plain f
       , ringOfCur s 0 = none, ring u fun r => meets [r.cnt = 1, r.cap = 2, r.fmt ≠ 6, tile u r, (r.fmt, r.rows, r.cols) = (2, 16, 4)]
       , [s, u, f].all fun s => meets [loaded (2, 16, 4) s, loaded (2, 8, 8) s], s.cur.tile = none, s.cur.unack = 0, s.cur.part = []
       , let kept := fun (s : State) => s.modCur fun l => { l with part := toBytes 8 0x42200400000 ++ toBytes 8 0 }
         [kept u, kept (running u), running u].all fun v => meets [runsB v (.rcfg 0 (x 2) 0), v.cur.part = [] || v.cur.part.length = 16, (parseRing 1 (kept u).cur.part).isSome]
       , runsAll u [.rcfg 0 (x 8) 0, .tldt 0 (x 8) (x 7), .tldt 0 (x 6) (x 8)], (rx s 8).toNat % 16 ≠ 0, (rx s 8).toNat % 4 ≠ 0
       , let m := u.modHere fun k => { k with rings := [(0, { fmt := 6, cols := 32, rows := 16, cap := 2, base := 0, head := 0, cnt := 0 })] }
         meets [runsB m (.tldt 0 (x 6) (x 7)), ring m fun r => r.fmt = 6, m.cur.tile = none]
       , let v := u.modCur fun l => { l with unack := 1 }
         meets [runsB v (.rpopTail 1 0 (x 4)), v.cur.unack ≠ 0, !ringBusy v.here 0]
       , (rx s 4).toNat = 1, (rx s 5).toNat = 3, (rx s 6).toNat % 4 = 0, (rx s 7).toNat % 4 = 0
       , ringBusy (running u).here 0, runsB (running u) (.rstat 1 0), ring f fun r => meets [r.cnt = 2, r.cap = 2, tile f r]
       , ringScr ((s.modCtx 1 fun k => { k with launches := [] })) 0 0 = 0, ringScr other 0 62 = 1]) = true := by
  decide +kernel

theorem witness_MatrixOperations :
    (let s := demo []
     let u := ringed 1 (shaped 1 s)
     let both := fun (s : State) => runsAll s [.mma .f32 0 0 1 false, .mmaz .f32 0 0 1 true]
     let ended := (issued (operation true true) u).modHere fun k => { k with mma := some theRun }
     let waits := [issued (operation false false) u, running u]
     meets [([u, shaped 1 s, ringed 0 (shaped 1 s), ended, s, travelling u] ++ waits).all both, mmaFmtsOf u .f32 = (.f32, .f32, .f32, false), u.cur.mop = none
       , mmaFails u .f32 0 0 1 = none, mmaAtOnce u 0 0 1, mmaFails (ringed 0 (shaped 1 s)) .f32 0 0 1 = none, !mmaAtOnce (ringed 0 (shaped 1 s)) 0 0 1
       , mmaFails (travelling u) .f32 0 0 1 = none, !mmaAtOnce (travelling u) 0 0 1, ended.cur.mop = some (operation true true), ended.here.mma = some theRun
       , (operation true true).started, (operation true true).done, theRun.seq = (operation true true).seq, ended.cur.unack = 0
       , waits.map (·.cur.mop) = [some (operation false false), some (operation true false)]
       , (accOfCur u 0).shape = (formShape .f32).2.2.1, (accOfCur s 0).shape ≠ (formShape .f32).2.2.1
       , ringFails (shaped 1 s) 0 0 0 1 .f32 .f32 = some (2, 0), ringFails u 0 0 1 0 .f32 .f32 = some (3, 1)]) = true := by
  decide +kernel

theorem witness_MatrixElements : meets
    [ [Fmt.f32, .f64, .bf16, .f16, .code8, .mx, .i8].all fun f => [0, accDim (formShape f).2.2.1 - 1].all fun i => decide (i < accDim (formShape f).2.2.1)
    , unmasked ⟨1, 1⟩ 0 0, !unmasked ⟨1, 1⟩ 0 1] = true := by decide +kernel

/-! What meets the hypotheses of the statements about cells, taps, handles, the prefix tree and combining. -/

/-- A record of an input cell, and one of a formula cell that reads cell 0; both of 2 rows of 16 f32 elements (R261). -/
def records : List Host.Cell := [(0x4000, 2), (0x4002, 2), (0x4003, 0x80), (0x4080, 2), (0x4082, 2), (0x4083, 0x80), (0x4084, 8), (0x4088, 8), (0x4089, 0x80), (0x4097, 0x10)]

/-- A binding of 2 rows of 16 f32 elements: an input, or a formula of launch 1 over cell 0. -/
def cellBind (formula : Bool) : Binding :=
  if formula then { rows := 2, cols := 16, fmt := 2, precs := [⟨0, false⟩], launch := 1, entry := 8 } else { rows := 2, cols := 16, fmt := 2 }

/-- A buffer of a cell that holds one frame, pending or of stamp 3. -/
def store1 (f : Nat) (stamp : Nat) (c : Cond) (b : Binding) : Buf := { stamp := stamp, cond := c, bind := b, addr := cellBase + 4096 * f, runs := [(f, 1)] }

/-- Context 1 has committed generation 4: an input cell 0 and a formula cell 1 that reads it, each with a version of stamp 3. -/
def sheet (m : List Host.Cell) (r : List (Nat × Word)) : State := (demoWith m r).modCtx 1 fun k => { k with
  committed := 4
  launches := k.launches.map fun p => (p.1, { p.2 with segmask := 1 })
  cells := [(0, false), (1, true)].map fun p => (p.1, { bound := true, joined := true, bind := cellBind p.2, rank := p.1, buf0 := store1 (0x100 + p.1) 3 .present (cellBind p.2) }) }

/-- A wave that holds cell 1, and an open batch of the thread in issue. -/
def waved (s : State) : State := s.modCtx 1 fun k => { k with waves := [{ gen := 5, seq := 1, roots := [1], items := [(1, .dispatched)], inputs := [] }] }
def batched (s : State) : State := s.modCtx 1 fun k => { k with batches := [{ num := 1, owner := 7 }], nextBatch := 2 }

theorem witness_CellEdits :
    (let s := sheet records [(2, 0x4000), (3, 0x4080), (4, 0x1000000000000000), (5, 0x1000001000000000), (6, 0x5000)]
     let k := s.ctx s.myCtx
     let edits := [Instr.cbind 1 (x 2), .cbind 1 (x 3), .cedit 1 (x 3) (x 5), .cunb 1 (x 5), .cst 1 (x 6) (x 4) 0, .cst 1 (x 6) (x 4) (-1)]
     let rebound := bindingOf k 1 (some (k.cell 1).bind)
     let binds := fun (s : State) (b : Except Nat Binding) => got b fun b => (bindCell s 1 2 b).isSome
     let b := batched s
     let mine := (waved b).modCtx 1 fun k => k.modCell 0 fun c => { c with buf1 := store1 0x110 0 (.inBatch 1) (cellBind false) }
     let seen := s.modCtx 1 fun k => (k.modCell 0 fun c => { c with buf1 := store1 0x110 4 .present (cellBind false) })
     let own := (seen.modCtx 1 fun k => { k with views := [(7, 3)] }).modCur fun l => { l with view := some 3, st := { l.st with vw := true } }
     let data := List.replicate 128 (0 : Byte)
     meets [runsAll s edits, runsAll b edits, runsAll (waved s) edits, s.cur.item = none, drainedB s, exhausted k = false, wavesFull k = false
       , (ownBatch b).isSome, (ownBatch s).isNone, freeCellFrom k k.cells.length 0 = 2
       , got (readRange s (rx s 2) 128 forLoad) fun q => binds q.2 (bindingOf k 2 none q.1)
       , got (readRange s (rx s 3) 128 forLoad) fun q => meets [got (rebound q.1) fun _ => true, binds q.2 (bindingOf k 2 none q.1)]
       , cellOf k (rx s 4) = some 0, cellOf k (rx s 5) = some 1, hasDependants k 1 = false, busyCell ((waved s).ctx 1) 1, !busyCell k 1
       , (k.cell 0).bind.input, got (readRange s (rx s 6) 128 forLoad) fun _ => true, !(k.cell 0).buf0.cond.pending, canWrite k.views (k.cell 0)
       , (storeCell 1 0 (k.cell 0).older data 0 s).isSome, !ownViewBlocks s (k.cell 0), !busyCell k 0
       , ownViewBlocks own ((own.ctx 1).cell 0), runsB own (.cst 1 (x 6) (x 4) 0), (ownBatch own).isNone
       , ((ownBatch mine).bind fun b => ((mine.ctx 1).cell 0).batchBuf b.num) = some true, runsB mine (.cst 1 (x 6) (x 4) 0)
       , (storeCell 1 0 true data 1 mine).isSome]) = true := by
  decide +kernel

/-- The state with a view of generation 4, or a work item of cell 1 in generation 5. -/
def viewing (s : State) : State := s.modCur fun l => { l with view := some 4, st := { l.st with vw := true } }
def working (rows : List Nat) (s : State) : State :=
  ((waved s).modCtx 1 fun k => k.modCell 1 fun c => { c with buf1 := store1 0x111 5 (.inWave 5) (cellBind true) }).modCur fun l => { l with item := some ⟨1, 5, false, rows, false⟩ }

theorem witness_BatchesAndViews :
    (let s := sheet [] [(2, 1), (4, 0x1000001000000000), (5, 0x2000001000000000)]
     let b := batched s
     let k := s.ctx 1
     meets [runsAll s [.cbatch 1, .cseal 1 (x 0), .cviewNow 1, .cviewFence 1, .cvend, .cstat 1 (x 4) 0, .cstat 1 (x 4) 3, .cstat 1 (x 4) 127, .cstat 1 (x 5) 0]
       , runsAll b [.cbatch 1, .cseal 1 (x 0), .cseal 1 (x 2)], runsAll (viewing s) [.cviewNow 1, .cviewFence 1, .cvend], (viewing s).cur.st.vw
       , s.cur.item = none, (ownBatch s).isNone, (ownBatch b).isSome, ((b.ctx 1).batches.find? fun b => wd b.num == rx s 2).isSome, drainedB s
       , decide (k.batches.length < 256), decide (k.nextBatch < 2 ^ 24), !exhausted k, !wavesFull k, !s.cur.st.vw, k.waves = []
       , cellOf k (rx s 4) = some 1, cellOf k (rx s 5) = none]) = true := by
  decide +kernel

theorem witness_CellCopies :
    (let s := sheet [] [(4, 0x1000000000000000), (5, 0x1000001000000000), (6, 0x6000), (7, 0x10001)]
     let named := fun (s : State) (n w h : Nat) => let k := s.ctx s.myCtx
       meets [cellNamed k (rx s h) = some n, (windowRows (k.cell n).bind (rx s w)).isSome]
     let chosen := fun (s : State) (n g : Nat) => let c := (s.ctx s.myCtx).cell n
       match c.choose g with | some b => !badBuf s (c.buf b) | none => false
     let copied := fun (s : State) => let c := (s.ctx 1).cell 0
       match storeRange s (rx s 6) (bufBytes s (c.buf false) (1 * c.bind.rowBytes) (1 * c.bind.rowBytes)) with | .ok _ => true | _ => false
     let cfin := fun (s : State) => meets [runsB s .cfin, transfersOf s 0 7 = 0, drainedB s, match s.cur.item with | some i => !i.finished && !i.repair | none => false]
     let left := fun (s : State) => match s.cur.item with | some i => unwritten ((s.ctx 1).cell i.cell).bind i | none => []
     let w := working [0, 1] s
     let v := working [] s
     let first := v.modCtx 1 fun k => k.modCell 1 fun c => { c with buf0 := {} }
     meets [named s 0 7 4, ((s.ctx 1).cell 0).unboundAt = none, chosen s 0 4, chosen (pinView s 4) 0 4, s.cur.item = none, copied (pinView s 4), runsB s (.cld 7 (x 6) (x 4) 0)
       , named (viewing s) 0 7 4, runsB (viewing s) (.cld 7 (x 6) (x 4) 0), chosen (viewing s) 0 4, copied (viewing s)
       , named w 1 7 5, runsB w (.cwr 7 (x 6) (x 5) 0), got (readRange w (rx w 6) 64 forLoad) fun _ => true
       , match w.cur.item with | some i => (itemBuf ((w.ctx 1).cell 1) i).isSome | none => false
       , runsB s .cfin, cfin w, left w = [], cfin v, left v = [0, 1], chosen v 1 4
       , cfin first, left first = [0, 1], ((first.ctx 1).cell 1).choose 4 = none]) = true := by
  decide +kernel

theorem witness_VersionChoice :
    (let c : Cell := { buf0 := { stamp := 3, cond := .present }, buf1 := { stamp := 5, cond := .dropped } }
     meets [c.choose 4 = some false, c.choose 5 = some true, c.choose 2 = none]) = true := by decide

theorem witness_StaleSet : downstream [(0, 1), (1, 2), (3, 4)] [0] = [0, 1, 2] := by decide

/-- A descriptor, a map of two rows of sequence 0, a probe record, and what it names (R310, R311). -/
def tapping : List Host.Cell := [(0x4107, 0x40), (0x4108, 1), (0x4110, 0x80), (0x4111, 0x41), (0x4201, 0x43), (0x4208, 0x10), (0x420A, 2)]

/-- A tap is armed on cell 1. -/
def tapped (held : List Nat) (s : State) : State := s.modCtx 1 fun k => armTap k 1 { arm := 0, probe := 0, dir := false, dim := 16, thr := 0, bias := 0, weights := []
                                                                                     gains := [], eps := 0, ord := false, nrm := false, rpr := 1, map := [0, 0], steer := [], heldSeqs := held }

theorem witness_Taps :
    (let s := (sheet tapping [(2, 0x4100), (4, 0x1000001000000000), (5, 0x1000005000000000), (6, 0), (7, 9)]).modCtx 1 fun k => { k with probes := 0x4200 }
     let k := s.ctx s.myCtx
     let taps := [Instr.tapoff 1 (x 4), .taprel 1 (x 6) (x 4), .tapkill 1 (x 6) (x 4), .taprel 1 (x 7) (x 4), .tapkill 1 (x 7) (x 4), .taprd 1 (x 0) (x 4) 0
       , .taprd 1 (x 6) (x 4) 1, .taprd 1 (x 0) (x 5) 0]
     let b := (k.cell 1).bind
     meets [runsAll s (.taparm 1 (x 2) (x 4) :: taps), cellOf k (rx s 4) = some 1, cellOf k (rx s 5) = none, drainedB s, armedTap (k.cell 1) = none
       , got (readRange s (rx s 2) 64 forLoad) fun q => match parseTap q.1 with
         | some d => meets [tapCellOk b d.rpr, got (readMap q.2 d b) fun m => meets [m.1.all (mapOk d.nsv), got (readProbe m.2 d b) fun p => match p.1 with
             | some r => meets [r.1 = 0, bits r.2.2.1 15 0 = 16, got (readRanges p.2 [(r.2.1, 32), (d.gain, 0)]) fun rs => meets [rs.1.length = 2, decide (1 ≤ freeFrames rs.2 0 k.home)]]
             | none => false]]
         | none => false
       , let u := tapped [] s
         meets [runsAll u taps, match armedTap ((u.ctx 1).cell 1) with | some t => t.heldSeqs = [] && t.killed = [] | none => false]
       , let u := tapped [0] s
         meets [runsAll u taps, runsAll (waved u) taps, match armedTap ((u.ctx 1).cell 1) with | some t => t.heldSeqs = [0] | none => false
           , busyCell ((waved u).ctx 1) 1, !busyCell (u.ctx 1) 1, !exhausted (u.ctx 1), !wavesFull (u.ctx 1)]]) = true := by
  decide +kernel

/-- Objects of context 1: live, of the prefix cache, destroyed, and with no strong handle. -/
def objects (s : State) : State := s.modCtx 1 fun k => { k with
  quota := 10
  objs := [(1, { alloc := true, strong := 1, size := 4096, addr := windowBase, runs := [(16, 1)] })
    , (2, { alloc := true, kind := 2, strong := 1, size := 4096, addr := windowBase + 4096, runs := [(17, 1)] }), (3, { alloc := true, st := .destroyed, weak := 1 })
    , (4, { alloc := true, st := .weakOnly, weak := 1, size := 4096, addr := windowBase + 8192, runs := [(18, 1)] })] }

theorem witness_Handles :
    (let s := objects (sheet [] [(2, 0x0000001000000000), (3, 0x8000001000000000), (4, 0x1000001000000000), (5, 0x8000003000000000), (6, 0x0000005000000000), (7, 0x0000004000000000)
       , (8, 0x2000002000000000), (9, 15)])
     let k := s.ctx s.myCtx
     let o := fun (r : Nat) => k.obj (hObj (rx s r))
     let ok := fun (r : Nat) => handleFails k [0, 2] (rx s r) = none
     let counts := fun (r : Nat) => if hWk (rx s r) then (o r).weak else (o r).strong
     let all := fun (r : Nat) => runsAll s [.hdup 1 (x r), .hup 1 (x r), .hweak 1 (x r), .hdrop (x r), .hldw 1 10 (x r) 0, .hldw 1 10 (x r) 511, .hpri (x r) (x 9), .hinfo 1 (x r) 0
       , .hinfo 1 (x r) 2]
     meets [[2, 3, 4, 5, 6, 7, 8].all all, [2, 3, 5, 7, 8].all fun r => decide (ok r), handleFails k [0, 1, 2] (rx s 4) = none, hKind (rx s 4) = 1
       , handleFails k [0, 2] (rx s 6) = some 0, handleFails k [0, 2] (rx s 4) = some 3, !hWk (rx s 2), hWk (rx s 3), (o 2).st ≠ .destroyed, (o 5).st = .destroyed
       , drainedB s, counts 2 ≠ 0, counts 5 ≠ 0, counts 7 = 0, counts 3 = 0, !s.isPoison (memKey 0 (16 * 4096)), !deadPage s 1 (windowBase + 8 * 511)
       , let u := setLeafBit (done (.hnew 1 (x 9) (x 10)) s) 1 (windowBase + 3 * 4096) 0 12 8 true
         let h := rx u 1
         meets [hObj h = 5, (u.ctx 1 |>.obj 5).addr = windowBase + 3 * 4096, deadPage u 1 (windowBase + 3 * 4096), handleFails (u.ctx 1) [0, 2] h = none, runsB u (.hldw 1 10 (x 1) 0)]
       , !heldBack s windowBase 8 forLoad, let u := { s with flights := [{ access (.store [1]) .translated false with addr := windowBase }] }
         meets [heldBack u windowBase 8 forLoad, runsB u (.hldw 1 10 (x 2) 0), decide (handleFails (u.ctx 1) [0, 2] (rx u 2) = none)]
       , decide ((o 2).strong < 2 ^ 24 - 1), decide ((o 2).weak < 2 ^ 24 - 1)
       , let u := s.modCtx 1 fun k => k.modObj 1 fun o => { o with strong := 2 ^ 24 - 1 }
         meets [handleFails (u.ctx 1) [0, 2] (rx u 2) = none, ((u.ctx 1).obj (hObj (rx u 2))).strong = 2 ^ 24 - 1, runsAll u [.hup 1 (x 2), .hdup 1 (x 2)]]]) = true := by
  decide +kernel

theorem witness_NewObjects :
    (let s := objects (sheet [] [(2, 4096), (3, 0x3F), (4, 0), (5, 0x1F)])
     let k := s.ctx 1
     let full := s.modCtx 1 fun k => k.modObj 1 fun o => { o with size := Config.dieBytes }
     let both := fun (s : State) (a b : Nat) => runsAll s [.hnew 1 (x a) (x b), .hnewKv 1 (x a) (x b)]
     meets [both s 2 4, newStatus k (rx s 2) (rx s 4) = 0, decide (1 ≤ freeFrames s 0 0), both s 2 5, newStatus k (rx s 2) (rx s 5) = 0, decide (1 ≤ freeFrames s 1 0)
       , both s 2 3, newStatus k (rx s 2) (rx s 3) = 4, both s 4 4, newStatus k (rx s 4) (rx s 4) = 1
       , let gone := full.modCur fun l => { l with part := [0] }
         let swept := full.modManage fun m => { m with running := [⟨0, 0, 0, none, some (.obj 1 4)⟩] }
         let back := full.modCtx 1 fun k => { k with unmaps := [⟨cellBase, 8192, 0, 0, [(0x300, 2)], true⟩] }
         meets [[full, gone, swept, back].all fun u => meets [both u 2 4, newStatus (u.ctx 1) (rx u 2) (rx u 4) = 0, decide (freeFrames u 0 0 < 1)]
           , [full, gone].all fun u => !sweeping u 0 0 && !unmapping u 0 0, full.cur.part = [], gone.cur.part ≠ [], sweeping swept 0 0, unmapping back 0 0]
       , let bad := s.setNum (0x1000 + 8 * walkIndex 4 windowBase) 8 0x3F
         meets [both bad 2 4, newStatus (bad.ctx 1) (rx bad 2) (rx bad 4) = 0, decide (1 ≤ freeFrames bad 0 0), [0, 2].all fun kind =>
           (mapObj (bad.modCtx 1 fun k => k.setObj 5 { alloc := true }) 1
             { alloc := true, kind := kind, strong := 1, size := 4096, addr := freeRange bad 1 4096, tier := 0, die := 0, runs := [(0x200, 1)] }).isNone]
       , [0, 2].all fun kind => [(0, 0), (1, 0)].all fun p =>
           let o : Obj := { alloc := true, kind := kind, strong := 1, size := 4096, addr := freeRange s 1 4096, tier := p.1, die := p.2, runs := [(0x200, 1)] }
           (mapObj (s.modCtx 1 fun k => k.setObj 5 o) 1 o).isSome]) = true := by
  decide +kernel

/-- Requests for the 16 tokens of zero at 0x4400 and the array at 0x4500, of one block; for a deletion; for one of the root; and a bad one. -/
def requests : List Host.Cell := [(0x4301, 0x44), (0x4308, 16), (0x4311, 0x45), (0x4318, 1), (0x4321, 0x44), (0x4328, 16), (0x436B, 1), (0x4504, 0x20), (0x4507, 0x20)]

theorem witness_PrefixTree :
    (let s := objects (sheet requests [(2, 0x4300), (3, 0x4320), (4, 0x4340), (5, 0x4360)])
     let path := [List.replicate 16 (0 : Lane)]
     let u := (s.modCtx 1 fun k => { k with nodes := [⟨path, 2, 5⟩] }).modCtx 1 fun k => k.modObj 2 fun o => { o with weak := 1 }
     let find := fun (s : State) => got (readPfx s false false (rx s 2)) fun q => match q.1 with
       | some r => meets [r.2 == path, let f := findBlocks (prune q.2 1 path) 1 path (min (r.1.ntok / 16) r.1.nblk) 0
           let image := f.1.flatMap fun h => toBytes 8 h.toNat
           meets [got (storeRange q.2 (wd r.1.arr) image) fun _ => true, got (storeRange f.2 (wd r.1.arr) image) fun _ => true]]
       | none => false
     let bad := fun (a b : Bool) => got (readPfx s a b (rx s 5)) (·.1.isNone)
     let del := fun (s : State) (r : Nat) (p : List (List Lane) → Bool) => got (readPfx s true true (rx s r)) fun q => match q.1 with | some q => p q.2 | none => false
     meets [runsAll s ([2, 3, 4, 5].flatMap fun r => [.pfxfind 1 (x r), .pfxins 1 (x r), .pfxdel 1 (x r)]), drainedB s, find s, find u, runsAll u [.pfxfind 1 (x 2), .pfxdel 1 (x 3)]
       , bad false false, bad true false, del s 4 (· == []), del s 3 fun p => (nodeAt (s.ctx 1) p).isNone, del u 3 fun p => (nodeAt (u.ctx 1) p).isSome
       , got (readPfx s true false (rx s 2)) fun u => match u.1 with
         | some q => got (readRange u.2 (wd q.1.arr) 8 forLoad) fun bs => got (insertBlocks bs.2 1 q.2 [wd (ofBytes bs.1)] 0 0) fun r => r.1 == 1
         | none => false
       , decide ((s.ctx 1).nodes.length + 1 ≤ (s.ctx 1).quota)]) = true := by
  decide +kernel

theorem witness_Combining :
    (let s := demo [(2, 0x0001000200000005), (3, 0x0000000200000005), (4, 0), (5, 5), (6, 0x10000), (7, 0x3F80000000000009)]
     let e : Contribution := { id := 1, ctx := 1, owner := 0, tag := 5, max := true, ty := .i32, cnt := 2, n := 2, value := 9, mixed := false, from_ := [] }
     let u := s.modHere fun k => { k with table := [e] }
     let sends := fun (r : Nat) => runsAll s ([VTy.f32, .i32, .n32].map (fun t => .cmbmax t 1 (x r) (x 7)) ++ [Fmt.f32, .i64, .n64].map fun t => .cmbsum t 1 (x r) (x 7))
     let join := fun (t : Fmt) => (joinTable s.here { e with max := false, ty := t, n := 1 }).isSome
     meets [[2, 3, 4].all sends, !badReduction (rx s 2), !badReduction (rx s 3), badReduction (rx s 4), drainedB s, wbits (rx s 2) 60 48 = 1, wbits (rx s 3) 60 48 = 0
       , !pathBusy s 0 1, let u := onPath s
         meets [pathBusy u 0 1, drainedB u, runsB u (.cmbmax .f32 1 (x 2) (x 7)), runsB u (.cmbsum .f32 1 (x 2) (x 7))]
       , !ownerRefuses s 0 1, s.here.packets = [], s.iss.core = 0, join .f32, join .i64, join .n64, runsB u (.cmbrecv 1 8 (x 5)), u.here.table.find? (fun q => q.tag == 5) = some e
       , runsAll s [.cmbrecv 1 8 (x 5), .cmbrecv 1 8 (x 6)], s.here.table.find? (fun q => q.tag == 5) = none, !s.cur.expired, decide (2 ^ 16 ≤ (rx s 6).toNat)]) = true := by
  decide +kernel

theorem witness_MergesCommute : meets
    [ decide (wbits 0x3F80000000000009 31 0 ≠ wbits 0x3F80000000000008 31 0), decide (maxOrder .f32 0x3F800000 < maxOrder .f32 0x40000000)
    , decide (maxOrder .i32 0xFFFFFFFF < maxOrder .i32 0)] = true := by decide +kernel

/-! What meets the hypotheses of the statements about events of cores, waits and accesses. -/

/-- A message to a slot. -/
def note (t : Nat) (kind : MsgKind) (counted : Bool) : Msg := { slot := t, words := [0x100, 2], ctx := 1, srcCore := 1, srcSlot := 0, srcUid := 0, counted := counted, kind := kind }

theorem witness_KernelEvents :
    (let s := sheet [] []
     let seg := fun (g : Seg) => s.setSeg 0 3 g
     let f : Seg := { st := .fetching, ctx := 1, priv := true, image := 0x5000 }
     let lands := match fetchEnd (seg f) 0 f with | .image _ => true | _ => false
     let wild := { f with image := 0x200000000000000 }
     let fails := match fetchEnd (seg wild) 0 wild with | .fails _ => true | _ => false
     let lost := (seg { f with st := .failed 7 }).modSlot 0 1 fun l => { l with phase := .starting, ctx := 1, launch := 1, pc := 0x3000 }
     let starting := fun (pc : Word) => s.modSlot 0 1 fun l => { l with phase := .starting, ctx := 1, launch := 1, pc := pc }
     let monitored := fun (u : State) => u.modCtx 1 fun k => { k with monitorRec := 64, monitor := (0, 1) }
     let station := fun (m : Msg) => s.modHere fun k => { k with station := [m] }
     let work : MsgKind := .item 1 5 false
     let queued := fun (m : Msg) => s.modHere fun k => { k with queue := [note 3 .plain false, m] }
     let closed := (queued (note 62 work false)).modCtx 1 fun k => { k with launches := [] }
     let first := fun (s : State) => s.here.queue.find? startsHandler
     let h := (s.modSlot 0 62 fun l => { l with phase := .ready, bundles := 1024, ctx := 1 }).modHere fun k => { k with lastSlot := 0 }
     meets [(seg f).seg 0 3 = f, lands, fails, ((starting 0x40).slot 0 1).phase = .starting, ((starting 0x40).seg 0 0).st = .landed
       , (lost.slot 0 1).phase = .starting, (lost.seg 0 ((lost.slot 0 1).pc.toNat / 4096)).st = .failed 7, ((starting 0).ctx 1).monitorRec = 0, ((monitored (starting 0x40)).ctx 1).monitor = (0, 1)
       , [(0, false), (0, true), (62, false)].all fun p => meets [(station (note p.1 .plain p.2)).here.station = [note p.1 .plain p.2], !refuses s 0 (note p.1 .plain p.2)]
       , refuses s 0 (note 5 .plain true), !refuses s 0 (note 62 work false), refuses { s with ctxs := [] } 0 (note 62 work false), (itemOf work).isSome
       , decide (queueUsed s.here < 32), meets [!behindReports s 0 (note 0 .plain false), !pathBusy s 0 1
       , let back := { s with flights := [{ access (.store [1]) .issued true with core := 0 }], env := { s.env with fresh := 2 } }
         meets [pathBusy back 0 1, (note 0 .plain true).srcCore = 1]
       , let kept := (monitored s).modCtx 1 fun k => { k with reports := [note 1 .plain false] }
         meets [behindReports kept 0 (note 1 .plain false), (kept.ctx 1).monitorRec ≠ 0, (kept.ctx 1).monitor = (0, 1), (itemOf (note 1 .plain false).kind).isNone]]
       , first (queued (note 62 .plain false)) = some (note 62 .plain false), first (queued (note 62 work false)) = some (note 62 work false), (s.slot 0 62).phase = .free
       , !s.here.absent, (s.modHere fun k => { k with absent := true }).here.absent
       , match look (s.ctx 1).launches (itemBind ((s.ctx 1).cell 1) ⟨1, 5, false, [], false⟩).launch with | some r => r.st.live | none => false
       , first closed = some (note 62 work false), (look (closed.ctx 1).launches 1).isNone
       , (h.slot 0 62).phase = .ready, !(h.slot 0 62).st.te, decide (h.here.msglim ≤ (h.slot 0 62).bundles)
       , h.here.msglim ≠ 0, mayIssue h 0 62, itsTurn h 0 62, !atBreakpoint h 0 62, !(h.slot 0 62).oneStep]) = true := by
  decide +kernel

theorem witness_CoreEvents :
    (let s := demoWith [(0x6000, 7)] []
     let quiet := s.modSlot 0 0 fun l => { l with phase := .stopped }
     let gate := fun (s : State) => meets [!s.here.gated, s.here.slots.all fun p => !keepsClock s.here p.1, s.here.station = [], s.here.mma.isNone
       , s.here.newTable = [], look s.here.mbox 3 = none, s.here.chans = [], s.here.segs.all fun g => g.2.st ≠ .fetching, s.flights = [], s.waiters = []]
     let asleep := s.modSlot 0 0 fun l => { l with phase := .waiting, wait := some (.retry .unbounded) }
     let plain := fun (l : Slot) => meets [l.phase = .ready, l.held = none, l.wait = none, l.reply = none, l.leaf = none]
     let busy := s.modSlot 0 0 fun l => { l with unack := 1 }
     let m : Stream := { reg := 9, seq := 1, desc := 0x4000, base := 0x6000, second := 4, gth := false, wide := false, size := 4, count := 2, nxt := 1, st := .running }
     let streaming := fun (m : Stream) => (s.modCur fun l => { l with streams := [m] }).modHere fun k => { k with empty := [9] }
     let next := fun (m : Stream) => let u := streaming m
       meets [u.cur.stream 9 = some m, m.left ≠ 0, u.emptyAt 0 (u.base + 9), ctxRuns u 1]
     let wild := { m with base := 0x6002 }
     let o := operation false false
     let waiting := (issued o (ringed 1 (shaped 1 s))).modSlot 0 0 fun l => { l with phase := .waiting, wait := some (.retry (.tile 0 1)) }
     let bad := waiting.modHere fun k => { k with rings := [] }
     let started := fun (w : Wait) (n : Nat) => (running waiting).modSlot 0 0 (fun l => { l with wait := some w }) |>.modHere fun k => { k with cyc := n }
     let starts := fun (s : State) => meets [s.cur.mop = some o, !o.started, s.cur.phase = .waiting, s.here.mma.isNone, !olderMma s 0 0 o.seq]
     let retires := fun (w : Wait) (n : Nat) => let u := started w n
       meets [u.here.mma = some theRun, mmaOf u.here theRun.slot, u.cur.wait = some w]
     let old := ((viewing s).setNum (codeKey 0 0x40) 8 0x0E14307274000000).modCur fun l => { l with viewlim := 4, viewCount := 4 }
     meets [meets [gate quiet, gate asleep], (s.modHere fun k => { k with newTable := [(1, (0, .preset .int8))] }).here.newTable = [(1, (0, .preset .int8))], !mmaReads s.here 1
       , plain busy.cur, busy.cur.unack ≠ 0, plain s.cur, s.cur.unack = 0, s.cur.failed = none, !mmaOf s.here 0, meets [mmaOf (running s).here 0, plain (running s).cur, !inFlight s 0 0]
       , (s.modCur fun l => { l with woken := true }).cur.woken
       , next m, next wild, match nextElement (streaming m) 0 0 m with | .bytes bs _ => bs == [0, 0, 0, 0] | _ => false
       , match nextElement (streaming wild) 0 0 wild with | .fatal _ _ _ => true | _ => false
       , starts waiting, ringFails waiting 0 0 0 1 .f32 .f32 = none, tilesReady waiting 0 0 0 1, starts bad, ringFails bad 0 0 0 1 .f32 .f32 = some (2, 0), (ringFor bad 0 0 0).isNone
       , (tilesPoison waiting 0 0 0 1 ⟨-1, -1⟩).isNone, let hurt := waiting.setPoison (tileKey 0 { fmt := 2, cols := 4, rows := 16, cap := 2, base := 0, head := 0, cnt := 1 } 0) true
         meets [starts hurt, tilesReady hurt 0 0 0 1, ringFails hurt 0 0 0 1 .f32 .f32 = none, (tilesPoison hurt 0 0 0 1 ⟨-1, -1⟩).isSome]
       , (running waiting).here.mma.isSome, let empty := issued o (ringed 0 (shaped 1 s))
         meets [empty.here.mma.isNone, !tilesReady empty 0 0 0 1, (ringFor empty 0 0 0).isSome, (ringFor empty 0 0 1).isSome]
       , let kept := (issued (operation true true) s).modHere fun k => { k with mma := some theRun }
         let gone := (s.modHere fun k => { k with mma := some theRun, cyc := 32 })
         let fenced := kept.modSlot 0 0 fun l => { l with phase := .waiting, wait := some (.reply 0) }
         meets [mmaKept kept.here, kept.here.mma = some theRun, kept.cur.wait ≠ some (.reply 0), mmaKept fenced.here, fenced.cur.wait = some (.reply 0), fenced.cur.unack = 0, gone.here.mma = some theRun, !mmaKept gone.here, !mmaOf gone.here theRun.slot, decide (theRun.doneAt ≤ gone.here.cyc)]
       , meets [retires (.reply 0) 31, decide (31 < theRun.doneAt), retires (.reply 0) 32, decide (theRun.doneAt ≤ 32), retires (.reply 5) 40
         , old.cur.view = some 4, viewStops old 0 0, mayIssue old 0 0, itsTurn old 0 0, !atBreakpoint old 0 0, !old.cur.oneStep, !viewStops s 0 0]]) = true := by
  decide +kernel

/-- A thread that waits with an instruction's bundle held, and its limit of 8 cycles reached. -/
def waitingWith (i : Instr) (w : Wait) : State :=
  (((demo []).modHere fun k => { k with cyc := 9, empty := [5, 7], claim := some (9, 9) }).modSlot 0 0 fun l =>
    { l with phase := .waiting, wait := some w, waitFrom := 1, waitlim := 8, held := some ⟨(encode i).getD 0, none⟩ })
def waitingFor (w : Wait) : State := waitingWith .nop w

/-- Two limits of one kind, and a limit of a wait for a ring. -/
def alike : Limit → Limit → Bool
  | .sync _, .sync _ => true
  | .trap _ a _, .trap _ b _ => a == b
  | .tile _ _, .tile _ _ => true
  | .returns a, .returns b => a == b
  | _, _ => false
def ofRing : Limit → Bool
  | .tile _ _ => true
  | .trap c 1 _ => c == cRING
  | _ => false

/-- The thread's limit is reached, and what it waits for then. -/
def reachedWith (l : Limit) (s : State) (p : Limit → Bool) : Bool := limitReached s 0 0 && s.cur.limit == l && p ((lastTry 0 0 s).slot 0 0).limit

theorem witness_WaitLimits : meets
    [ let still := fun (f : State → State) (i : Instr) (l : Limit) => reachedWith l (f (waitingWith i (.retry l))) (alike l)
      meets [still id (.add 1 ⟨5, true⟩ ⟨7, true⟩) (.sync [5, 7]), still id (.csrw 1 (.mb 0) 4) (.trap cWAITLIMIT 2 0)
        , still (fun s => issued (operation false false) (ringed 0 (shaped 1 s))) (.mma .f32 0 0 1 false) (.tile 0 1)
        , still (fun s => (ringed 2 s).modCur fun l => { l with tile := some (2, 16, 4), part := List.replicate 256 0 }) (.tldt 0 (x 6) (x 8)) (.trap cRING 1 0)
        , still id (.cntwait .launch 1 (x 0)) (.returns 0), still id (.cmbrecv 1 8 (x 6)) (.returns 2)]
    , [Wait.home 128 (.trap cWAITLIMIT 0 0x4000), .home 128 (.arrived 3)].all fun w => meets [limitReached (waitingFor w) 0 0, ((waitingFor w).slot 0 0).wait = some w, ((waitingFor w).slot 0 0).limit = w.limit]
    , let beside := (issued (operation false false) (ringed 0 (shaped 1 (waitingFor (.retry .unbounded)))))
      meets [limitReached beside 0 0, beside.cur.wait ≠ none, beside.cur.limit = .tile 0 1]
    , let goes := fun (s : State) (l : Limit) => reachedWith l s fun m => !ofRing m
      meets [goes (issued (operation false false) (ringed 1 (shaped 1 (waitingWith (.mma .f32 0 0 1 false) (.retry (.tile 0 1)))))) (.tile 0 1)
        , goes ((ringed 1 (waitingWith (.tldt 0 (x 6) (x 8)) (.retry (.trap cRING 1 0)))).modCur fun l => { l with tile := some (2, 16, 4), part := List.replicate 256 0 }) (.trap cRING 1 0)]
    , let s := waitingWith (.add 1 ⟨5, true⟩ ⟨7, true⟩) (.retry (.sync [5, 7]))
      let full := s.modHere fun k => { k with empty := [] }
      meets [s.emptyAt 0 5, s.emptyAt 0 7, (winOf 0 (s.slot 0 0)).1 = 0, reachedWith (.sync [5, 7]) full fun m => !alike (.sync []) m]] = true := by
  decide +kernel

/-- A request at the home of line 128. -/
def parked (p : Bool) : Waiter :=
  { core := 0, slot := 0, uid := 7, ctx := 1, priv := true, va := 0x4000, key := 0x4000, home := 0, dead := false, op := .ldf, parked := p, retryAt := some 5 }

theorem witness_WithdrawalsAndRetries :
    (let s := { waitingFor (.home 128 (.trap cWAITLIMIT 0 0x4000)) with waiters := [parked true], notes := [⟨0, 128, 0, true⟩] }
     let early := s.modHere fun k => { k with cyc := 8 }
     let quiet := s.modSlot 0 0 fun l => { l with waitlim := 0 }
     let leaving := fun (w : Wait) (f : Slot → Slot) => (waitingFor w).modSlot 0 0 f
     meets [(quiet.slot 0 0).wait = some (.home 128 (.trap cWAITLIMIT 0 0x4000)), !(quiet.slot 0 0).stopping, !(quiet.slot 0 0).cancelled, !limitReached quiet 0 0
       , [fun (l : Slot) => { l with stopping := true }, fun l => { l with cancelled := true }].all fun f =>
           [Wait.home 128 (.trap cWAITLIMIT 0 0x4000), .home 128 (.arrived 3)].all fun w =>
             meets [((leaving w f).slot 0 0).wait = some w, ((leaving w f).slot 0 0).stopping || ((leaving w f).slot 0 0).cancelled]
       , !(parked true).held s, s.waiters.all fun w => !w.held s
       , !limitReached early 0 0, !limitReached (demo []) 0 0, (s.slot 0 0).wait = some (.home 128 (.trap cWAITLIMIT 0 0x4000))
       , s.notes.any fun n => n.sent && n.line == 128 && n.core == 0, s.waiters.find? (fun w => w.parked && w.core == 0 && w.slot == 0) = some (parked true)
       , decide (5 ≤ s.here.cyc)]) = true := by
  decide +kernel

theorem witness_AccessesInFlight :
    (let at_ : Flight → State := fun f => { demo [] with flights := [f] }
     let put : AccOp := .store [1, 2, 3, 4, 5, 6, 7, 8]
     let add : AccOp := .atomic 0 .i64 1 0
     let far := fun (s : State) => s.setDir 1 128 { regs := [(1, 1)] }
     let issued := fun (op : AccOp) => let f := access op .issued false
       meets [(at_ f).flight 1 = some f, !f.isFabric, !outOfTurn (at_ f) f, !flightCut (at_ f) f, got (locateFlight (at_ f) f) fun q => q.2.isNone, got (translate (at_ f) 1 true 0x4000 f.rights) fun _ => true]
     let home := fun (op : AccOp) => let f := access op .translated false
       meets [(at_ f).flight 1 = some f, served (at_ f) f, (poisonedAt (at_ f) f.place f.addr 8).isNone, !elsewhere (at_ f) f, served (far (at_ f)) f
         , elsewhere (far (at_ f)) f, !f.storeBefore (at_ f), !notShared (at_ f) 1 128 f.place, ((at_ f).dirOf 1 128).regs = [], let own := (at_ f).setDir 1 128 { regs := [(0, 1)] }
           meets [!elsewhere own f, served own f, notShared own 1 128 f.place]]
     let hurt := [AccOp.load, add].all fun op => let f := access op .translated false
       let s := (at_ f).setPoison 0x4000 true
       meets [(poisonedAt s f.place f.addr 8).isSome, served s f, !f.isStore, !f.storeBefore s]
     let early := fun (wait : Option Wait) (f : Flight) => (at_ f).modCur fun l => { l with phase := if wait.isSome then .waiting else .ready, wait := wait }
     let accepts := fun (f : Flight) => meets [awaits (early (some (.reply 1)) f) 0 0 7 1, !awaits (early none f) 0 0 7 1]
     let joins := { access .load .issued false with id := 2, joins := some 1 }
     let fills := { access .load (.filling [1]) false with fill := List.replicate 128 1 }
     let owned := let f := access put .translated false
       let s := touchStore (at_ f) 0 1 0x4000 8 f.place
       meets [s.flight 1 = some f, !unregistered s f, !f.storeBefore s, unregistered (at_ f) f, served (at_ f) f, accepts f, accepts { f with stage := .invalidating [0] [] }]
     let remote := fun (op : AccOp) => let f := access op .issued true
       let t := { at_ f with ctxs := [] }
       let pair := { f with also := some (0x8000000000100020, [7]) }
       meets [(at_ f).flight 1 = some f, f.isFabric, !overtakes (at_ f) f, targetTakes (at_ f) 1 f.addr 8, t.flight 1 = some f, !targetTakes t 1 f.addr 8
         , (poisonedAt (at_ f) { key := spadKey (fabCore f.addr) (wbits f.addr 19 0), home := 512 + fabCore f.addr, glob := false } f.addr 8).isNone, f.also.isNone
         , refusedPart t f = some f.addr, (at_ pair).flight 1 = some pair, targetTakes (at_ pair) 1 0x8000000000100020 1, !overtakes (at_ pair) pair]
     let two := { access put .issued false with also := some (0x4020, [7]) }
     let scale := { access put (.invalidating [] []) false with also := some (0x4080, [7]), second := some (0x4080, 0, 0x3F, 30) }
     let read := ({ demo [] with flights := [scale, { access .load .issued false with id := 2, core := 1, addr := 0x4080 }], env := { agenda := [], fresh := 3 } }).setDir 1 129 { ptrs := [1] }
     let cut := (at_ (access .load .issued false)).setNum 0x3000 8 0x200000000003F
     meets [[AccOp.load, put, add].all fun op => meets [issued op, home op, remote op], hurt, owned
       , (at_ two).flight 1 = some two, got (locateFlight (at_ two) two) fun q => q.2.isSome, flightCut cut (access .load .issued false), !flightCut (linked cut) (access .load .issued false)
       , read.flight 1 = some scale, scaleBehind read scale, !scaleBehind (at_ scale) scale
       , got (translate { demo [] with mem := [] } 1 true 0x4000 (access .load .issued false).rights) (fun _ => true) = false
       , [Stage.filling [1], .invalidating [] [], .granted, .acked true, .acked false, .arrived [1], .refused cPOISON 0x4000].all fun st =>
           meets [(at_ (access put st false)).flight 1 = some (access put st false), !undelivered (at_ (access put st false)) (access put st false), !(access put st false).storeBefore (at_ (access put st false))]
       , !holdsLine (demo []) 0 1 128, holdsLine ((demo []).modHere fun k => { k with lines := [⟨1, 128, .shared, 0, 0, 0⟩] }) 0 1 128
       , eTier (access put (.invalidating [] []) false).entry = 0, eTier { access put (.invalidating [] []) false with entry := 0x200000000003F }.entry = 2
       , [false, true].all fun once => let s := { demo [] with flights := [{ fills with once := once }, joins] }
           meets [(s.flights.map (·.id)).Nodup, !undelivered s { fills with once := once }, (s.flight 1).isSome, joins.joins = some 1, joins.stage = .issued, fills.fill ≠ []]]) = true := by
  decide +kernel

theorem witness_LineEvents :
    (let s := demo []
     let l : Line := ⟨1, 128, .shared, 0, 0, 0⟩
     let u := s.modHere fun k => { k with lines := [l] }
     let full := s.modHere fun k => { k with lines := l :: (List.range 8192).map fun i => ⟨1, 1000 + i, .shared, 0, 0, i⟩ }
     let gone := s.modCtx 1 fun k => { k with unmaps := [⟨cellBase, 8192, 0, 0, [(0x300, 2)], true⟩] }
     let dead := fun (addr len : Nat) => meets [markedDead (gone.ctx 1) addr len, !badRange (BitVec.ofNat 64 addr) (BitVec.ofNat 64 len) true
       , !partlyCovered addr (addr + len) (leaves gone 1 addr (addr + len)), !entryInUse gone 1 addr (addr + len)]
     let first := fun (s : State) => s.here.lines.find? (fun l => l.ctx == 1 && l.line == 128) = some l
     let f := fun (a : List Nat) (b : List (Nat × Nat)) => access (.store [1]) (.invalidating a b) false
     let t := fun (a : List Nat) (b : List (Nat × Nat)) => { s with flights := [f a b] }
     let load := { access .load (.filling [1]) false with id := 2 }
     let late := { f [0] [] with stamp := 5 }
     let v := { s with flights := [late, { access .load (.arrived [1]) false with id := 2, stamp := 4 }] }
     let n : Notice := ⟨0, 1, 128, 3⟩
     let told := fun (l : List Notice) (fs : List Flight) => let u := { s with notices := l, flights := fs }
       meets [u.notices.find? (fun n => n.core == 0 && n.ctx == 1 && n.line == 128) = some n]
     let ahead := fun (l : List Notice) (fs : List Flight) => sentBefore { s with notices := l.takeWhile (· != n), flights := fs } 0 1 (128 * 128) 3
     let sent := access .load .issued false
     let r := s.setDir 1 128 { regs := [(0, 3)] }
     meets [first u, first full, cacheRoom u.here, !cacheRoom full.here, s.notices = [], told [n] [], !ahead [n] [], told [n] [sent], ahead [n] [sent]
       , awaited (t [0] []) 0 1 128 false = some (f [0] []), (f [0] []).isStore, !overrun (t [0] []) (f [0] []) 0, awaited v 0 1 128 false = some late, overrun v late 0
       , let w := { s with flights := [f [0] [], load] }
         meets [(w.flights.map (·.id)).Nodup, awaited w 0 1 128 false = some (f [0] []), !overrun w (f [0] []) 0, load.isLoad, load.core = 0, load.ctx = 1, load.line = 128]
       , let back := f [] [(0, 3)]
         meets [awaited (t [] [(0, 3)]) 0 1 128 true = some back, !sentBefore (t [] [(0, 3)]) 0 1 (128 * 128) (ackNumber back 0)
           , let w := { s with flights := [back, { sent with id := 2 }] }
             meets [awaited w 0 1 128 true = some back, sentBefore w 0 1 (128 * 128) (ackNumber back 0)]]
       , look (r.dirOf 1 128).regs 0 = some 3, 3 - (3 &&& 7) = 0, 3 &&& 1 ≠ 0, 3 - (3 &&& 1) ≠ 0, 3 &&& 4 = 0, strikable s 0x4000, strikable s (spadKey 0 0)
       , (gone.ctx 1).st ≠ .free, dead cellBase 4096, dead (cellBase + 4096) 4096, dead cellBase 8192]) = true := by
  decide +kernel

/-! What meets the hypotheses of the statements about queues, contexts, transfers, sheets, combining packets and the host port. -/

/-- A queue 0 of 16 entries, and one whose entry 0 has failed; a state with them and one entry taken. -/
def queueAt (es : List Entry) : Queue := { base := 0x10000, lg := 4, tailLine := 0x20000, record := 0x30000, tail := 1, taken := es.length, entries := es }
def queued (w : List Word) (s : State) : State := s.modCtx 1 fun k => { k with queues := [(0, queueAt [⟨0, w, false, 0, 0, none, none, none⟩]), (1, { tail := 1, codes := [(0, 3)] })] }

/-- Word 0 of an entry of a kind, of phase 5 of context 1 (R174). -/
def kindWord (n : Nat) : Word := BitVec.ofNat 64 (n * 2 ^ 60 + 5 * 2 ^ 32 + 1)

theorem witness_QueueEvents :
    (let desc : List Host.Cell := [(0x4003, 0x10), (0x4004, 0x80), (0x4008, 2), (0x4009, 0x80), (0x4020, 1)]
     let s := linked (sheet desc [])
     let cut := fun (s : State) => s.modManage fun m => { m with cxlUsable := false }
     let turn := fun (s : State) (n : Nat) (p : State → Entry → Bool) => let k := s.ctx 1
       match headEntry k 0 with
       | some e => meets [(look k.queues 0).isSome, eKind e.words = n, (depsOf e.words).all fun d => decide (depCode k d = some 0), chosenQueue s 1 = some 256, e.fatal.isNone
           , phaseNamed e.words = none || phaseNamed e.words = some 5, intakeOpen ((takeChoice s 1 256).ctx 1) 5, p (takeChoice s 1 256) e]
       | none => false
     let launch := fun (p : EntryRead → State → Bool) => fun (c : State) (e : Entry) => let r := entryDesc c 1 (e.words.getD 1 0); p r.1 r.2
     let failed := queued [kindWord 0, 0, 0, 0x8001000000000000, 0, 0, 0, 0] s
     let batch := fun (c : State) (e : Entry) => (c.ctx 1).batches.any fun b => wd b.num == e.words.getD 1 0
     let sealing := queued [kindWord 1, 1, 0, 0, 0, 0, 0, 0] (batched s)
     let worn := sealing.modCtx 1 fun k => { k with committed := 2 ^ 48 }
     let lost := fun (u : Queue) (i : Nat) (t : State) => t.setPoison (entryKey u 0 + 8 * i) true
     let take := fun (f : Queue → State → State) (w : Nat → Nat) (bad dep : Bool) => let u := queueAt []
       let t := f u <| (List.range 8).foldl (fun (t : State) i => t.setNum (entryKey u 0 + 8 * i) 8 (w i)) (s.modCtx 1 fun k => { k with queues := [(0, u)] })
       let k := (setQueue t 1 0 { u with taken := 1 }).ctx 1
       let bad' := lostEntryWord t u 0 || badEntry k 1 (entryWords t u 0)
       meets [!u.stopped, !ringCut t u, decide (u.taken < u.tail), u.codes = [], bad' = bad, bad || badDep k 0 0 (entryWords t u 0) = dep]
     let q := queueAt []
     meets [turn (queued [kindWord 0, 0x4000, 0, 0, 0, 0, 0, 0] s) 0 (launch fun r v => match r with | .desc d c => launchStatus v 1 d c == 0 | _ => false)
       , turn (queued [kindWord 0, 0x5000, 0, 0, 0, 0, 0, 0] s) 0 (launch fun r _ => match r with | .bad => true | _ => false)
       , turn sealing 1 batch, !exhausted (sealing.ctx 1), turn worn 1 batch, exhausted (worn.ctx 1)
       , turn (queued [kindWord 2, 0, 0, 0, 0, 0, 0, 0] s) 2 fun _ _ => true, turn (queued [kindWord 3, 1, 0x40000, 0, 0, 0x800, 0, 0] s) 3 fun _ _ => true
       , turn (queued [kindWord 3, 1, 0, 0, 0, 0, 0, 0] s) 3 fun _ _ => true
       , [0, 1, 2, 3].all fun n => match headEntry ((queued [kindWord n, 0, 0, 0x8001000000000000, 0, 0, 0, 0] s).ctx 1) 0 with
           | some e => meets [depsOf e.words = [(1, 0)], depCode (failed.ctx 1) (1, 0) = some 3, eKind e.words = n]
           | none => false
       , s.manage.cxlUsable, !tailHeld s q, !(cut s).manage.cxlUsable, ringCut (cut s) { q with tier := 2 }, !signalCut s 1 0
       , signalCut (cut (queued [kindWord 3, 1, 0x40000, 0, 0, 0x800, 0, 0] s)) 1 0, 0x6000 ≠ (0 : Word), decide ((0x6000 : Word).toNat < 2 ^ 48 ∧ (0x6000 : Word).toNat % 8 = 0)
       , !q.stopped, decide (q.tail ≤ 16 ∧ 16 ≤ q.retired + 2 ^ q.lg), decide (q.retired + 2 ^ q.lg < 17), decide (0 < q.tail ∧ 0 ≤ q.retired + 2 ^ q.lg)
       , take (fun _ t => t) (fun _ => 0) true true, take (fun _ t => t) (fun i => if i = 0 then (kindWord 2).toNat else if i = 3 then 2 ^ 63 else 0) false true
       , take (lost · 5) (fun i => if i = 0 then (kindWord 2).toNat else 0) true true
       , take (fun _ t => t) (fun i => if i = 0 then (kindWord 2).toNat else 0) false false]) = true := by
  decide +kernel

/-- A create record at an address of host memory, with its pager on a core (R347). -/
def created (core : Nat) (s : State) : State :=
  [(0, 0x1002), (1, 0x1001), (5, 8 * 2 ^ 34 + core * 2 ^ 21), (6, 8 * 2 ^ 34 + core * 2 ^ 21 + 2 ^ 15 + 0x1000), (7, 0x5000), (16, 0x10000), (17, 4)].foldl
    (fun t p => t.setNum (memKey 2 (0x8000 + 8 * p.1)) 8 p.2) s

/-- The state in which the command core performs a request that the host has put into the idle administration queue. -/
def askedFor (kind y va : Nat) (s : State) : State :=
  let u := s.manage.adminQueue
  (snoop (storeTail (deviceWrite s u.tier (entryAddr u u.taken) (toBytes 8 (kind * 2 ^ 60 + y) ++ toBytes 8 va ++ List.replicate 48 0)) u (u.taken + 1))
    (commandCore 0)).modManage fun m => { m with adminQueue := { u with tail := u.taken + 1, taken := u.taken + 1 } }

theorem witness_ContextEvents :
    (let s := linked (created 5 (demo []))
     let idle := fun (s : State) => let u := s.manage.adminQueue
       meets [Memory.wf s.mem, s.manage.cxlUsable, u.entries = [], !u.stopped, u.tail = u.taken, decide (u.taken < u.retired + 2 ^ u.lg), !tailHeld s u, !hostHeld s u.tier [(entryAddr u u.taken, 64)]]
     let made := fun (s : State) (va : Nat) (p : State → Create → Bool) => let a := askedFor 8 0 va s
       meets [idle s, match parseCreate a va with | some r => p a r | none => false]
     let agents := fun (a : State) (r : Create) => createAgents r.ctx r.agents (a.setCtx r.ctx r.k)
     let put := fun (st : CtxState) (s : State) => s.modCtx 1 fun k => { k with st := st }
     let gone := (put .dying s).modSlot 0 0 fun l => { l with phase := .free }
     let stored := fun (s : State) (kind y va : Nat) => let u := s.manage.adminQueue
       let t := askedFor kind y va s
       meets [entryWords t u u.taken = [BitVec.ofNat 64 (kind * 2 ^ 60 + y), BitVec.ofNat 64 va, 0, 0, 0, 0, 0, 0], !lostEntryWord t u u.taken]
     let u := s.manage.adminQueue
     meets [stored s 8 0 0x8000, stored s 9 1 0, stored s 10 1 0, stored s 11 1 0, u.tier = 2, u.lineTier = 2, u.base % 64 = 0, u.tailLine % 8 = 0
       , decide (u.base + 64 * 2 ^ u.lg ≤ 2 ^ 48), decide (u.tailLine + 8 ≤ 2 ^ 48), decide (entryAddr u u.taken + 64 ≤ u.tailLine ∨ u.tailLine + 8 ≤ entryAddr u u.taken)
       , (parseCreate (askedFor 8 0 0x8001 s) 0x8001).isNone, made s 0x8000 fun a r => meets [(s.ctx r.ctx).st = .free, (agents a r).isSome]
       , made (travelling s) 0x8000 fun a r => (agents a r).isSome
       , made (linked (created 0 (demo []))) 0x8000 fun a r => meets [(a.ctx r.ctx).st = .free, (agents a r).isNone], made (s.modCtx 2 fun k => { k with st := .building }) 0x8000 fun a r => meets [r.ctx = 2, (a.ctx 2).st ≠ .free]
       , (s.ctx 1).st = .running, [CtxState.suspended, .faulted, .runnable, .dying, .running].all fun st => meets [idle (put st s), ((put st s).ctx 1).st = st]
       , (gone.ctx 1).st = .dying, slotsOf gone 1 = [], (gone.ctx 1).saved = [], (gone.ctx 1).waves = [], gone.flights = [], transfersEnded gone 1
       , (s.ctx 3).st = .free, !(demo []).manage.cxlUsable, (demo []).manage.adminQueue.entries = []]) = true := by
  decide +kernel

/-- Core 0 with a request of its thread in the mailboxes, or on channel 1. -/
def asked (w : List Word) (s : State) : State := s.modHere fun k => { k with
  mbox := (List.range 4).map fun i => (i, w.getD i 0), writer := some (0, 7, 1, true) }
def onChannel (h : Chan) (s : State) : State := s.modHere fun k => { k with chans := [(1, { h with st := 1, who := some (0, 7, 1, true) })] }

theorem witness_TransferEvents :
    (let s := demo []
     let ready := fun (n : Nat) (w : List Word) => match readyRequest (asked w s) 0 with | some (v, r) => meets [v == w, requestKind r.2.2.2 w = n] | none => false
     let copy : Chan := { segs := [(0x4040, 0x6000, 64)] }
     let reads := fun (h : Chan) (va : Word) (n : Nat) => let u := onChannel h s
       match chanRead u 0 1 true va n with
       | .ok (bs, v) => meets [bs.length = n, match chanWrite (v.setChan 0 1 { ((u.core 0).chan 1) with piece := some bs }) 0 1 0x6000 bs with | .ok _ => true | _ => false]
       | _ => false
     let free := fun (h : Chan) => let c := ((onChannel h s).core 0).chan 1
       meets [c.who.isSome, c.st = 1, c.finishing = none, c.fatal = none]
     let held := onChannel { copy with piece := some (List.replicate 64 5) } s
     let p : Piece := { id := 3, core := 1, ch := 0, todo := [0], ctx := 1, tag := 9, req := 4, start := 0, last := true, bytes := [1, 2] }
     let sub : Match := { ctx := 1, tag := 9, off := 64, ch := 2 }
     let arriving := ({ s with pieces := [p] }).modHere fun k => { k with matches_ := [sub] }
     let mine := fun (u : State) (n : Nat) => meets [(readyRequest u 0).isNone, busyChans u.here n = [1]]
     let small := s.modSlot 0 1 fun l => { l with phase := .stopped, wlim := 8, ctx := 1, launch := 1, uid := 9 }
     let saving := onChannel { kind := 2, mb := [1, 0x6000, 0, 8] } small
     let going := saving.modSlot 0 1 fun l => { l with phase := .ready }
     let ends := fun (h : Chan) (p : Nat × Nat → Bool) => let u := onChannel h s
       let full := u.modHere fun k => { k with queue := List.replicate 32 (note 0 .plain false) }
       match chanEnd ((u.core 0).chan 1) with | some e => meets [p e, completionReady u 0 (0, 7, 1, true), !completionReady full 0 (0, 7, 1, true)] | none => false
     let sends := onChannel { sending := some 0x1703 } s
     let paid : Chan := { total := 64, mb := [0, 0, 0, 0x4180] }
     meets [ready 0 [0x4000, 0x6000, 64, 1], ready 1 [0x4000, 9, 64, 0x21], ready 2 [3, 0x6000, 0, 9], ready 3 [3, 0x6000, 0, 0x11], free copy, reads copy 0x4040 64
       , reads { copy with kind := 1 } 0x4040 64, s.pieces = [], free { list := some (0x4000, 0) }
       , arriving.pieces.find? (fun q => q.id == 3) = some p, arriving.here.matches_.find? (fun m => m.ctx == 1 && m.tag == 9 && (p.start == 0 || m.reqs.contains 4)) = some sub
       , mine saving 2, (saving.slot 0 1).phase = .stopped, match chanWrite saving 0 1 0x6000 (imageOf saving 0 1) with | .ok _ => true | _ => false
       , match chanWrite held 0 1 0x6000 (List.replicate 64 5) with | .ok _ => true | _ => false, (held.here.chan 1).piece.isSome
       , (sends.here.chan 1).sending = some 0x1703, completionReady sends 0 (0, 7, 1, true)
       , mine going 2, (going.slot 0 1).phase = .ready, !(going.slot 0 1).stopping, mine (onChannel { kind := 3 } s) 3
       , ends { finishing := some (5, 7) } (· == (5, 7)), ends {} (· == (3, 0)), ends paid (· == (3, 0)), optCred 0x4180
       , match credit (onChannel paid s) 0 1 with | .ok _ => true | _ => false]) = true := by
  decide +kernel

theorem witness_restore :
    (let small := (demo []).modSlot 0 0 fun l => { l with phase := .stopped, wlim := 8, accs := [] }
     let s := (issuing 63 small).modHere fun k => { k with regs := [(8 * 252 + 2, 0x4000)] }
     let u := (done (.tsave 1 (x 2) (x 0)) s).modHere fun k => { k with chans := [(1, { st := 1, kind := 3, who := some (63, 9, 1, true), mb := [0, 0x4000, 0, 16] })] }
     meets [(readyRequest u 0).isNone, busyChans u.here 3 = [1], match chanRead u 0 1 false 0x4000 256 with
       | .ok (h, u) => meets [headStatus u 0 0 h = 0, match chanRead u 0 1 false 0x4100 (imageRest h) with
         | .ok (r, v) => let i := parseImage h r
           meets [loadStatus v 0 i = 0, match chanReads v 0 1 (i.streams.map (·.1)) with | .ok (ds, w) => (rebind i w.env.fresh ds).isSome | _ => false]
         | _ => false]
       | _ => false]) = true := by
  decide +kernel

theorem witness_SheetAndRemeltEvents :
    (let s := objects (sheet [] [])
     let wave := fun (i : ItemState) (b : Bool) => s.modCtx 1 fun k => { k with waves := [{ gen := 5, seq := 1, roots := [0], items := [(1, i)], inputs := [(0, b)] }] }
     let work := fun (s : State) (n : Nat) => match readyWork (s.ctx 1) with | p :: _ => p.2 = n | [] => false
     let r : Repair := { cell := 1, stamp := 3, waiters := [7] }
     let u := s.modCtx 1 fun k => { k with repairs := [r] }
     let empty := u.modCtx 1 fun k => k.modCell 1 fun c => { c with buf0 := {} }
     let wanted := fun (s : State) => (s.ctx 1).repairs.find? (fun r => r.cell == 1 && r.stamp == 3 && !r.dispatched && !r.failed) = some r
     let low := s.modManage fun m => { m with low := [(0, 2 ^ 30)] }
     let runs := fun (c : Cand) => s.modManage fun m => { m with running := [⟨0, 0, 0, none, some c⟩] }
     let finished := match ((wave .finished true).ctx 1).waves with
       | [w] => meets [!w.cancelling, w.items.all fun i => i.2 = .finished, w.inputs.all fun i => i.2]
       | _ => false
     meets [(s.ctx 1).st = .running, work (wave .waiting false) 0, ((wave .waiting false).ctx 1 |>.cell 0).bind.input, work (wave .waiting true) 1
       , !((wave .waiting true).ctx 1 |>.cell 1).bind.input, (takeInput 1 1 5 0 (wave .waiting false)).1
       , (itemPending 1 1 5 (wave .waiting true)).isSome, readyWork (s.ctx 1) = [], wanted u, ((u.ctx 1).cell 1).holding 3 = some false, (openRepair 1 1 false u).isSome
       , wanted empty, ((empty.ctx 1).cell 1).holding 3 = none, finished
       , decide (freeFrames low 0 0 < lookD low.manage.low (tierKey 0 0) 0), low.manage.running = [], low.manage.below = [], decide (lookD s.manage.low (tierKey 0 0) 0 ≤ freeFrames s 0 0)
       , (low.modManage fun m => { m with below := [tierKey 0 0] }).manage.below.contains (tierKey 0 0)
       , (runs (.obj 1 4)).manage.running.find? (fun r => r.chosen == some (.obj 1 4)) = some ⟨0, 0, 0, none, some (.obj 1 4)⟩
       , (runs (.buf 1 0 3)).manage.running.any (fun r => r.chosen == some (.buf 1 0 3))]) = true := by
  decide +kernel

theorem witness_LinkAndHostEvents :
    (let p := fun (i : Nat) => ({ id := i, ctx := 1, owner := 1, tag := 5, max := true, ty := .i32, cnt := 2, n := 1, value := 9, mixed := false, from_ := [(0, 0, 7, 1)] } : Contribution)
     let s := (demo []).modCore 1 fun k => { k with packets := [p 1, p 2] }
     let k := s.core 1
     meets [s.cores.find? (fun c => c.2.packets.any (·.id == 1) && c.2.packets.any (·.id == 2)) = some (1, k), k.packets.find? (·.id == 1) = some (p 1)
       , k.packets.find? (·.id == 2) = some (p 2), (p 1).merges (p 2), s.cores.find? (fun c => c.2.packets.any (·.id == 1)) = some (1, k)
       , k.packets.find? (·.tag == 5) = some (p 1), !ownerRefuses s 1 1, (joinTable { k with packets := k.packets.filter (·.id != 1) } (p 1)).isSome
       , ownerRefuses { s with ctxs := [] } 1 1, (linked s).manage.cxlUsable, !s.manage.cxlUsable
       , (p 1).from_.all fun f => !pathBusy s 1 f.1
       , let w := { s with flights := [{ access (.store [1]) .issued true with core := 1, addr := spad }], env := { s.env with fresh := 2 } }
         (p 1).from_.any fun f => pathBusy w 1 f.1
       , !hostHeld s 0 (parts 128 0x4000 16)]) = true := by
  decide +kernel

/-! What meets the hypotheses of the statements about management, the debugger, the store frame, the decoder and the step. -/

theorem witness_Management :
    (let r := List.replicate 128 10 ++ [2500] ++ (List.range 9).flatMap fun _ => [0, 1]
     meets [recordOk r, !recordOk (r.take 146), !recordOk (List.replicate 128 10 ++ [2499] ++ (List.range 9).flatMap fun _ => [0, 1]), strikable (demo []) 0x4000
       , blockClock (demo []) 127 = 12, decide (12 ≤ blockClock (demo []) 127)
       , let recent := fun (s : State) => s.here.errors.filter (fun t => decide (s.manage.now < t + hour)) ++ [s.manage.now]
         let worn := (demo []).modHere fun k => { k with errors := List.replicate 16 0 }
         meets [decide ((recent (demo [])).length ≤ 16), decide (16 < (recent worn).length), !worn.here.absent]
       , let s := (demo []).modManage fun m => { m with telemetry := [(3, (7, []))] }
         meets [(s.manage.record 3).1 % 2 = 1, (s.manage.record 4).1 % 2 = 0, s.env.prompt, !(travelling s).env.prompt, ((travelling s).manage.record 4).1 % 2 = 0]]) = true := by
  decide +kernel

theorem witness_Resets :
    (let s := demo []
     let still := s.modCore 1 fun k => k
     let quiet := fun (k : ResetKind) => meets [(look still.cores 1).isSome, liveOn still [1] = [], !still.manage.resets.any (·.kind == k), still.waiters = [], !(still.core 1).absent]
     let dead := s.modCore 1 fun k => { k with absent := true }
     let u := s.modManage fun m => { m with daward := { m.daward with pending := true } }
     meets [!(s.core 0).absent, (look still.cores 1).isSome, liveOn still [1] = [], liveOn s [0] = [(0, 0)], s.manage.resets = [], !s.manage.daward.pending
       , u.manage.daward.pending, State.reset.ctxs = [], State.reset.manage.adminQueue.entries = [], quiet (.core 1), quiet (.retire 1 []), lookD still.manage.sparesUsed 0 0 < 32
       , (dead.core 1).absent, decide (Engine.remelt ≠ .daward)]) = true := by
  decide +kernel

theorem witness_IdentityAndFirmware :
    (let with_ := fun (f : Firmware) (i : Image) => (demo []).modManage fun m => m.setImage i f
     let f : Firmware := { active := some 3 }
     let after := fun (i : Image) => atIdlePoint (with_ { f with inactive := some 4 } i) i
     meets [[Image.daward, .command, .transfer, .sequencer].all fun i => let s := with_ f i
         meets [!activationPending s i, decide (f.version (imageIndex i) ≤ 3), decide (2 < f.version (imageIndex i)), activationPending (with_ { f with pending := true } i) i]
       , after .command, after .transfer, after .sequencer, !after .daward]) = true := by
  decide +kernel

theorem witness_DebuggerCommands :
    (let s := demo []
     let u := s.modCur fun l => { l with rudb := true, phase := .stopped }
     meets [s.cur.phase = .ready, s.cur.held = none, s.cur.passBrk ≠ some 0x40, u.cur.rudb, u.cur.phase = .stopped
       , got (locate s 1 true 0x4000 8 forLoad) fun _ => true, s.manage.running = []]) = true := by
  decide +kernel

theorem witness_StoreFrame :
    (let s := demo [(2, 0x14000), (3, spad)]
     meets [drainedB s, (stores 2 511).all fun p => let va := 0x14000 + BitVec.ofInt 64 (511 * p.2)
         meets [runsB s p.1, atOnceB s va p.2 forStore, reach s va p.2 forStore]
       , (stores 3 0).all fun p => let u := travelling s
         meets [runsB u p.1, atOnceB u spad p.2 forStore, reach u spad p.2 forStore]]) = true := by
  decide +kernel

theorem witness_DecodeEncode :
    (let fits := fun (c a : Instr) => match encodeParts c, encodeParts a with
       | some (h, 0), some (t, 0) => meets [c.wf, a.wf, decide (32 ≤ fOp h), decide (fOp t < 32), !loneMajor (fOp h), !loneMajor (fOp t), !overlapping c a]
       | _, _ => false
     meets [(encode (.trap 127)).isSome, (Instr.trap 127).wf, fits .nop (.addsh 5 (x 6) (x 7) 3), fits (.ldI64 9 (x 4) (-512)) (.add 127 ⟨126, true⟩ (x 0))
       , match decodeBundle 0x0E14307274000000 with | .ok _ => true | _ => false]) = true := by
  decide +kernel

/-- The demo state with a bundle at the pc, which the agenda issues next. -/
def issues (n : Nat) : State := { (demo [(6, 5), (7, 1)]).setNum (codeKey 0 0x40) 8 n with env := { agenda := [.issue 0 0] } }

/-- The hypothesis `MayTurn`, as a test. -/
def mayB (s : State) (b : Bundle) : Bool := meets [mayIssue s 0 0, itsTurn s 0 0, !atBreakpoint s 0 0, !overLimit s 0 0, decide ((s.slot 0 0).pc.toNat < 0x8000)
  , (s.seg 0 ((s.slot 0 0).pc.toNat / 4096)).st = .landed, (match decodeBundle (s.code 0 (s.slot 0 0).pc) with | .ok c => c == b | _ => false), !viewExpires (s.slot 0 0)]

theorem witness_StepRunsDecoded :
    (let add := Instr.addsh 5 (x 6) (x 7) 3
     let mma := Instr.mma .f32 0 0 1 false
     let at0 := fun (s : State) => { s with env := { s.env with agenda := [] } }
     let pairs := fun (i j : Instr) (f : State → State) (p : State → State → Bool) =>
       let s := f (issues ((encodePair i j).getD 0))
       let both := (beginTurn (at0 s) 0 0).modIss fun k => { k with pair := true, src := some (beginTurn (at0 s) 0 0).srcFile }
       let checked := both.modIss fun k => { k with passed := true }
       meets [mayB (at0 s) (.pair i j), got (checks both [i, j]) fun _ => true, match exec i checked with | .next u => p checked u | _ => false]
     let goes := fun (i : Instr) (s : State) => match exec i s with | .next u => u.iss.out == .running | _ => false
     let ready := fun (s : State) => (ringed 1 (shaped 1 s))
     let owes := fun (s : State) => s.modSlot 0 0 fun l => { l with unack := 1 }
     let t := issues 0x20000000BE242050
     meets [(encodePair .nop add) = some 0x0E14307274000000, pairs .nop add id fun _ u => meets [u.iss.out = .running, goes add u], mmaOperands add = none
       , pairs .drain add owes fun _ u => u.iss.out = .waiting, !sendsAccess .drain, mmaOperands mma = some (.f32, 0, 0, 1, false, false)
       , pairs .drain mma (owes ∘ ready) fun s u => meets [s.cur.mop = none, u.iss.out = .waiting]
       , pairs .nop mma id fun s u => meets [s.cur.mop = none, u.iss.out = .running, (mmaFails s .f32 0 0 1).isSome]
       , pairs .nop mma ready fun s u => meets [s.cur.mop = none, u.iss.out = .running, mmaFails s .f32 0 0 1 = none, mmaAtOnce s 0 0 1
         , match exec mma s with | .next v => (match exec .nop v with | .next _ => true | _ => false) | _ => false]
       , pairs .nop mma (travelling ∘ ready) fun s u => meets [s.cur.mop = none, u.iss.out = .running, mmaFails s .f32 0 0 1 = none, !mmaAtOnce s 0 0 1]
       , mayB (at0 t) (.lone (.rand 9 (x 4) (x 5))), !isRulis .packageReset, State.reset.env.agenda = []]) = true := by
  decide +kernel

theorem test_step_addsh :
    (match step (issues 0x0E14307274000000) with | .next t => meets [t.entry 0 5 = 13, (t.slot 0 0).pc = 0x48] | _ => false) = true := by
  decide +kernel

theorem witness_StepKeepsMemoryCanonical :
    (let s := issues 0x0E14307274000000
     meets [Memory.wf State.reset.mem, Memory.wf s.mem, (match step s with | .next t => Memory.wf t.mem | _ => false)
       , match step (State.reset.withFetchWord 32 0x0E143072) with | .next t => meets [Memory.wf t.mem, t.mem ≠ []] | _ => false]) = true := by
  decide +kernel

/-! What the checks refuse. -/

/-- Terms outside the ranges of operands (R29 to R53): scalar, vector and control instructions. -/
def badScalar : List Instr :=
  [Instr.add 128 (x 0) (x 0), .add 0 (x 128) (x 0), .popc 0 (x 128), .addsh 0 (x 0) (x 0) 5, .addsh 0 (x 0) (x 0) 0, .addImm 0 (x 0) 512, .addImm 0 (x 0) (-513)
    , .shlImm 0 (x 0) 64, .sltImm 0 (x 0) 128, .sltnImm 0 (x 0) 256, .movImm 0 131072, .li 0 65536 0, .li 0 0 (2 ^ 32), .liHi 0 65536, .fadd .f32 0 (x 0) (x 128)
    , .fneg .f32 128 (x 0), .fcvt (.lit .i32 .i64 false .rne false) 0 (x 0), .bfx true 0 (x 0) 60 5, .bfx true 0 (x 0) 0 0, .vand 16 (x 0) (x 0), .vadd .n32 0 (x 0) (x 0)
    , .vmov 0 (x 16), .vabs .n32 0 (x 0), .vcvt (.lit .i8 .i16 false .rne false) 0 (x 0), .vcmp .i32 .un 0 (x 0) (x 0), .vsel 0 (x 0) (x 0) 16, .vred .f32 .sum 128 (x 0)
    , .vbcast 16 (x 0), .vext .f32 0 (x 0) 16, .vins 0 (x 0) 16, .vsort .f32 false 1 (x 0) (x 2), .vquant (.lit .mx .f32 false .rne false) 0 (x 1)
    , .vdeq (.lit .f32 .mx true .rne false) 0 (x 0), .rand 128 (x 0) (x 0), .randV 16 (x 0) (x 0), .fmt 0xD0000000, .dtldMem 0 (x 0) 2, .dtldPreset 0 .int8 2
    , .beq 0 (x 0) 512, .bz 0 131072, .jalr 0 (x 0) (-513), .jmpf 0 4096]

/-- The same of the instructions on memory, threads, tiles, cells and handles. -/
def badMemory : List Instr :=
  [.ldI8 0 (x 0) 512, .ldv 16 (x 0) 0, .ldmx 16 (x 0) (x 0), .pfl (x 0) 1024, .aadd .i64 ⟨false, false, .core, 1024⟩ 0 (x 0) (x 0), .csrr 0 (.mb 4), .csrs 0 (.mb 0) 0
    , .trap 128, .tsave 0 (x 0) (x 128), .cntrd .job 0 (x 128), .tid 0 5, .ofetch 8 (x 0), .ostat 0 8, .send (x 0) 0 9 0, .send (x 0) 0 1 63, .pmsg 128, .pgharv 0 (x 128)
    , .pgwakeFatal 0 (x 0) 22, .pgwakeFatal 0 (x 0) 15, .ldfe 0 (x 0) 1024, .stfe (x 0) (x 0) (-1025), .xsubs 0 (x 0) (x 0) 8, .sbind 0 (x 0) 0, .sunb 128
    , .scfgCount 0 128 (x 0), .sstat 0 128, .mshape 8 .f32, .mskr 4 (x 0), .rstat 0 16, .rpopHead 0 16 (x 0), .tldt 16 (x 0) (x 0), .mma .f32 8 0 0 false, .accmv 0 8 (x 0)
    , .accld 8 .f32 (x 0), .cedit 0 (x 0) (x 128), .cunb 0 (x 128), .cst 0 (x 0) (x 0) 1024, .cld 128 (x 0) (x 0) 0, .cstat 0 (x 0) 4, .cstat 0 (x 0) 128
    , .hnew 128 (x 0) (x 0), .hdrop (x 128), .hldw 1 1 (x 0) 0, .hldw 1 2 (x 0) 512, .hpri (x 0) (x 128), .hinfo 0 (x 0) 3, .taprd 0 (x 1) (x 0) 0, .taprd 0 (x 0) (x 0) 2
    , .cmbmax .f32 128 (x 0) (x 0), .cmbsum .i32 0 (x 0) (x 0), .cmbrecv 1 1 (x 0)]

/-- Every such term, and every event that names an agent beyond those of the part (R13, R16), is ill-formed, and `exec` refuses it by that name. -/
theorem test_illformed : meets ((badScalar ++ badMemory ++
    [Instr.tableReplacement 0 2, .cont 0 64, .streamElementDeliver 0 0 128, .vreg 0 0 ⟨16, .hex, 0, 15⟩, .vreg 0 0 ⟨0, .hex, 3, 2⟩, .vreg 0 0 ⟨0, .hex, 0, 16⟩, .segmentLand 0 8, .coreGate 8192, .retry 8192 0, .recall 8192 0 0 0
    , .stRegisterWrite (2 ^ 64), .mailboxWrite 4 0, .blockReset 128, .dieReset 8, .loopBypass 0 136, .packageLinkTraining 4]).map fun i =>
    !i.wf && (match exec i (demo []) with | .refused .illFormed => true | _ => false)) = true := by
  decide +kernel

theorem test_refused_words :
    (let refused := fun (n : Nat) (e : DecodeError) => match decodeBundle n with | .error f => f == e | _ => false
     meets [refused 0x0000000004000000 .classInHead, refused 0xF400000074000000 .tailBit31, refused 0x7400000074000000 .tailClass
       , refused 0x000000007E000000 .loneMajor, refused 0x00000000FC000000 .unassigned, refused 0x00000000F4000001 .reserved]) = true := by
  decide +kernel

/-! Values that the spec works out. -/

/-- The fabric address of core(3,21)+0x100 (the notation of the scope chapter). -/
theorem test_fabric_address : spadKey (3 * 1024 + 21) 0x100 = 0x8000000301500100 := by decide

/-- The worked encodings through E4M3 and E5M2 (R66), with .sat and .ovf. -/
theorem test_encode : meets
    ([(Preset.e4m3, FVal.fin false 460 0, 0x7E, 0x7E), (.e4m3, .fin false 464 0, 0x7E, 0x7E), (.e4m3, .fin false 470 0, 0x7E, 0x7F), (.e4m3, .fin true 500 0, 0xFE, 0xFF)
      , (.e5m2, .fin false 61440 0, 0x7B, 0x7C), (.e5m2, b64.dec 0x3FF3333333333333, 0x3D, 0x3D)].map fun p =>
      meets [(Table.preset p.1).encode .rne false p.2.1 = p.2.2.1, (Table.preset p.1).encode .rne true p.2.1 = p.2.2.2]) = true := by
  decide +kernel

/-- The worked block (R68): the scale is 2^−7, 3.0 has the code 0x7C and 0.01 the code 0x3A. -/
theorem test_quantise :
    (let q := quantise (.preset .e4m3) false .rne ([0x40400000, 0x3C23D70A] ++ List.replicate 30 0)
     meets [q.1 = 120, q.2.take 3 = [0x7C, 0x3A, 0]]) = true := by
  decide +kernel

/-- The worked element (R69): 1.0 and the products 2^24, 1, −2^24, 1 give 3.0. -/
theorem test_group : macElement b32 (some 0) 0x3F800000 ([0x45800000, 0x3F800000, 0xC5800000, 0x3F800000].map b32.dec)
    ([0x45800000, 0x3F800000, 0x45800000, 0x3F800000].map b32.dec) = 0x40400000 := by
  decide +kernel

/-- The worked reduction (R71): 2^24 and fifteen times 1.0 give 16,777,230. -/
theorem test_vred : (done (.vred .f32 .sum 5 (x 1)) (demo ((8, 0x3F8000004B800000) :: (List.range 7).map fun i => (9 + i, 0x3F8000003F800000)))).entry 0 5
    = 0x4B800007 := by
  decide +kernel

/-- AND x5, x6, −8 clears bits 2:0 (R86). -/
theorem test_and_imm : (done (.andImm 5 (x 6) (-8)) (demo [(6, 0xFFFFFFFFFFFFFFFF)])).entry 0 5 = 0xFFFFFFFFFFFFFFF8 := by decide +kernel

/-- The worked windows (R159): after windows of 128, 64 and 128 the second thread exits, and a thread of 96 has the base 320. -/
theorem test_windows :
    (let k := ({ slots := [(0, { phase := .ready, wbase := 0, wlim := 128 }), (2, { phase := .ready, wbase := 192, wlim := 320 })] } : Core)
     lowestBase (usedWindows k) 96 = some 320) := by
  decide +kernel

/-- The print `0.5 ×16` of R326's run. -/
theorem test_mem_runs : memRuns (List.replicate 16 0x3F000000) = [(0x3F000000, 16)] := by decide

/-- The worked tap (R314 to R317): with ord 0 only sequence 1 trips, at row 2 with the score 4.0; rows 0 and 1 are steered. -/
theorem test_tap :
    (let one : BitVec 16 := 0x3F80
     let t : Tap := { arm := 1, probe := 3, dir := false, dim := 16, thr := 0, bias := 0xC0800000, weights := List.replicate 16 one, gains := [], eps := 0, ord := false
                      nrm := false, rpr := 1, map := [0x1000000, 0x1000000, 1, 1], steer := [List.replicate 16 0x3E80] }
     let b : Binding := { rows := 4, cols := 16, fmt := 3 }
     let row := fun (v : Nat) => (List.replicate 16 (toBytes 2 v)).flatten
     let out := assay t b false [0, 1, 2, 3] [] (row 0x3E00 ++ row 0x3E00 ++ row 0x3F00 ++ row 0)
     meets [out.1 = row 0x3EC0 ++ row 0x3EC0 ++ row 0x3F00 ++ row 0, out.2 = [(0, 0xC0000000), (1, 0xC0000000), (2, 0x40800000), (3, 0xC0800000)]
       , tripped t out.2 = [(1, 2, 0x40800000)], probeWords t 9 7 (1, 2, 0x40800000) = [0x0001002000000340, 9, 7, 0x40800000]
       , tripped { t with ord := true } (assay { t with ord := true } b false [0, 1, 2, 3] [] (row 0x3E00 ++ row 0x3E00 ++ row 0x3F00 ++ row 0)).2
           = [(0, 0, 0x40000000), (1, 2, 0x40800000)]]) = true := by
  decide +kernel

end Sys2Proof.Tests
end

/-! Across the lanes of a vector (R95 to R98): each instruction's register writes. -/
namespace Sys2Proof.Machine

/-- Each lane of a vector source is the one that R78 gives. -/
theorem lane_rv (s : State) (k : Nat) {i : Nat} (h : i < 16) : lane (rv s k) i = rlane s k i := by
  simp [lane, rv, h]

/-- A lane operation on two vector sources reads its lanes from the registers. -/
theorem lanes2_rv (s : State) (f : Lane → Lane → Lane) (k m : Nat) :
    lanes2 f (rv s k) (rv s m) = (List.range 16).map fun i => f (rlane s k i) (rlane s m i) := by
  refine List.map_congr_left fun i hi => ?_
  have hi : i < 16 := List.mem_range.1 hi
  rw [lane_rv s k hi, lane_rv s m hi]

/-- The fixed tree of R71 over lanes l0 to l15, written out node by node. -/
def redTree (n : Lane → Lane → Lane) (l : Nat → Lane) : Lane :=
  n (n (n (n (l 0) (l 1)) (n (l 2) (l 3))) (n (n (l 4) (l 5)) (n (l 6) (l 7))))
    (n (n (n (l 8) (l 9)) (n (l 10) (l 11))) (n (n (l 12) (l 13)) (n (l 14) (l 15))))

/-- Four levels of pairing make the tree of R71. -/
theorem reduce_rv (s : State) (t : VTy) (op : RedOp) (k : Nat) :
    reduce t op (rv s k) = redTree (redNode t op) (rlane s k) := rfl

/-- A body that writes two neighbouring vector registers gives their values. -/
theorem gives_wv_wv {s : State} {i : Instr} {d : Nat} {v w : List Lane} {body : Act} (he : exec i s = guard i body s)
    (hb : body s = .ok (wv (wv s d v) (d + 1) w)) : Gives s i (vecWrites d v ++ vecWrites (d + 1) w) :=
  does_of he (fun _ => by rw [hb, wxs_append, ← wv_eq_wxs, ← wv_eq_wxs]) (fun _ => Prepares.refl s) (distinct_vec2 d v w)

section
variable (s : State) (t : VTy) (d : Nat) (a b : Src)

/-- VCMP fills a lane with ones where the relation holds, and with zeros elsewhere (R96). -/
theorem vcmp_gives (r : Rel) : Gives s (.vcmp t r d a b)
    (vecWrites d ((List.range 16).map fun i => if vRel t r (rlane s a.r i) (rlane s b.r i) then BitVec.allOnes 32 else 0)) :=
  gives_setV rfl fun _ => lanes2_rv s (fun x y => if vRel t r x y then BitVec.allOnes 32 else 0) a.r b.r

theorem vsel_gives (m : Nat) : Gives s (.vsel d a b m)
    (vecWrites d ((List.range 16).map fun i => if rlane s m i ≠ 0 then rlane s a.r i else rlane s b.r i)) :=
  gives_setV rfl fun _ => rfl

/-- VRED writes the root of the tree of R71 (R97). -/
theorem vred_gives (op : RedOp) : Gives s (.vred t op d a) [(d, laneWord t (redTree (redNode t op) (rlane s a.r)))] :=
  gives_setX rfl fun _ => congrArg (laneWord t) (reduce_rv s t op a.r)

theorem vscan_gives (sc : ScanOp) : Gives s (.vscan t sc d a) (vecWrites d (scan t sc (rv s a.r))) :=
  gives_setV rfl fun _ => rfl

theorem vperm_gives : Gives s (.vperm d a b)
    (vecWrites d ((List.range 16).map fun i => rlane s a.r ((rlane s b.r i).toNat % 16))) :=
  gives_setV rfl fun _ => rfl

/-- VBCAST writes the low half of its scalar source to every lane (R96). -/
theorem vbcast_gives : Gives s (.vbcast d a) (vecWrites d ((List.range 16).map fun _ => (rx s a.r).setWidth 32)) :=
  gives_setV rfl fun _ => by rw [List.map_const', List.length_range]

theorem vext_gives (l : Nat) : Gives s (.vext t d a l) [(d, laneWord t (rlane s a.r l))] :=
  gives_setX rfl fun _ => rfl

theorem vins_gives (l : Nat) : Gives s (.vins d a l)
    (vecWrites d ((List.range 16).map fun i => if i = l then (rx s a.r).setWidth 32 else rlane s d i)) :=
  gives_setV rfl fun _ => rfl

/-- VSORT writes the sorted keys to vD and their payloads to vD+1 (R98). -/
theorem vsort_gives (desc : Bool) : Gives s (.vsort t desc d a b)
    (vecWrites d ((vsort t desc (rv s a.r) (rv s b.r)).map (·.1))
      ++ vecWrites (d + 1) ((vsort t desc (rv s a.r) (rv s b.r)).map (·.2))) :=
  gives_wv_wv rfl rfl

theorem viota_gives : Gives s (.viota d a)
    (vecWrites d ((List.range 16).map fun i => (rx s a.r).setWidth 32 + BitVec.ofNat 32 i)) :=
  gives_setV rfl fun _ => rfl

end

/-- Settles O5: one lemma per instruction; the comparison goes lane by lane over the two sources, and the reduction's four levels of
pairing are the fixed tree of R71. -/
theorem vectorAcrossLanes : Obligations.VectorAcrossLanes := by
  intro s t d a b r m l op sc desc
  exact ⟨vcmp_gives s t d a b r, vsel_gives s d a b m, vred_gives s t d a op, vscan_gives s t d a sc, vperm_gives s d a b,
    vbcast_gives s d a, vext_gives s t d a l, vins_gives s d a l, vsort_gives s t d a b desc, viota_gives s d a⟩

end Sys2Proof.Machine

/-! Scalar integer instructions (R84 to R88, R39, R105): the model's arithmetic in the terms of the bit vector library, then each
instruction's register write. -/
namespace Sys2Proof.Machine

theorem minS_eq (a b : Word) : minS a b = if a.sle b then a else b := by
  simp only [minS, BitVec.sle_eq_not_slt]
  cases b.slt a <;> rfl

theorem maxS_eq (a b : Word) : maxS a b = if a.sle b then b else a := by
  have hle : a.sle b = (a.slt b || a == b) := BitVec.sle_eq_slt_or_eq
  by_cases h : a = b
  · subst h; simp [maxS]
  · simp [maxS, hle, h]

theorem minU_eq (a b : Word) : minU a b = if a.ule b then a else b := by
  simp only [minU, BitVec.ule_eq_not_ult]
  cases b.ult a <;> rfl

theorem maxU_eq (a b : Word) : maxU a b = if a.ule b then b else a := by
  by_cases h : a = b
  · subst h; simp [maxU]
  · have hne : a.toNat ≠ b.toNat := fun e => h (BitVec.eq_of_toNat_eq e)
    have hiff : a.toNat < b.toNat ↔ a.toNat ≤ b.toNat := by omega
    simp [maxU, BitVec.ult_eq_decide, BitVec.ule_eq_decide, hiff]

/-- The high half of a product modulo 2^128 is its quotient by 2^64, rounded down. -/
theorem extract_high_ofInt (x : Int) : (BitVec.ofInt 128 x).extractLsb' 64 64 = BitVec.ofInt 64 (x / 2 ^ 64) := by
  apply BitVec.eq_of_toNat_eq
  rw [BitVec.extractLsb'_toNat, BitVec.toNat_ofInt, BitVec.toNat_ofInt, Nat.shiftRight_eq_div_pow]
  omega

theorem mulHighS_eq (a b : Word) : mulHighS a b = (a.signExtend 128 * b.signExtend 128).extractLsb' 64 64 := by
  have hp : a.signExtend 128 * b.signExtend 128 = BitVec.ofInt 128 (a.toInt * b.toInt) := (BitVec.ofInt_mul _ _).symm
  rw [hp, extract_high_ofInt, mulHighS]

theorem mulHighU_eq (a b : Word) : mulHighU a b = (a.setWidth 128 * b.setWidth 128).extractLsb' 64 64 := by
  have hlt : a.toNat * b.toNat < 2 ^ 128 := lt_of_lt_of_eq (Nat.mul_lt_mul'' a.isLt b.isLt) (by decide)
  apply BitVec.eq_of_toNat_eq
  rw [mulHighU, wd, BitVec.toNat_ofNat, BitVec.extractLsb'_toNat, BitVec.toNat_mul, BitVec.toNat_setWidth_of_le (by decide),
    BitVec.toNat_setWidth_of_le (by decide), Nat.mod_eq_of_lt hlt, Nat.shiftRight_eq_div_pow]

/-- The truncated quotient, all ones for a zero divisor; −2^63 divided by −1 wraps to −2^63 (R85). -/
theorem divS_eq (a b : Word) : divS a b = if b = 0 then BitVec.allOnes 64 else a.sdiv b := by
  have hq : BitVec.ofInt 64 (a.toInt.tdiv b.toInt) = a.sdiv b := by
    apply BitVec.eq_of_toInt_eq
    rw [BitVec.toInt_ofInt, BitVec.toInt_sdiv]
  rw [divS, hq]
  rfl

/-- The library's signed remainder by 0 is the dividend, as R85 has it. -/
theorem remS_eq (a b : Word) : remS a b = a.srem b := by
  by_cases h : b = 0
  · subst h; simp [remS]
  · rw [remS, if_neg h, ← BitVec.toInt_srem, BitVec.ofInt_toInt]

theorem divU_eq (a b : Word) : divU a b = if b = 0 then BitVec.allOnes 64 else a / b := by
  rw [divU, wd, ← BitVec.toNat_udiv, BitVec.ofNat_toNat, BitVec.setWidth_eq]
  rfl

theorem remU_eq (a b : Word) : remU a b = a % b := by
  by_cases h : b = 0
  · subst h; simp [remU]
  · rw [remU, if_neg h, wd, ← BitVec.toNat_umod, BitVec.ofNat_toNat, BitVec.setWidth_eq]

theorem onesBelow_eq_length (a : Word) (n : Nat) : onesBelow a n = ((List.range n).filter (fun i => a.getLsbD i)).length := by
  induction n with
  | zero => rfl
  | succ n ih =>
    rw [onesBelow, ih, List.range_succ, List.filter_append, List.length_append, List.filter_cons, List.filter_nil]
    cases a.getLsbD n <;> rfl

/-- The count of zeros from bit `n` down, with the bits above `n` counted as zeros, is the library's recursion. -/
theorem zerosFrom_eq_clzAuxRec (a : Word) (n : Nat) (h : n < 64) : wd (zerosFrom a (n + 1) + (63 - n)) = a.clzAuxRec n := by
  induction n with
  | zero => rw [BitVec.clzAuxRec_zero, zerosFrom]; cases a.getLsbD 0 <;> rfl
  | succ n ih =>
    rw [BitVec.clzAuxRec_succ, zerosFrom, ← ih (by omega)]
    cases a.getLsbD (n + 1)
    · exact congrArg wd (by simp only [Bool.false_eq_true, if_false]; omega)
    · exact congrArg wd (by simp)

theorem zerosFrom_eq_clz (a : Word) : wd (zerosFrom a 64) = a.clz := zerosFrom_eq_clzAuxRec a 63 (by decide)

theorem shiftLeft_eq_mul_pow (a : Word) (n : Nat) : a <<< n = a * BitVec.ofNat 64 (2 ^ n) := by
  apply BitVec.eq_of_toNat_eq
  rw [BitVec.toNat_shiftLeft, Nat.shiftLeft_eq, BitVec.toNat_mul, BitVec.toNat_ofNat, Nat.mul_mod_mod]

theorem flag_slt (a b : Word) : flag (a.slt b) = if a.toInt < b.toInt then 1 else 0 := by
  rw [flag, BitVec.slt_eq_decide]
  simp only [decide_eq_true_eq]

theorem flag_ult (a b : Word) : flag (a.ult b) = if a.toNat < b.toNat then 1 else 0 := by
  rw [flag, BitVec.ult_eq_decide]
  simp only [decide_eq_true_eq]

theorem flag_beq (a b : Word) : flag (a == b) = if a = b then 1 else 0 := by
  simp only [flag, beq_iff_eq]

/-- A small signed immediate is the value of its word. -/
theorem toInt_ofInt_of_sfit {v : Int} (h : sfit 7 v = true) : (BitVec.ofInt 64 v).toInt = v := by
  simp only [sfit, Bool.and_eq_true, decide_eq_true_eq] at h
  rw [BitVec.toInt_ofInt, Int.bmod_eq_of_le] <;> omega

theorem toNat_wd {n : Nat} (h : n < 2 ^ 64) : (wd n).toNat = n := Nat.mod_eq_of_lt h

/-- `hi` times 2^32 plus the literal puts the one above the other (R39). -/
theorem ofNat_append_ofNat {hi lit : Nat} (hh : hi < 2 ^ 16) (hl : lit < 2 ^ 32) :
    BitVec.ofNat 16 hi ++ BitVec.ofNat 32 lit = BitVec.ofNat 48 (hi * 2 ^ 32 + lit) := by
  apply BitVec.eq_of_toNat_eq
  rw [BitVec.toNat_append, BitVec.toNat_ofNat, BitVec.toNat_ofNat, BitVec.toNat_ofNat, Nat.mod_eq_of_lt hh, Nat.mod_eq_of_lt hl,
    Nat.mod_eq_of_lt (by omega), ← Nat.shiftLeft_add_eq_or_of_lt hl, Nat.shiftLeft_eq]

/-! Bit fields, bit by bit (R88). -/

theorem getLsbD_fieldMask (len j : Nat) : (fieldMask len).getLsbD j = (decide (j < 64) && decide (j < len)) := by
  rw [fieldMask, wd, BitVec.getLsbD_ofNat, Nat.testBit_two_pow_sub_one]

theorem getLsbD_shifted_masked (a : Word) (pos len j : Nat) :
    ((a >>> pos) &&& fieldMask len).getLsbD j = (decide (j < 64) && decide (j < len) && a.getLsbD (pos + j)) := by
  rw [BitVec.getLsbD_and, BitVec.getLsbD_ushiftRight, getLsbD_fieldMask, Bool.and_comm]

theorem bitField_unsigned (a : Word) (pos len : Nat) : bitField false a pos len = (a.extractLsb' pos len).setWidth 64 := by
  apply BitVec.eq_of_getLsbD_eq
  intro j hj
  show ((a >>> pos) &&& fieldMask len).getLsbD j = _
  rw [getLsbD_shifted_masked, BitVec.getLsbD_setWidth, BitVec.getLsbD_extractLsb', Bool.and_assoc]

/-- The top bit of a field fills the bits above it (R88). -/
theorem bitField_signed {a : Word} {pos len : Nat} (h1 : 1 ≤ len) (h2 : pos + len ≤ 64) :
    bitField true a pos len = (a.extractLsb' pos len).signExtend 64 := by
  have hmsb : (a.extractLsb' pos len).msb = a.getLsbD (pos + (len - 1)) := by
    rw [BitVec.msb_eq_getLsbD_last, BitVec.getLsbD_extractLsb', decide_eq_true (by omega), Bool.true_and]
  have hlast : ((a >>> pos) &&& fieldMask len).getLsbD (len - 1) = a.getLsbD (pos + (len - 1)) := by
    rw [getLsbD_shifted_masked, decide_eq_true (by omega), decide_eq_true (by omega), Bool.true_and, Bool.true_and]
  apply BitVec.eq_of_getLsbD_eq
  intro j hj
  rw [BitVec.getLsbD_signExtend, hmsb, BitVec.getLsbD_extractLsb', bitField, hlast, Bool.true_and]
  cases a.getLsbD (pos + (len - 1)) with
  | false =>
    rw [if_neg Bool.false_ne_true, getLsbD_shifted_masked]
    by_cases hl : j < len <;> simp only [hj, hl, decide_true, decide_false, Bool.true_and, Bool.false_and, if_true, if_false]
  | true =>
    rw [if_pos rfl, BitVec.getLsbD_or, BitVec.getLsbD_not, getLsbD_shifted_masked, getLsbD_fieldMask]
    by_cases hl : j < len <;> simp [hj, hl]

/-- BFI takes the bits of its field from the source and every other bit from the destination (R88). -/
theorem getLsbD_bitInsert (d a : Word) (pos len : Nat) {j : Nat} (hj : j < 64) :
    (bitInsert d a pos len).getLsbD j = if pos ≤ j ∧ j < pos + len then a.getLsbD (j - pos) else d.getLsbD j := by
  have hmask : (fieldMask len <<< pos).getLsbD j = decide (pos ≤ j ∧ j < pos + len) := by
    rw [BitVec.getLsbD_shiftLeft, getLsbD_fieldMask]
    by_cases hp : pos ≤ j
    · simp [hj, hp, show ¬ j < pos by omega, show j - pos < 64 by omega, show j - pos < len ↔ j < pos + len by omega]
    · simp [hp, show j < pos by omega]
  have hshift : ((a &&& fieldMask len) <<< pos) = (a <<< pos) &&& (fieldMask len <<< pos) := BitVec.shiftLeft_and_distrib _ _ _
  rw [bitInsert, hshift, BitVec.getLsbD_or, BitVec.getLsbD_and, BitVec.getLsbD_and, BitVec.getLsbD_not, hmask,
    BitVec.getLsbD_shiftLeft]
  by_cases hf : pos ≤ j ∧ j < pos + len
  · simp [hf, hj, show ¬ j < pos by omega]
  · simp [hf, hj]

/-! Instructions whose value is what the statement says only for the operands that their encodings allow. -/

section
variable (s : State) (d : Nat) (a : Src)

theorem sltImm_gives (v : Int) : Gives s (.sltImm d a v) [(d, if (rx s a.r).toInt < v then 1 else 0)] :=
  gives_setX rfl fun h => by
    have hv : sfit 7 v = true := (Bool.and_eq_true_iff.1 h.wf).2
    rw [flag_slt, toInt_ofInt_of_sfit hv]

theorem sltnImm_gives (n : Nat) : Gives s (.sltnImm d a n) [(d, if (rx s a.r).toNat < n then 1 else 0)] :=
  gives_setX rfl fun h => by
    have hn : n < 256 := of_decide_eq_true (Bool.and_eq_true_iff.1 h.wf).2
    rw [flag_ult, toNat_wd (by omega)]

theorem seqImm_gives (v : Int) : Gives s (.seqImm d a v) [(d, if (rx s a.r).toInt = v then 1 else 0)] :=
  gives_setX rfl fun h => by
    have hv : sfit 7 v = true := (Bool.and_eq_true_iff.1 h.wf).2
    have hiff : rx s a.r = BitVec.ofInt 64 v ↔ (rx s a.r).toInt = v := by
      rw [← BitVec.toInt_inj, toInt_ofInt_of_sfit hv]
    simp only [flag_beq, hiff]

/-- The operands of LI and LI.n lie in their fields (R39). -/
theorem li_fields {hi lit : Nat} (h : (Instr.li d hi lit).wf = true) : hi < 2 ^ 16 ∧ lit < 2 ^ 32 := by
  simp only [Instr.wf, Bool.and_eq_true, decide_eq_true_eq] at h
  obtain ⟨⟨-, hh⟩, hl⟩ := h
  exact ⟨hh, hl⟩

theorem li_gives (hi lit : Nat) :
    Gives s (.li d hi lit) [(d, (BitVec.ofNat 16 hi ++ BitVec.ofNat 32 lit).signExtend 64)] :=
  gives_setX rfl fun h => by
    obtain ⟨hh, hl⟩ := li_fields d h.wf
    rw [ofNat_append_ofNat hh hl]

theorem liN_gives (hi lit : Nat) :
    Gives s (.liN d hi lit) [(d, (BitVec.ofNat 16 hi ++ BitVec.ofNat 32 lit).setWidth 64)] :=
  gives_setX rfl fun h => by
    obtain ⟨hh, hl⟩ := li_fields d h.wf
    rw [ofNat_append_ofNat hh hl, BitVec.setWidth_ofNat_of_le_of_lt (by decide) (by omega), wd]

/-- LI.hi keeps the low 48 bits of its destination (R39). -/
theorem liHi_gives (hi : Nat) : Gives s (.liHi d hi) [(d, BitVec.ofNat 16 hi ++ (rx s d).setWidth 48)] :=
  gives_setX rfl fun _ => by rw [BitVec.setWidth_eq_extractLsb' (by decide)]

/-- A field of BFX lies inside its source (R88). -/
theorem bfx_field {sg : Bool} {pos len : Nat} (h : (Instr.bfx sg d a pos len).wf = true) : 1 ≤ len ∧ pos + len ≤ 64 := by
  simp only [Instr.wf, Bool.and_eq_true, decide_eq_true_eq] at h
  obtain ⟨⟨-, hlen⟩, hend⟩ := h
  exact ⟨hlen, hend⟩

theorem bfx_signed_gives (pos len : Nat) :
    Gives s (.bfx true d a pos len) [(d, ((rx s a.r).extractLsb' pos len).signExtend 64)] :=
  gives_setX rfl fun h => by
    obtain ⟨h1, h2⟩ := bfx_field d a h.wf
    exact bitField_signed h1 h2

end

/-- Settles O1: the minima, products, quotients and counts of the model are those of the bit vector library, and every other value is
the statement's own. -/
theorem integerRegisterForms : Obligations.IntegerRegisterForms := by
  intro s d a b n
  exact ⟨gives_setX rfl fun _ => rfl, -- ADD, SUB
    gives_setX rfl fun _ => rfl,
    gives_setX rfl fun _ => rfl, -- AND, OR, XOR, ANDN
    gives_setX rfl fun _ => rfl,
    gives_setX rfl fun _ => rfl,
    gives_setX rfl fun _ => rfl,
    gives_setX rfl fun _ => rfl, -- SHL, SHR, SRA, ROT
    gives_setX rfl fun _ => rfl,
    gives_setX rfl fun _ => rfl,
    gives_setX rfl fun _ => rfl,
    gives_setX rfl fun _ => minS_eq _ _,
    gives_setX rfl fun _ => maxS_eq _ _,
    gives_setX rfl fun _ => minU_eq _ _,
    gives_setX rfl fun _ => maxU_eq _ _,
    gives_setX rfl fun _ => flag_slt _ _,
    gives_setX rfl fun _ => flag_ult _ _,
    gives_setX rfl fun _ => flag_beq _ _,
    gives_setX rfl fun _ => (ite_not _ _ _).symm, -- SEL
    gives_setX rfl fun _ => rfl, -- MUL
    gives_setX rfl fun _ => mulHighS_eq _ _,
    gives_setX rfl fun _ => mulHighU_eq _ _,
    gives_setX rfl fun _ => congrArg wd (onesBelow_eq_length _ 64),
    gives_setX rfl fun _ => zerosFrom_eq_clz _,
    gives_setX rfl fun _ => rfl, -- MOV
    gives_setX rfl fun _ => divS_eq _ _,
    gives_setX rfl fun _ => divU_eq _ _,
    gives_setX rfl fun _ => remS_eq _ _,
    gives_setX rfl fun _ => remU_eq _ _,
    gives_setX rfl fun _ => congrArg _ (shiftLeft_eq_mul_pow _ n)⟩

/-- Settles O2: a comparison's immediate and the halves of LI keep their values because they fit their fields, and a bit field is
compared bit by bit with the one that R88 gives. -/
theorem immediatesAndFields : Obligations.ImmediatesAndFields := by
  refine ⟨fun s d a v n hi lit => ?_, fun s d a b pos len => ?_⟩
  · exact ⟨gives_setX rfl fun _ => rfl, -- ADD, AND, OR, XOR, MUL
      gives_setX rfl fun _ => rfl,
      gives_setX rfl fun _ => rfl,
      gives_setX rfl fun _ => rfl,
      gives_setX rfl fun _ => rfl,
      gives_setX rfl fun _ => rfl, -- SHL, SHR, SRA, ROT
      gives_setX rfl fun _ => rfl,
      gives_setX rfl fun _ => rfl,
      gives_setX rfl fun _ => rfl,
      sltImm_gives s d a v,
      sltnImm_gives s d a n,
      seqImm_gives s d a v,
      gives_setX rfl fun _ => rfl, -- MOV
      li_gives s d hi lit,
      liN_gives s d hi lit,
      liHi_gives s d hi⟩
  · exact ⟨bfx_signed_gives s d a pos len,
      gives_setX rfl fun _ => bitField_unsigned _ _ _,
      ⟨bitInsert (rx s d) (rx s a.r) pos len, gives_setX rfl fun _ => rfl, fun _ _ hj => getLsbD_bitInsert _ _ _ _ hj⟩,
      gives_setX rfl fun _ => rfl, -- RAND, RAND.v
      gives_setV rfl fun _ => rfl⟩

end Sys2Proof.Machine
